-- ==== Sys2Proof/Word.lean ====
section
/-! DEFINITION. The word types of the device and its sparse tables as plain lists. -/

namespace Sys2Proof

/-- One byte. -/
abbrev Byte := BitVec 8

/-- A 32-bit register word (R63). -/
abbrev Word := BitVec 32

/-- A 64-bit value: an address, a counter, a register pair (R64). -/
abbrev DWord := BitVec 64

/-- The 128 bytes of one line (R209), byte 0 in the low bits. -/
abbrev Line := BitVec 1024

/-- A 50-bit line address pa[56:7] (R210). -/
abbrev LineAddr := BitVec 50

/-- One bit per lane of a group (R63). -/
abbrev Mask := BitVec 16

/-- A sparse table: (key, value) pairs with strictly rising keys and no entry equal to the table's
default. Its operations stand in Machine/Maps.lean. -/
abbrev Table (α : Type) := List (Nat × α)

end Sys2Proof
end

