-- ==== Sys2Proof/Syntax.lean ====
section
/-! DEFINITION. The commands of the block: one constructor of Instr for every row of
spec/opcode_table.json, with the operands the step carries, and the small types of those operands. -/

namespace Sys2Proof

/-- A presented core (R3): channel, cluster, core. -/
structure CoreRef where
  ch : Fin 32
  cl : Fin 128
  core : Fin 256
  deriving DecidableEq, Repr

/-- What the SEC-DED checks find in the words that a step reads: of the register file and local memory
(R28, R61), or of a sync object at its node (R207). `corrected` gives the number of words corrected. -/
inductive Ecc where
  | ok
  | corrected (words : Nat)
  | double (lanes : Mask)
  | objCorrected
  | objDouble
  deriving DecidableEq, Repr

/-- What the checks of a cache find for the line that a request or a snoop looks up (R230). -/
inductive CacheEcc where
  | ok
  | dataSingle
  | dataDouble (half : Fin 2)
  | tagParity
  | tagHeader
  | dirSingle
  | dirDouble
  deriving DecidableEq, Repr

/-- What a slice's checks find in the line that a request looks up, and in the victim that leaves for it (R230). -/
structure CacheFind where
  here : CacheEcc
  victim : CacheEcc
  deriving DecidableEq, Repr

/-- A line that a cluster's cache looks up, with what it finds. -/
abbrev FoundAt := LineAddr × CacheEcc

/-- A group slot of a presented core (R3), what the checks find as the group's instruction reads its
operands, and what the cluster's cache finds in lines that the instruction looks up. -/
structure GRef where
  core : CoreRef
  slot : Fin 16
  ecc : Ecc
  cache : List FoundAt
  deriving DecidableEq, Repr

/-- A host command that the hub has accepted, named by its function, its context (none: the function
stream set, R304), its stream and its sequence number. -/
structure CmdRef where
  fn : Fin 257
  ctx : Option (Fin 2048)
  stream : Fin 16
  seq : Word
  deriving DecidableEq, Repr

/-- The agents between which coherence messages travel (R215). Clusters and cores are named by their
flat numbers (128 × channel + cluster; the core identifier of R3). `coreAt` is a core of another device, as a home
registers it (R198). -/
inductive Agent where
  | cluster (k : Fin 4096)
  | slice (ch : Fin 32)
  | core (k : Fin 1048576)
  | engine (k : Fin 4096)
  | node (n : Fin 512)
  | coreAt (n : Fin 512) (k : Fin 1048576)
  deriving DecidableEq, Repr

/-- The permission that a response carries (R216). -/
inductive Grant where
  | none | shared | exclusive | modified
  deriving DecidableEq, Repr

/-- The operations of ATOM and RED (R81). -/
inductive AtomOp where
  | add | fadd | umin | umax | smin | smax | fmin | fmax | and | or | xor | swap | cas
  deriving DecidableEq, Repr

/-- The full/empty operations (R82). -/
inductive FeOp where
  | read | copy | take | fill | put | empty | waitFull | waitEmpty
  deriving DecidableEq, Repr

/-- One lane's part of an ATOMIC or full/empty line request: its lane, byte offset in the line, size
(4 or 8 bytes), operation and operands (R81, R82). -/
inductive LaneOp where
  | atom (lane : Fin 16) (off : Fin 128) (wide : Bool) (op : AtomOp) (x y : DWord)
  | fe (lane : Fin 16) (off : Fin 128) (op : FeOp) (x : DWord)
  deriving DecidableEq, Repr

/-- The lane of an operation. -/
def LaneOp.laneNo (o : LaneOp) : Nat :=
  match o with
  | .atom lane .. => lane.val
  | .fe lane .. => lane.val

/-- What one lane receives from an ATOMIC: the old value, whether the word was full, whether the lane
parks (its condition was unmet) and whether the registration was refused (R81, R50, R199). -/
structure LaneResult where
  lane : Fin 16
  value : DWord
  full : Bool
  parked : Bool
  unregistered : Bool
  deriving DecidableEq, Repr

/-- The kinds of coherence message (R284). -/
inductive MsgKind where
  | readS | readU | own | rdSnap | wrMerge | atomic | feOp
  | snpFwd | snpFwdU | snpInv | snpPeek | snpRecall | feWake
  | data | grant | ack | none | inFlight | poisoned | wbAck | result | wb | lost
  deriving DecidableEq, Repr

/-- A coherence message (R215 to R217, R284). `requester` is the agent a forwarding snoop serves;
`tag` names the outstanding entry of the requester, and `txn` the transaction of the sender that an answer
names (R284, R286); `ownerNowShared` is the owner's answer to SNP_FWD that it now holds S. On an ATOMIC or a
full/empty request `hasData` asks for a RESULT, and on a GRANT it says that the data come from the owner. -/
structure Msg where
  kind : MsgKind
  line : LineAddr
  src : Agent
  dst : Agent
  requester : Agent
  tag : Nat
  txn : Nat
  data : Line
  mask : BitVec 128
  poison : BitVec 2
  grant : Grant
  hasData : Bool
  ownerNowShared : Bool
  fe : BitVec 16
  feMask : BitVec 16
  stash : Option (Fin 128)
  context : Fin 2048
  cls : Fin 4
  flush : Bool
  ops : List LaneOp
  results : List LaneResult
  flushed : Bool
  deriving DecidableEq, Repr

/-- Errors in the 72 symbols of a codeword in the stacks (R237): byte `i` is what symbol `i` differs by from what was written. -/
abbrev SymErrors := BitVec 576

/-- A request to a translation walker: where the miss arose (R259). -/
structure WalkKey where
  context : Fin 2048
  page : Nat
  big : Bool
  deriving DecidableEq, Repr

/-- KIND of the LINK field (R277). -/
inductive FlitKind where
  | idle | data | ctrl
  deriving DecidableEq, Repr

/-- The fields of IDENT (R291). -/
structure IdentRec where
  node : Fin 512
  channel : Fin 32
  port : Fin 8
  serial : Word
  protoMinor : Byte
  protoMajor : Byte
  firmware : Word
  digest : BitVec 128
  epoch : Word
  powerOn : Word
  deriving DecidableEq, Repr

/-- The management messages (R284). -/
inductive Mgt where
  | ident (r : IdentRec)
  | paceReport (node : Fin 512) (pace : BitVec 16) (seqNo : DWord)
  | nodeLost
  | nodeRejoin
  | channelReset
  | streamRestart (base : BitVec 16)
  | diag
  deriving DecidableEq, Repr

/-- What a message of Leat carries (R284). -/
inductive Body where
  | coherence (m : Msg)
  | management (m : Mgt)
  deriving DecidableEq, Repr

/-- A message as Leat carries it (R283, R285): the header fields that routing and duplicate suppression read, and what it
carries. The rest is where it stands on this device: `upper` in which half of the VC buffers of on-module ports it travels
(R273), `entry` the external port by which it came into this device (R289), `cameBy` the port by which it came to its
present channel, and `holding` whether it still stands in that port's receive buffer (R281). -/
structure StreamMsg where
  srcNode : Fin 512
  srcCh : Fin 32
  dstNode : Fin 512
  dstCh : Fin 32
  txn : BitVec 16
  rel : BitVec 16
  inc : BitVec 2
  sequenced : Bool
  body : Body
  upper : Bool
  entry : Option (Nat × Nat)
  cameBy : Option Nat
  holding : Bool
  deriving DecidableEq, Repr

/-- A run of a message's slots in a flit: a message may span flits (R277). -/
structure FlitPart where
  msg : StreamMsg
  first : Nat
  count : Nat
  deriving DecidableEq, Repr

/-- A flit (R277). -/
structure Flit where
  seq : BitVec 12
  ack : BitVec 12
  nak : Bool
  kind : FlitKind
  credits : List (Fin 16 × BitVec 12)
  parts : List FlitPart
  deriving DecidableEq, Repr

/-- A received FEC block: its 272 bytes (R276), and the flit that its bytes spell once they are corrected. -/
structure RxBlock where
  bytes : List Byte
  flit : Flit
  deriving DecidableEq, Repr

/-- The four record areas that a host enables and returns (R322). -/
inductive AreaRef where
  | fnCq | fault | event | ctxCq (ctx : Fin 2048)
  deriving DecidableEq, Repr

/-- Who sends an Ebfold request: a node of the bus, by its address, or a mailbox of BAR4 (R357, R383). -/
inductive EbSource where
  | bus (addr : Fin 128)
  | mailbox (m : Fin 4)
  deriving DecidableEq, Repr

/-- An Ebfold request PDU (R364). -/
structure EbReq where
  src : EbSource
  svc : Byte
  seg : Bool
  auth : Bool
  last : Bool
  index : BitVec 16
  sub : Byte
  len : BitVec 16
  txn : Word
  offset : BitVec 16
  session : Byte
  value : List Byte
  tag : BitVec 64
  deriving DecidableEq, Repr

/-- A frame of the field bus (R358, R361 to R363): CAN XL with its priority ID, SDT, VCID where present, AF, SEC and data; CAN FD with a 29-bit
identifier; or any other. -/
inductive BusFrame where
  | xl (priority : BitVec 11) (sdt : Byte) (vcid : Option Byte) (af : Word) (sec : Bool) (data : List Byte)
  | fd (id : BitVec 29) (data : List Byte)
  | other
  deriving DecidableEq, Repr

/-- A read-clear counter register of a channel window or of a function's block (R7). -/
inductive RcReg where
  | sluEcc (ch : Fin 32) | sluDrop (ch : Fin 32) | sluMeDrop (ch : Fin 32)
  | ccCorr (ch : Fin 32) | ccUncorr (ch : Fin 32) | ccLost (ch : Fin 32)
  | memCorr (ch : Fin 32) | memUncorr (ch : Fin 32)
  | xltWalks (ch : Fin 32) | xltFaults (ch : Fin 32)
  | ltFec (ch : Fin 32) | ltLinkErr (ch : Fin 32) | ltDup (ch : Fin 32)
  | tagLost (ch : Fin 32)
  | fnCounts (fn : Fin 257)
  deriving DecidableEq, Repr

/-- What the bring-up of a channel finds (R444): training of the stacks, the pseudo-channels that
fail it, the good physical cores of each cluster that has failures, and the measured curve. -/
structure BringUp where
  trained : Bool
  failedPcs : List (Fin 64)
  journalErrors : List (Fin 2 × Nat × BitVec 512)
  badCores : List (Fin 128 × Fin 264)
  initOk : Bool
  portsOk : Bool
  sweep : List (BitVec 16)
  dieTemp : Int
  deriving DecidableEq, Repr

/-- The commands: one constructor per row of spec/opcode_table.json, in the table's order. -/
inductive Instr where
  | illegal (g : GRef) (w : DWord)
  | nop (g : GRef) (w : DWord)
  | bra (g : GRef) (w : DWord)
  | brx (g : GRef) (w : DWord)
  | jmpl (g : GRef) (w : DWord)
  | jmpr (g : GRef) (w : DWord)
  | exit (g : GRef) (w : DWord)
  | trap (g : GRef) (w : DWord)
  | mov (g : GRef) (w : DWord)
  | add (g : GRef) (w : DWord)
  | sub (g : GRef) (w : DWord)
  | mul (g : GRef) (w : DWord)
  | mulhi (g : GRef) (w : DWord)
  | mad (g : GRef) (w : DWord)
  | min (g : GRef) (w : DWord)
  | max (g : GRef) (w : DWord)
  | and (g : GRef) (w : DWord)
  | or (g : GRef) (w : DWord)
  | xor (g : GRef) (w : DWord)
  | shl (g : GRef) (w : DWord)
  | shr (g : GRef) (w : DWord)
  | sar (g : GRef) (w : DWord)
  | sel (g : GRef) (w : DWord)
  | popc (g : GRef) (w : DWord)
  | clz (g : GRef) (w : DWord)
  | fadd (g : GRef) (w : DWord)
  | fsub (g : GRef) (w : DWord)
  | fmul (g : GRef) (w : DWord)
  | ffma (g : GRef) (w : DWord)
  | fmin (g : GRef) (w : DWord)
  | fmax (g : GRef) (w : DWord)
  | frcp (g : GRef) (w : DWord)
  | frsq (g : GRef) (w : DWord)
  | fsqrt (g : GRef) (w : DWord)
  | fexp2 (g : GRef) (w : DWord)
  | flog2 (g : GRef) (w : DWord)
  | hzadd (g : GRef) (w : DWord)
  | cvt (g : GRef) (w : DWord)
  | cmp (g : GRef) (w : DWord)
  | plop (g : GRef) (w : DWord)
  | ptos (g : GRef) (w : DWord)
  | stop (g : GRef) (w : DWord)
  | pcnt (g : GRef) (w : DWord)
  | shfl (g : GRef) (w : DWord)
  | rdlane (g : GRef) (w : DWord)
  | ld (g : GRef) (w : DWord)
  | st (g : GRef) (w : DWord)
  | pref (g : GRef) (w : DWord)
  | ldl (g : GRef) (w : DWord)
  | stl (g : GRef) (w : DWord)
  | atom (g : GRef) (w : DWord)
  | red (g : GRef) (w : DWord)
  | ldfe (g : GRef) (w : DWord)
  | stfe (g : GRef) (w : DWord)
  | waitfe (g : GRef) (w : DWord)
  | syncSet (g : GRef) (w : DWord)
  | syncClear (g : GRef) (w : DWord)
  | syncWaitSet (g : GRef) (w : DWord)
  | syncWaitClear (g : GRef) (w : DWord)
  | syncPut (g : GRef) (w : DWord)
  | syncTake (g : GRef) (w : DWord)
  | syncTest (g : GRef) (w : DWord)
  | syncAdd (g : GRef) (w : DWord)
  | signal (g : GRef) (w : DWord)
  | signalDelivery (ctx : Fin 2048) (target : Word)
  | waitsig (g : GRef) (w : DWord)
  | qload (g : GRef) (w : DWord)
  | qswap (g : GRef) (w : DWord)
  | qstream (g : GRef) (w : DWord)
  | qdrain (g : GRef) (w : DWord)
  | qzero (g : GRef) (w : DWord)
  | quernQueueStart (c : CoreRef) (id : Nat) (found : List (Fin 256 × Ecc))
  | quernInstructionComplete (c : CoreRef) (id : Nat)
  | fence (g : GRef) (w : DWord)
  | complete (g : GRef) (w : DWord)
  | barGroup (g : GRef) (w : DWord)
  | barBlock (g : GRef) (w : DWord)
  | waithint (g : GRef) (w : DWord)
  | getsr (g : GRef) (w : DWord)
  | getsr64 (g : GRef) (w : DWord) (lag : Fin 5)
  | gettid (g : GRef) (w : DWord)
  | clrflags (g : GRef) (w : DWord)
  | moveq (g : GRef) (w : DWord)
  | moveDescriptorStart (ch : Fin 32) (cl : Fin 128)
  | moveEngineCompletion (ch : Fin 32) (cl : Fin 128) (id : Nat)
  | blockPlace (ch : Fin 32) (launch : Nat)
  | groupDemote (g : GRef)
  | groupPromote (c : CoreRef)
  | rotationCheck (c : CoreRef)
  | waithintBackoff (g : GRef)
  | barrierStall (c : CoreRef) (blk : Fin 4) (bar : Fin 4)
  | syncWaitStall (g : GRef)
  | coreSave (c : CoreRef) (found : List (Fin 256 × Ecc))
  | coreRestore (c : CoreRef) (saved : Nat)
  | idleSelfTest (c : CoreRef) (pass : Bool)
  | spareCoreSwap (c : CoreRef) (spareTests : List Bool)
  | storeBufferIssue (c : CoreRef) (e : CacheEcc)
  | storeAck (c : CoreRef) (id : Nat)
  | loadReturn (c : CoreRef) (id : Nat)
  | wakeRampRelease (ch : Fin 32)
  | rampStepEnd (ch : Fin 32)
  | unregisteredRetry (g : GRef)
  | readS (m : Msg) (e : CacheFind)
  | readU (m : Msg) (e : CacheFind)
  | own (m : Msg) (e : CacheFind)
  | wb (m : Msg) (e : CacheEcc)
  | rdSnap (m : Msg) (e : CacheFind)
  | wrMerge (m : Msg) (e : CacheFind)
  | atomic (m : Msg) (e : CacheFind)
  | feOp (m : Msg) (e : CacheFind)
  | snpFwd (m : Msg) (e : CacheEcc)
  | snpFwdU (m : Msg) (e : CacheEcc)
  | snpInv (m : Msg) (e : CacheEcc)
  | snpPeek (m : Msg) (e : CacheEcc)
  | snpRecall (m : Msg) (e : CacheEcc)
  | data (m : Msg) (e : CacheEcc)
  | grant (m : Msg) (e : CacheEcc)
  | ack (m : Msg)
  | none (m : Msg)
  | inFlight (m : Msg)
  | poisoned (m : Msg)
  | wbAck (m : Msg)
  | result (m : Msg)
  | lost (m : Msg)
  | feWake (m : Msg)
  | memoryReadComplete (line : LineAddr) (lo hi : SymErrors)
  | memoryWriteAck (line : LineAddr)
  | targetedScrub (ch : Fin 32)
  | patrolScrub (ch : Fin 32) (upsets : List (Nat × SymErrors))
  | evacuationBatch (ch : Fin 32) (upsets : List (Nat × SymErrors))
  | evacuationCommit (ch : Fin 32)
  | mapStoreCommit (ch : Fin 32)
  | tlbWalkStart (ch : Fin 32)
  | walkComplete (ch : Fin 32) (k : WalkKey)
  | faultRecordPost (fn : Fin 257)
  | flitReceive (ch : Fin 32) (port : Fin 6) (b : RxBlock)
  | nakRepeat (ch : Fin 32) (port : Fin 6)
  | keepalive (ch : Fin 32) (port : Fin 6)
  | ident (ch : Fin 32) (port : Fin 6) (r : IdentRec)
  | paceReport (from_ : Fin 512) (pace : BitVec 16) (seqNo : DWord)
  | paceReportTimer
  | pacePeerStale (n : Fin 512)
  | nodeLost (n : Fin 512) (theirCh : Fin 32) (ch : Fin 32)
  | nodeRejoin (n : Fin 512)
  | nodeLostTimer (n : Fin 512)
  | channelReset (n : Fin 512) (theirCh : Fin 32) (ch : Fin 32)
  | streamRestart (n : Fin 512) (theirCh : Fin 32) (ch : Fin 32) (base : BitVec 16)
  | diag (ch : Fin 32) (port : Fin 6)
  | trainingComplete (ch : Fin 32) (port : Fin 6) (lanes : Fin 5)
  | trainingTimeout (ch : Fin 32) (port : Fin 6)
  | trainingRetry (ch : Fin 32) (port : Fin 6)
  | freshStartPattern (ch : Fin 32) (port : Fin 6)
  | autoRetrainTrigger (ch : Fin 32) (port : Fin 6)
  | retrainComplete (ch : Fin 32) (port : Fin 6) (lanes : Fin 5) (farAck : BitVec 12)
  | linkDeadTimeout (ch : Fin 32) (port : Fin 6)
  | requestSilenceTimeout (n : Fin 512)
  | channelIsolationTimeout (ch : Fin 32)
  | portRetrainRequest (ch : Fin 32) (port : Fin 6)
  | portDisable (ch : Fin 32) (port : Fin 6)
  | portEnable (ch : Fin 32) (port : Fin 6)
  | commandSubmit (fn : Fin 257) (offset : BitVec 20) (bytes : Nat) (allEnables : Bool) (record : BitVec 512)
  | nopCommand (c : CmdRef)
  | launch (c : CmdRef)
  | write (c : CmdRef)
  | copy (c : CmdRef) (hostData : List Byte)
  | segment (c : CmdRef)
  | invalidate (c : CmdRef)
  | resolve (c : CmdRef)
  | syncAlloc (c : CmdRef)
  | syncFree (c : CmdRef)
  | syncOpSet (c : CmdRef)
  | syncOpClear (c : CmdRef)
  | syncOpTest (c : CmdRef)
  | syncOpAdd (c : CmdRef)
  | syncOpSetPayload (c : CmdRef)
  | monitorArea (c : CmdRef)
  | ctxMode (c : CmdRef)
  | cqSet (c : CmdRef)
  | excActionResume (c : CmdRef)
  | excActionEnd (c : CmdRef)
  | excActionAbort (c : CmdRef)
  | summary (c : CmdRef)
  | streamFence (c : CmdRef)
  | commandCompletionPost (c : CmdRef)
  | msixTimer (fn : Fin 257) (v : Fin 32)
  | msixUnmask (fn : Fin 257) (v : Fin 32)
  | areaHeadWrite (fn : Fin 257) (a : AreaRef) (head : Word)
  | areaEnable (fn : Fin 257) (a : AreaRef) (cfg : Word)
  | fnStoreEnable (fn : Fin 257) (v : DWord)
  | busMasterEnable (fn : Fin 257)
  | pcieLinkDown
  | functionLevelReset (fn : Fin 257)
  | tokenRefill
  | ctxCreate (c : CmdRef)
  | ctxDestroy (c : CmdRef)
  | ctxReset (c : CmdRef)
  | contextCleanupEnd (ctx : Fin 2048)
  | ctxClass (c : CmdRef)
  | fnQuota (c : CmdRef)
  | fnGrant (c : CmdRef)
  | chanReset (c : CmdRef)
  | clusterReset (ch : Fin 32) (cl : Fin 128) (c : Option CmdRef)
  | channelResetSequence (ch : Fin 32) (badCores : List (Fin 128 × Fin 264)) (failedPcs : List (Fin 64)) (journalErrors : List (Fin 2 × Nat × BitVec 512))
  | supplyFault (ch : Fin 32)
  | leatReferenceLoss (ch : Fin 32)
  | leatReferenceQualified (ch : Fin 32)
  | hubReferenceLoss
  | hubReferenceStable
  | controllerWatchdog (ch : Fin 32)
  | hubReset
  | hubWatchdog
  | devicePowerOn
  | channelBringUp (ch : Fin 32) (found : BringUp)
  | hubReady (elapsed250 : Bool)
  | pacemonWindow (ch : Fin 32) (low mean : BitVec 16)
  | governorEpoch (ch : Fin 32) (low : BitVec 16) (die stack : Int)
  | powerInterval (meanPower : Nat) (milliVolts : Nat)
  | energyInterval (input : Nat) (reports : List (Fin 32 × Option (Fin 2048) × Nat))
  | curveRefitTimer (ch : Fin 32)
  | thermalTrip (ch : Fin 32) (die stack : Int)
  | tripRecovery (ch : Fin 32) (die stack : Int)
  | inputUndervoltage
  | undervoltageEnd
  | inputOutOfRange
  | coolantFail
  | coolantFailDeassert
  | read (r : EbReq)
  | ebfoldWrite (r : EbReq)
  | describe (r : EbReq)
  | identify (r : EbReq)
  | sessionOpen (r : EbReq) (nonce : BitVec 256)
  | sessionProve (r : EbReq)
  | sessionClose (r : EbReq)
  | sessionIdleTimeout (n : Fin 9)
  | sessionProveTimeout (n : Fin 9)
  | event
  | busOff
  | busOffRecovery
  | restoreDefaults (r : EbReq)
  | coherenceConfigWrite (r : EbReq)
  | mapoutNominate (r : EbReq)
  | mapoutGrant (r : EbReq)
  | mapoutWithdraw (r : EbReq)
  | curveRefitRequest (r : EbReq)
  | curveClear (r : EbReq)
  | restEnter (r : EbReq)
  | restLeave (r : EbReq)
  | coolantClear (r : EbReq)
  | retireChannel (r : EbReq)
  | channelRetirement (ch : Fin 32)
  | reinstateChannel (r : EbReq)
  | fwStage (c : CmdRef) (readsBack : Bool)
  | fwActivate (c : CmdRef)
  | channelFirmwareUpdate (ch : Fin 32) (bankHash : BitVec 256) (answered : Bool)
  | handoffTimeout (ch : Fin 32)
  | fwFloor (c : CmdRef)
  | ownerKey (c : CmdRef)
  | quote (c : CmdRef)
  | pmcSnap (ch : Fin 32)
  | snapshotComplete (ch : Fin 32)
  | pmcFreeze (ch : Fin 32)
  | pmcUnfreeze (ch : Fin 32)
  | pmcSelWrite (ch : Fin 32) (sel : Fin 20) (v : Word)
  | histSelWrite (ch : Fin 32) (n : Fin 4) (v : Word)
  | tagEnable (ch : Fin 32) (v : Word)
  | tagRecordWrite (ch : Fin 32)
  | fabRefcntLowRead (ch : Fin 32)
  | errlogRead (ch : Fin 32) (mem : Bool)
  | rcCounterRead (r : RcReg)
  | registerWrite (fn : Fin 257) (bar4 : Bool) (offset : BitVec 22) (wide : Bool) (v : DWord)
  | noPathTimeout (n : Fin 512)
  | perstNRise
  | malformed (f : BusFrame) (full : Bool)
  deriving DecidableEq, Repr

end Sys2Proof
end

