-- ==== Sys2Proof/Config.lean ====
section
/-! DEFINITION. Config: the values that one part or one implementation fixes and the spec leaves open.
Every one is an opaque constant without a body, so that no proof can see what it is. -/

namespace Sys2Proof.Config

/-- The free values: where the spec states no value, a step reads `free` at the State's counter and
advances the counter (notes/assumptions/2.md). -/
opaque free : Nat → BitVec 64

/-- The latencies of R38, which the spec gives as typical, hold back the next instruction of a group slot at a handshake of a core: core, handshake
count, slot (notes/assumptions/50.md). -/
opaque latencyHolds : Nat → Nat → Nat → Bool

/-- The OP-specific field [125:92] of a response's header, whose layout the spec does not give (R283, R284). -/
opaque responseField : Msg → BitVec 34

/-- The operand slots of an ATOMIC or a full/empty request and the slots of a RESULT, whose layout the spec does not give (R284). -/
opaque operandSlot : Msg → Nat → BitVec 128

/-- The serial number of the part, 0x1018 subindex 4 (R381: "Per part"). -/
opaque serial : Word

/-- The hardware revision of the part, 0x1018 subindex 3 (R381: "Per part"). -/
opaque hardwareRevision : Word

/-- The version of the hub ROM that the measurement log names (R410 step 1; no value is stated). -/
opaque romVersion : Word

/-- The fused SHA-256 of the Kimidal firmware key (R406). -/
opaque fusedKeyHash : BitVec 256

/-- The address straps, read at a hub reset (0x1F00: "Straps"; R359). -/
opaque straps : Fin 128

/-- The text of a hub firmware version in 0x100A (R381 gives it no format): 16 characters, the first in the low bits. -/
opaque versionText : Word → BitVec 128

/-- The byte that stands for the source address in a session transcript of a mailbox, which uses no address (R371, R383). -/
opaque mailboxAddress : Fin 4 → Byte

/-- The device certificate chain, object 0x1F21: at most 4,096 bytes (R406). -/
opaque certificate : List Byte

/-- RSASSA-PSS signing under the device identity key (R416). -/
opaque identitySign : List Byte → List Byte

/-- RSAES-OAEP decryption under the device identity key (R371); none when it fails. -/
opaque identityDecrypt : List Byte → Option (List Byte)

end Sys2Proof.Config
end

