-- ==== Sys2Proof/Machine/Hash.lean ====
section
/-! DEFINITION. The functions of the standards that the spec names (R291, R371 to R373, R406, R408): SHA-256, HMAC-SHA-256, HKDF-SHA-256,
and the verification of RSASSA-PSS. Written from FIPS 180-4, RFC 2104, RFC 5869 and RFC 8017 (PRESUMED, notes/assumptions/9.md), and sealed, so that
no proof computes them by accident: `sha256_eq` and the lemmas beside it say what they are. -/

namespace Sys2Proof.Machine

/-! ## Byte strings -/

/-- A big-endian number. -/
def beNat (l : List Byte) : Nat := l.foldl (fun n b => 256 * n + b.toNat) 0
/-- `n` bytes of a number, big-endian. -/
def bytesBe (n x : Nat) : List Byte := (List.range n).map fun i => BitVec.ofNat 8 (x >>> (8 * (n - 1 - i)))
/-- Byte strings combined byte by byte. -/
def xorBytes (a b : List Byte) : List Byte := List.zipWith (· ^^^ ·) a b

/-! ## SHA-256 -/

/-- The round constants. -/
def shaK : List Nat :=
  [0x428A2F98, 0x71374491, 0xB5C0FBCF, 0xE9B5DBA5, 0x3956C25B, 0x59F111F1, 0x923F82A4, 0xAB1C5ED5]
    ++ [0xD807AA98, 0x12835B01, 0x243185BE, 0x550C7DC3, 0x72BE5D74, 0x80DEB1FE, 0x9BDC06A7, 0xC19BF174]
    ++ [0xE49B69C1, 0xEFBE4786, 0x0FC19DC6, 0x240CA1CC, 0x2DE92C6F, 0x4A7484AA, 0x5CB0A9DC, 0x76F988DA]
    ++ [0x983E5152, 0xA831C66D, 0xB00327C8, 0xBF597FC7, 0xC6E00BF3, 0xD5A79147, 0x06CA6351, 0x14292967]
    ++ [0x27B70A85, 0x2E1B2138, 0x4D2C6DFC, 0x53380D13, 0x650A7354, 0x766A0ABB, 0x81C2C92E, 0x92722C85]
    ++ [0xA2BFE8A1, 0xA81A664B, 0xC24B8B70, 0xC76C51A3, 0xD192E819, 0xD6990624, 0xF40E3585, 0x106AA070]
    ++ [0x19A4C116, 0x1E376C08, 0x2748774C, 0x34B0BCB5, 0x391C0CB3, 0x4ED8AA4A, 0x5B9CCA4F, 0x682E6FF3]
    ++ [0x748F82EE, 0x78A5636F, 0x84C87814, 0x8CC70208, 0x90BEFFFA, 0xA4506CEB, 0xBEF9A3F7, 0xC67178F2]

/-- The eight working words. -/
structure ShaState where
  a : Nat
  b : Nat
  c : Nat
  d : Nat
  e : Nat
  f : Nat
  g : Nat
  h : Nat
  deriving DecidableEq, Repr

/-- The initial hash value. -/
def shaInit : ShaState := ⟨0x6A09E667, 0xBB67AE85, 0x3C6EF372, 0xA54FF53A, 0x510E527F, 0x9B05688C, 0x1F83D9AB, 0x5BE0CD19⟩

/-- A 32-bit word rotated right. -/
def rotr (x n : Nat) : Nat := (x >>> n) ||| ((x <<< (32 - n)) % 2 ^ 32)
/-- The low 32 bits. -/
def word32 (x : Nat) : Nat := x % 2 ^ 32

/-- The next word of the message schedule from the words so far, the latest first. -/
def shaNext (w : List Nat) : Nat :=
  let x := w.getD 14 0
  let y := w.getD 1 0
  word32 ((rotr y 17 ^^^ rotr y 19 ^^^ (y >>> 10)) + w.getD 6 0 + (rotr x 7 ^^^ rotr x 18 ^^^ (x >>> 3)) + w.getD 15 0)

/-- The 64 words of the schedule of a block. -/
def shaSchedule (block : List Byte) : List Nat :=
  let first := (List.range 16).map fun i => beNat ((block.drop (4 * i)).take 4)
  ((List.range 48).foldl (fun w _ => shaNext w :: w) first.reverse).reverse

/-- One round. -/
def shaRound (s : ShaState) (kw : Nat × Nat) : ShaState :=
  let t1 := s.h + (rotr s.e 6 ^^^ rotr s.e 11 ^^^ rotr s.e 25) + ((s.e &&& s.f) ^^^ ((0xFFFFFFFF ^^^ s.e) &&& s.g)) + kw.1 + kw.2
  let t2 := (rotr s.a 2 ^^^ rotr s.a 13 ^^^ rotr s.a 22) + ((s.a &&& s.b) ^^^ (s.a &&& s.c) ^^^ (s.b &&& s.c))
  ⟨word32 (t1 + t2), s.a, s.b, s.c, word32 (s.d + t1), s.e, s.f, s.g⟩

/-- A block of 64 bytes is taken in. -/
def shaBlock (s : ShaState) (block : List Byte) : ShaState :=
  let t := (shaK.zip (shaSchedule block)).foldl shaRound s
  ⟨word32 (s.a + t.a), word32 (s.b + t.b), word32 (s.c + t.c), word32 (s.d + t.d), word32 (s.e + t.e), word32 (s.f + t.f), word32 (s.g + t.g),
    word32 (s.h + t.h)⟩

/-- The message with its padding and its length in bits, a whole number of blocks. -/
def shaPadded (m : List Byte) : List Byte :=
  m ++ [0x80] ++ List.replicate ((119 - m.length % 64) % 64) 0 ++ bytesBe 8 (8 * m.length)

/-- The 32 bytes of the digest. -/
def sha256Bytes (m : List Byte) : List Byte :=
  let p := shaPadded m
  let t := (List.range (p.length / 64)).foldl (fun s i => shaBlock s ((p.drop (64 * i)).take 64)) shaInit
  [t.a, t.b, t.c, t.d, t.e, t.f, t.g, t.h].flatMap (bytesBe 4)

/-- A byte string as a field of 32 bytes, its first byte in the low bits. -/
def field256 (l : List Byte) : BitVec 256 := BitVec.ofNat 256 (l.foldr (fun b n => b.toNat + 256 * n) 0)

/-! ## HMAC and HKDF -/

/-- The 32 bytes of HMAC-SHA-256. -/
def hmacBytes (key m : List Byte) : List Byte :=
  let k := if 64 < key.length then sha256Bytes key else key
  let k := k ++ List.replicate (64 - k.length) 0
  sha256Bytes (xorBytes k (List.replicate 64 0x5C) ++ sha256Bytes (xorBytes k (List.replicate 64 0x36) ++ m))

/-- The 32 bytes of HKDF-SHA-256: extract with the salt, expand once with the info. -/
def hkdfBytes (secret salt info : List Byte) : List Byte := hmacBytes (hmacBytes salt secret) (info ++ [1])

/-! ## RSASSA-PSS with SHA-256, MGF1 and a salt of 32 bytes (R406) -/

/-- `b` to the power `e` modulo `n`, over the 32 bits of the exponent. -/
def modPow (b e n : Nat) : Nat :=
  ((List.range 32).foldl (fun (acc : Nat × Nat) i =>
    (if e.testBit i then acc.1 * acc.2 % n else acc.1, acc.2 * acc.2 % n)) (1 % n, b % n)).1

/-- MGF1. -/
def mgf1 (seed : List Byte) (n : Nat) : List Byte :=
  ((List.range ((n + 31) / 32)).flatMap fun i => sha256Bytes (seed ++ bytesBe 4 i)).take n

/-- The encoded message `em` of `bits` bits is one of a message (EMSA-PSS). -/
def pssEncodes (m em : List Byte) (bits : Nat) : Bool :=
  let n := em.length - 33
  let masked := em.take n
  let h := (em.drop n).take 32
  let spare := 8 * em.length - bits
  let db := match xorBytes masked (mgf1 h n) with
    | [] => []
    | b :: t => (b &&& BitVec.ofNat 8 (0xFF >>> spare)) :: t
  decide (66 ≤ em.length) && decide (em.getLast? = some 0xBC) && decide ((masked.headD 0).toNat < 2 ^ (8 - spare))
    && ((db.take (n - 33)).all fun b => decide (b = 0)) && decide (db.getD (n - 33) 0 = 1)
    && decide (sha256Bytes (List.replicate 8 0 ++ sha256Bytes m ++ db.drop (n - 32)) = h)

/-- Verification under a public key, the modulus of 384 bytes and the exponent of 4, both big-endian: key, message, signature. -/
def pssCheck (key m sig : List Byte) : Bool :=
  let n := beNat (key.take 384)
  let s := beNat sig
  let bits := Nat.log2 n
  let size := (bits + 7) / 8
  let x := modPow s (beNat ((key.drop 384).take 4)) n
  decide (sig.length = 384) && decide (s < n) && decide (x < 256 ^ size) && pssEncodes m (bytesBe size x) bits

/-! ## The sealed functions -/

/-- The four functions as the device uses them, digests as fields. -/
structure Hashes where
  sha256 : List Byte → BitVec 256
  hmac : List Byte → List Byte → BitVec 256
  hkdf : List Byte → List Byte → List Byte → BitVec 256
  pss : List Byte → List Byte → List Byte → Bool

/-- The functions of the standards. -/
def Hashes.standard : Hashes :=
  ⟨fun m => field256 (sha256Bytes m), fun k m => field256 (hmacBytes k m), fun x salt info => field256 (hkdfBytes x salt info), pssCheck⟩

/-- The functions of the standards, sealed. This is no free value: its property says what it is. -/
opaque hashes : { h : Hashes // h = Hashes.standard } := ⟨.standard, rfl⟩

/-- SHA-256 of a message. -/
def sha256 (m : List Byte) : BitVec 256 := hashes.1.sha256 m
/-- HMAC-SHA-256: key, message. -/
def hmacSha256 (key m : List Byte) : BitVec 256 := hashes.1.hmac key m
/-- HKDF-SHA-256 with 32 bytes of output: input keying material, salt, info. -/
def hkdfSha256 (secret salt info : List Byte) : BitVec 256 := hashes.1.hkdf secret salt info
/-- RSASSA-PSS verification: key, message, signature. -/
def pssVerify (key m sig : List Byte) : Bool := hashes.1.pss key m sig

theorem sha256_eq (m : List Byte) : sha256 m = field256 (sha256Bytes m) := by rw [sha256, hashes.2]; rfl
theorem hmacSha256_eq (key m : List Byte) : hmacSha256 key m = field256 (hmacBytes key m) := by rw [hmacSha256, hashes.2]; rfl
theorem hkdfSha256_eq (secret salt info : List Byte) : hkdfSha256 secret salt info = field256 (hkdfBytes secret salt info) := by
  rw [hkdfSha256, hashes.2]; rfl
theorem pssVerify_eq (key m sig : List Byte) : pssVerify key m sig = pssCheck key m sig := by rw [pssVerify, hashes.2]; rfl

end Sys2Proof.Machine
end

