-- ==== Sys2Proof/Machine/State.lean ====
section
/-! DEFINITION. The state of the block as plain data: what each core, cluster, channel, context and
function holds, the hub, and the queue of waiting commands; the reasons a command stops; reset. -/

namespace Sys2Proof.Machine

/-- The faults of the block. None of the device's own errors stops it: each is an exception, a record or
a status. -/
inductive Fault where
  /-- A coherence answer that no transaction awaits. Raised by `protocolFault` (Ops.lean). Safe: the model
  stops where the spec gives no effect. -/
  | protocol
  deriving DecidableEq, Repr

/-- Why a command is refused. -/
inductive Refusal where
  /-- The instruction of this name has no meaning yet. Safe. -/
  | notModelled (mnemonic : String)
  /-- The step cannot come about in this state: its condition in the spec does not hold (for example a
  group that waits does not issue, R38; an acknowledgement that nothing awaits). Raised by
  every meaning through `enabled` (Ops.lean). Safe: the model stops. -/
  | notEnabled (why : String)
  /-- The instruction word is not one of the row's encodings (R66, R70), so that the command is
  ill-formed. Raised by `issue` (Issue.lean). Safe. -/
  | illFormed
  deriving DecidableEq, Repr

/-! ## A core and what it holds (R27) -/

/-- A register word of one lane, or a scalar register, with its poison tag (R65). -/
structure RegWord where
  val : Word
  poison : Bool
  deriving DecidableEq, Repr

/-- A register of a fresh group (R33). -/
def RegWord.zero : RegWord := ⟨0, false⟩

/-- A line that parked lanes await: the request that was answered "parked", by its number and the first address that it
named (R50, R179). -/
structure ParkedLine where
  line : LineAddr
  stamp : Nat
  va : DWord
  deriving DecidableEq, Repr

/-- An entry of the reconvergence stack (R44, R50, R51). A parked entry holds the lines it awaits; it
is runnable once woken. -/
inductive EntryKind where
  | join
  | deferred
  | parked (lines : List ParkedLine) (woken : Bool) (registered : Bool)
  | yielded
  deriving DecidableEq, Repr

/-- One of the 32 stack entries of a group slot (R27). The top of the stack is the list's head. -/
structure StackEntry where
  kind : EntryKind
  addr : DWord
  mask : Mask
  deriving DecidableEq, Repr

/-- A reported exception (R89). -/
structure Exc where
  code : Byte
  pc : DWord
  lanes : Mask
  detail : DWord
  deriving DecidableEq, Repr

/-- What a group waits for (R39, R83, R262). -/
inductive Waiting where
  /-- ready: nothing -/
  | no
  /-- a Sluice wait queued at its object (R187) -/
  | sync (obj : Nat)
  /-- a satisfied wait, signal or withdrawal whose wake the ramp has not delivered (R194, R196) -/
  | wake
  /-- a wait withdrawn at its object: the exception is raised when the ramp delivers the wake (R186, R194) -/
  | withdrawn (e : Exc)
  | signal
  /-- the answers to a waiting full/empty instruction (R39, R50): its execution mask, the lanes found unmet so far
  with their lines, whether each line is registered, and whether a wake has come since -/
  | fe (exec unmet : Mask) (lines : List ParkedLine) (registered woken : Bool)
  | barrier (bar : Fin 4)
  | complete (scope : Fin 4) (upto : Nat)
  /-- the translations of its instruction or its fetch (R257, R260) -/
  | walk
  /-- the lone yielded entry's backoff (R51) -/
  | backoff
  /-- every entry above the nearest join is parked (R52) -/
  | parked
  /-- stopped by an exception (R89, R318) -/
  | stopped (e : Exc)
  /-- parked at a translation fault (R268): the stamp of its fault entry; none while the fault table was full -/
  | faulted (entry : Option Nat)
  /-- ended by EXC_ACTION while its block is saved: it exits as the block is restored (R318) -/
  | ending
  deriving DecidableEq, Repr

/-- A FENCE or BAR.group whose condition a later memory instruction of the group awaits (R47, R168): its scope, the lanes
that it orders, and the issue stamp up to which accesses are covered. -/
structure PendingFence where
  scope : Fin 4
  lanes : Mask
  upto : Nat
  deriving DecidableEq, Repr

/-- A group slot (R27, R63). Registers are keyed 16 × register + lane. `readySince` is the stamp of a pending group's
becoming ready (R41); `quietSince` the handshake count of its core at which it last issued or began a backoff (R40, R51);
`stallLimit` the limit that its queued wait was counted against at the last restart of its count (R202, R204). -/
structure Group where
  live : Bool
  block : Fin 4
  index : Nat
  ident : Nat
  pc : DWord
  mask : Mask
  v : Table RegWord
  s : Table RegWord
  p : Table Mask
  stack : List StackEntry
  flags : BitVec 3
  waiting : Waiting
  latch : Bool
  active : Bool
  activeSince : Nat
  readySince : Option Nat
  quietSince : DWord
  lost : Nat
  lostAddr : DWord
  lostStamp : Nat
  fences : List PendingFence
  stall : Nat
  stallLimit : Word
  missed : Bool
  deriving DecidableEq, Repr

/-- An empty slot. -/
def Group.absent : Group :=
  { live := false, block := 0, index := 0, ident := 0, pc := 0, mask := 0, v := [], s := [], p := [],
    stack := [], flags := 0, waiting := .no, latch := false, active := false,
    activeSince := 0, readySince := none, quietSince := 0, lost := 0, lostAddr := 0, lostStamp := 0, fences := [],
    stall := 0, stallLimit := 0, missed := false }

/-- The monitor counts that a core keeps for one index of a block (R146 to R148). -/
structure MonCounts where
  elements : Nat
  zeros : Nat
  underflowed : Nat
  saturated : Nat
  nonfinite : Nat
  amax : Word
  aminNz : Word
  deriving DecidableEq, Repr

/-- Counts of a freshly admitted or restored block (R148). -/
def MonCounts.zero : MonCounts := ⟨0, 0, 0, 0, 0, 0, 0x7F800000⟩

/-- A block barrier (R48, R49). `limit` is the BARRIER_STALL_LIMIT taken at the last restart of the count (R204). -/
structure Barrier where
  arrived : List (Fin 16)
  stall : Nat
  stallRaised : Bool
  limit : Word
  deriving DecidableEq, Repr

/-- A barrier phase with no arrival. -/
def Barrier.fresh : Barrier := ⟨[], 0, false, 0⟩

/-- A block slot (R27, R32, R136, R145). -/
structure Block where
  live : Bool
  ctx : Fin 2048
  launch : Nat
  index : Nat
  groups : Nat
  regs : Nat
  lmSize : Nat
  lm : Table Byte
  quern : Bool
  gang : Bool
  eff : Fin 4
  flush : Bool
  satNaR : Bool
  plane : Bool
  monA : BitVec 16
  monB : BitVec 16
  monCvt : BitVec 16
  countsA : MonCounts
  countsB : MonCounts
  countsCvt : MonCounts
  bars : Table Barrier
  deriving DecidableEq, Repr

/-- An empty block slot. -/
def Block.absent : Block :=
  { live := false, ctx := 0, launch := 0, index := 0, groups := 0, regs := 0, lmSize := 0, lm := [],
    quern := false, gang := false, eff := 3, flush := false, satNaR := false, plane := false,
    monA := 0xFFFF, monB := 0xFFFF, monCvt := 0xFFFF, countsA := .zero, countsB := .zero,
    countsCvt := .zero, bars := [] }

/-- A stationary set of the Quern (R94). Elements are codes, keyed row × kd + k. -/
structure QuernSet where
  elems : Table (BitVec 16)
  fmt : BitVec 4
  rmask : BitVec 4
  cmask : Byte
  loaded : Bool
  deriving DecidableEq, Repr

/-- A set at admission (R94); its IFMT and masks have no stated value there (DESIGN CHOICE, notes/assumptions/77.md). -/
def QuernSet.empty : QuernSet := ⟨[], 0, 0, 0, false⟩

/-- What a queued Quern instruction captured when it started: words of a tile, or the operands of a
stream, or the entries of a drained bank (R101, R105, R107). -/
inductive QuernOp where
  | load (local_ gang : Bool) (addr : Nat) (words : List Word) (fmt rmask : BitVec 4) (cmask : Byte)
  | swap
  | stream (addr : Nat) (steps : Nat) (scales : Nat) (fmt : BitVec 4) (bank accum scaled gang : Bool)
      (captured : List QuernSet) (weights : List (BitVec 16)) (scaleBytes : List Byte)
  | drain (dst : Nat) (otype : BitVec 4) (bank : Bool) (sat : BitVec 2) (clear : Bool)
      (entries : List Word) (written : BitVec 32)
  | zero (bank : Bool)
  deriving DecidableEq, Repr

/-- An entry of the Quern queue (R97). `flush` and `satNaR` are the block's settings (R136); `live` is false once the
issuing group has ended (R104); `ident`, `seq` and `tag` name that group and its launch for a report (R61). -/
structure QuernEntry where
  id : Nat
  slot : Fin 16
  ident : Nat
  seq : Word
  tag : BitVec 16
  live : Bool
  pc : DWord
  mask : Mask
  ctx : Fin 2048
  flush : Bool
  satNaR : Bool
  started : Bool
  op : QuernOp
  deriving DecidableEq, Repr

/-- The Quern of a core (R92, R94, R97, R111, R146). Entries are keyed 32 × bank + e. -/
structure Quern where
  block : Option (Fin 4)
  active : QuernSet
  shadow : QuernSet
  acc : Table Word
  written : BitVec 64
  gangSwapped : Bool
  queue : List QuernEntry
  deriving DecidableEq, Repr

/-- An idle Quern. -/
def Quern.idle : Quern :=
  { block := none, active := .empty, shadow := .empty, acc := [], written := 0, gangSwapped := false,
    queue := [] }

/-- What a store-buffer entry does at its line (R164); `cp` is the access's CP (R78). -/
inductive StoreKind where
  | st (cp : Nat)
  | red (ops : List LaneOp)
  | fe (ops : List LaneOp)
  deriving DecidableEq, Repr

/-- One of the 32 store-buffer entries (R27, R164). `stamp` is its place in the issue order; `live` is false
once the group that issued it has ended, so that its losses go to the launch (R176, R181); `ended` is then the place
of that group in the order in which groups ended (R321). -/
structure StoreEntry where
  id : Nat
  stamp : Nat
  slot : Fin 16
  lanes : Mask
  live : Bool
  ended : Nat
  launch : Nat
  tagged : Bool
  flush : Bool
  cls : Fin 4
  ctx : Fin 2048
  line : LineAddr
  va : DWord
  kind : StoreKind
  data : Line
  mask : BitVec 128
  poison : BitVec 2
  issued : Bool
  acked : Bool
  deriving DecidableEq, Repr

/-- What a lane of a load takes from one line (R78, R79, R82): `len` bytes from `pa`, which stand at byte `off` of the
`size` bytes that the lane loads into register `reg` onward. -/
structure LaneLoad where
  lane : Fin 16
  reg : Nat
  va : DWord
  pa : Nat
  len : Nat
  off : Nat
  size : Nat
  deriving DecidableEq, Repr

/-- What an outstanding-load entry does (R78, R81, R82). -/
inductive LoadKind where
  | ld (signed : Bool) (cp : Nat)
  | atom (ops : List LaneOp)
  | fe (ops : List LaneOp) (pred : Option (Fin 8))
  deriving DecidableEq, Repr

/-- One of the 64 outstanding-load entries (R27). `forward` holds the bytes that a lane takes from
the store buffer (R165). -/
structure LoadEntry where
  id : Nat
  stamp : Nat
  slot : Fin 16
  live : Bool
  ended : Nat
  launch : Nat
  tagged : Bool
  flush : Bool
  cls : Fin 4
  ctx : Fin 2048
  line : LineAddr
  kind : LoadKind
  lanes : List LaneLoad
  dst : Nat
  pc : DWord
  sent : Bool
  missed : Bool
  ready : Bool
  data : Line
  poison : BitVec 2
  results : List LaneResult
  flushed : Bool
  lost : Bool
  deriving DecidableEq, Repr

/-- A tagged instruction that a core holds (R428, R429). `left` counts its lines that have not returned;
`fresh` holds while it has not passed its issue. -/
structure Tagged where
  slot : Fin 16
  ref : DWord
  pc : DWord
  instrHi : Word
  ctx : Fin 2048
  eff : Fin 4
  flags : BitVec 5
  lines : Nat
  left : Nat
  fresh : Bool
  fault : Bool
  done : Bool
  deriving DecidableEq, Repr

/-- A block as the save area holds it (R54), with the fault entries that it waits on (R270). -/
structure SavedBlock where
  core : Nat
  block : Block
  groups : List (Fin 16 × Group)
  quern : Option Quern
  faults : List (Option Nat)
  deriving DecidableEq, Repr

/-- Where a swap of a presented core stands (R58): none, mapped to its spare with its blocks still to be restored, or
without a spare with its blocks still to be restored elsewhere. -/
inductive SwapState where
  | none | mapped | spareless
  deriving DecidableEq, Repr

/-- A monitor post that has been sent and not answered (R148, R149): the request's number, its line and its launch. -/
structure MonPost where
  rid : Nat
  line : LineAddr
  launch : Nat
  deriving DecidableEq, Repr

/-- A presented core (R27). `corrected` holds when each of the corrected errors of the last 2^39 ticks was counted (R58);
`demoteWait`, `backoff` and `quantum` are the scheduling values in force, taken over at a rotation check (R43). -/
structure Core where
  groups : Table Group
  blocks : Table Block
  quern : Quern
  stores : List StoreEntry
  loads : List LoadEntry
  hs : DWord
  pmc : Table DWord
  ovf : Byte
  condBefore : Byte
  rotation : Nat
  lastIssued : Fin 16
  draining : Bool
  unavailable : Bool
  corrected : List DWord
  swap : SwapState
  demoteWait : BitVec 5
  backoff : Byte
  quantum : BitVec 16
  posts : List MonPost
  saving : Bool
  tagged : Option Tagged
  latched : Option (DWord × List DWord × Byte × Option (Fin 2048))
  deriving DecidableEq, Repr

/-- A core after a channel reset (R62): nothing resident, counters at zero, available. -/
def Core.idle : Core :=
  { groups := [], blocks := [], quern := .idle, stores := [], loads := [], hs := 0, pmc := [], ovf := 0,
    condBefore := 0, rotation := 0, lastIssued := 15, draining := false, unavailable := false, corrected := [],
    swap := .none, demoteWait := 0x10, backoff := 0x40, quantum := 0x1000, posts := [], saving := false, tagged := none,
    latched := none }

/-! ## A cluster (R209, R258, R87) -/

/-- The states of a way of a cluster cache (R212). A way that is LOST has no line and is kept as its
set in `Cluster.lostSets`. -/
inductive WayState where
  | m | o | e | s | i | wb
  deriving DecidableEq, Repr

/-- A line that a cluster cache holds, and the way of its set (R209, R212, R226). `cls` is the class of the agent that last
wrote it (R237). -/
structure CacheLine where
  state : WayState
  way : Nat
  data : Line
  poison : BitVec 2
  cls : Fin 4
  deriving DecidableEq, Repr

/-- A line that the cluster cache does not hold. -/
def CacheLine.absent : CacheLine := ⟨.i, 0, 0, 0, 0⟩

/-- An outstanding transaction of a cluster for a line (R215): the data and the grant that have arrived, the
victim whose write-back the installation awaits (R220), and the snoops to answer afterwards (R217). `dataDue` holds
when the grant said that the data come from the owner. `pref` is set for the request of a PREF: the virtual address of its line and the time
of its issue (R265). -/
structure CacheTxn where
  line : LineAddr
  kind : MsgKind
  lru : Bool
  data : Option (Line × BitVec 2)
  grant : Grant
  dataDue : Bool
  victim : Option LineAddr
  snoops : List Msg
  ctx : Fin 2048
  cls : Fin 4
  pref : Option (DWord × Nat)
  deriving DecidableEq, Repr

/-- A TLB entry (R258). -/
structure TlbEntry where
  valid : Bool
  ctx : Fin 2048
  page : Nat
  big : Bool
  pfn : BitVec 32
  w : Bool
  x : Bool
  deriving DecidableEq, Repr

/-- An invalid TLB entry. -/
def TlbEntry.invalid : TlbEntry := ⟨false, 0, 0, false, 0, false, false⟩

/-- The copy of one destination line of a descriptor (R174): its request number, the bytes [off, off + len) of the
copy, the source lines still to be read, what has been gathered for the destination line, and whether its write has
been sent. -/
structure CopyLine where
  rid : Nat
  dst : LineAddr
  off : Nat
  len : Nat
  sources : List LineAddr
  data : Line
  poison : BitVec 2
  fe : BitVec 16
  writing : Bool
  deriving DecidableEq, Repr

/-- A descriptor of the move engine (R87, R173, R262). `waitStores` are the issuing group's earlier
store-buffer entries with a home on this device; `next` is the offset from which no line has been begun; `bad` is the
offset of the lowest-addressed line that was lost or poisoned. -/
structure Desc where
  id : Nat
  launch : Nat
  ctx : Fin 2048
  cls : Fin 4
  core : Nat
  slot : Fin 16
  waitStores : List Nat
  src : DWord
  dst : DWord
  length : Nat
  sync : Word
  stash : Option (Fin 128)
  fe : Bool
  srcPages : List (Nat × Nat × Nat)
  dstPages : List (Nat × Nat × Nat)
  -- the pages still to be translated: an address in the page, and whether it is written (R262)
  todo : List (DWord × Bool)
  started : Bool
  next : Nat
  lines : List CopyLine
  lost : Bool
  poisoned : Bool
  bad : Option Nat
  deriving DecidableEq, Repr

/-- A cluster: its cache, its TLB, its move engine, its counters (R209, R258, R87, R419), the map of
its presented cores and its spares (R57). Physical cores absent from `coreMap` are mapped in order. -/
structure Cluster where
  lines : Table CacheLine
  plru : Table (BitVec 15)
  lostSets : List Nat
  txns : List CacheTxn
  tlb : Table TlbEntry
  tlbPlru : BitVec 255
  forming : List Desc
  queue : List Desc
  pmc : Table DWord
  ovf : BitVec 4
  condBefore : Byte
  latched : Option (List DWord × BitVec 4)
  poisonings : List DWord
  coreMap : Table (Option (Fin 264))
  spares : Option (List (Fin 264))
  resetPending : Bool
  deriving DecidableEq, Repr

/-- A cluster after a channel reset (R231, R271, R436) in which all 264 physical cores passed. -/
def Cluster.idle : Cluster :=
  { lines := [], plru := [], lostSets := [], txns := [], tlb := [], tlbPlru := 0, forming := [], queue := [],
    pmc := [], ovf := 0, condBefore := 0, latched := none, poisonings := [], coreMap := [],
    spares := none, resetPending := false }

/-! ## The shared cache and memory (R213, R237) -/

/-- The directory states (R213). -/
inductive DState where
  | uncached | shared | owned
  deriving DecidableEq, Repr

/-- What the snooped owner has answered (R216, R222): nothing yet; that it keeps the line (after SNP_FWD and SNP_FWD_U
it has sent its data); that it was E and is now S; IN_FLIGHT, while its WB is not in hand; or that it holds nothing. -/
inductive OwnerAnswer where
  | waiting | keeps | sharesNow | crossed | gone
  deriving DecidableEq, Repr

/-- A transaction in progress at a slice (R218): the request or, at a proxy, the home's snoop; the answers still
awaited; the owner that was snooped and what it answered; whether its WB is in hand; whether its data, which come through
this slice, have been passed on; whether an OWN is answered without data (R215); whether the line is poisoned at the end (R230); whether the line is evicted (R221). -/
structure SliceTxn where
  req : Msg
  awaiting : List Agent
  snooped : Option Agent
  answer : OwnerAnswer
  wb : Bool
  passed : Bool
  noData : Bool
  spoil : Bool
  evict : Bool
  deriving DecidableEq, Repr

/-- What a slice has asked for a request that it cannot serve yet: a read of memory at a home, the request to the home
at a proxy (R215, R221); with what has come back. `refetch` holds for a line that is present with an error
in its data (R230). -/
structure Ask where
  req : Msg
  data : Option (Line × BitVec 2)
  fe : BitVec 16
  grant : Grant
  dataDue : Bool
  refetch : Bool
  deriving DecidableEq, Repr

/-- An entry of a slice (R213, R225, R226). The directory's pointers and vectors are kept as lists of
holders; `coarse` and `wide` say that the entry holds the channel vector (SCOARSE) or NWIDE. -/
structure SliceLine where
  present : Bool
  way : Nat
  data : Line
  poison : BitVec 2
  fe : BitVec 16
  cls : Fin 4
  dirty : Bool
  dstate : DState
  owner : Option Agent
  sharers : List (Fin 4096)
  coarse : Bool
  nodes : List (Fin 512)
  wide : Bool
  outer : WayState
  busy : Option SliceTxn
  ask : Option Ask
  queue : List Msg
  regs : List Agent
  writing : Bool
  deriving DecidableEq, Repr

/-- A line that its tracking slice does not hold. -/
def SliceLine.absent : SliceLine :=
  { present := false, way := 0, data := 0, poison := 0, fe := 0, cls := 0, dirty := false,
    dstate := .uncached, owner := none, sharers := [], coarse := false, nodes := [], wide := false,
    outer := .i, busy := none, ask := none, queue := [], regs := [], writing := false }

/-- The metadata symbols of one stored half (R237). -/
structure HalfMeta where
  fe : Byte
  poison : Bool
  cls : Fin 4
  deriving DecidableEq, Repr

/-- A half as memory initialisation leaves it (R245). -/
def HalfMeta.init : HalfMeta := ⟨0, false, 0⟩

/-! ## A channel -/

/-- The states of a Leat port (R290). -/
inductive PortState where
  | down | training | ident | coherent | quarantine | dead | retrain
  deriving DecidableEq, Repr

/-- A Leat port (R272, R277, R278, R281, R290 to R294). `far` is the last IDENT received; `replay` the sequenced flits that no ACK
covers; `wire` the flits sent and not received yet; `credits` the slots that the far end grants on each VC; `sent` the slots of
an on-module port in use at the far end, oldest first, as VC, half and count (R273); `owed` the slots that have been freed here and
are to be returned; `part` the slots that have come of a message that spans flits. -/
structure Port where
  state : PortState
  width : Fin 5
  mismatch : BitVec 5
  far : Option IdentRec
  txSeq : BitVec 12
  rxAck : BitVec 12
  gap : Bool
  replay : List Flit
  wire : List Flit
  credits : Table Nat
  sent : List (Nat × Bool × Nat)
  owed : Table Nat
  part : Nat
  beforeRetrain : PortState
  queue : List StreamMsg
  deriving DecidableEq, Repr

/-- A port as a channel reset leaves it (R290, and the Leat registers' reset values). -/
def Port.down : Port :=
  { state := .down, width := 0, mismatch := 0, far := none, txSeq := 0, rxAck := 0xFFF, gap := false, replay := [],
    wire := [], credits := [], sent := [], owed := [], part := 0, beforeRetrain := .down, queue := [] }

/-- A message that is not released yet: its TXN, and the kinds of response that have come (R285). -/
structure Unreleased where
  txn : BitVec 16
  msg : Msg
  seen : List MsgKind
  deriving DecidableEq, Repr

/-- What a sender keeps of a stream (R285): its next TXN, the messages that are not released, and those that wait while 512 are
not. -/
structure TxStream where
  txn : BitVec 16
  unreleased : List Unreleased
  waiting : List Msg
  deriving DecidableEq, Repr

/-- A stream that has sent nothing. -/
def TxStream.fresh : TxStream := ⟨0, [], []⟩

/-- What a receiver keeps of a stream (R286, R287): its window's start, the sender's incarnation once met, the accepted
TXNs and the responses sent to them. -/
structure RxStream where
  known : Bool
  base : BitVec 16
  inc : Option (BitVec 2)
  accepted : List (BitVec 16)
  responses : List (BitVec 16 × Msg)
  deriving DecidableEq, Repr

/-- A stream from which nothing has been received. -/
def RxStream.fresh : RxStream := ⟨false, 0, none, [], []⟩

/-- The access that missed or failed (R256, R266); a failing access of a PREF is dropped (R260). -/
structure Access where
  va : DWord
  write : Bool
  fetch : Bool
  move : Bool
  pref : Bool
  deriving DecidableEq, Repr

/-- A waiter of a walk: a group of a core, with the access that missed (R259). -/
structure WalkWaiter where
  core : Nat
  slot : Fin 16
  access : Access
  deriving DecidableEq, Repr

/-- A walk, waiting or in flight (R259). -/
structure Walk where
  key : WalkKey
  cls : Fin 4
  inFlight : Bool
  waiters : List WalkWaiter
  deriving DecidableEq, Repr

/-- An open fault entry (R266). `stamp` tells it from later entries of its slot. -/
structure FaultEntry where
  slot : Nat
  ctx : Fin 2048
  page : Nat
  big : Bool
  stamp : Nat
  cause : BitVec 4
  coreMask : BitVec 128
  moveMask : BitVec 128
  waiters : Nat
  deriving DecidableEq, Repr

/-- A pending wake of the ramp (R194, R195): for groups that wait, or for the parked entries on a line. -/
structure Wake where
  core : Nat
  slots : List (Fin 16)
  line : Option LineAddr
  signal : Bool
  since : Nat
  deriving DecidableEq, Repr

/-- The fields of a record of the evacuation journal (R250). -/
structure JournalRec where
  kind : Fin 5
  gen : Nat
  pc : Fin 64
  batch : Nat
  map : DWord
  deriving DecidableEq, Repr

/-- A latency histogram of a channel (R431). -/
structure Hist where
  sel : Word
  bins : Table Nat
  deriving DecidableEq, Repr

/-- A histogram after a channel reset (R436). -/
def Hist.off : Hist := ⟨0, []⟩

/-- A channel: its state under R382 and the registers of its window (fabric R25, scheduling, Sluice,
cache, memory, translation, Leat, counters), with the engines behind them. Fields that the spec holds
in the hub for the channel, and that survive its reset, stand under `hub` names in the comment. -/
structure Channel where
  -- state: 0 down, 1 resetting, 2 ready, 3 degraded, 4 retired (R382); hub
  state : Fin 5
  -- fabric (R22, R25, R16, R17, R13)
  refcnt : DWord
  reflatch : Word
  refOk : Bool
  railSettling : Bool
  supplyFault : Bool   -- hub
  refLost : Bool       -- hub
  paceMin : BitVec 16
  paceMean : BitVec 16
  refRunning : Bool
  issueStopped : Bool
  -- scheduling registers (R40, R42, R51)
  demoteWait : BitVec 5
  waithintBackoff : Byte
  rotateQuantum : BitVec 16
  -- Sluice registers and the ramp (R194, R199, R204, R207)
  rampUnits : Byte
  stallLimit : Word
  sluEcc : BitVec 16
  feUnreg : BitVec 16
  sigDiscard : BitVec 16
  meDiscard : BitVec 16
  wakes : List Wake
  releaseStep : Option (Nat × Byte)
  releaseStart : DWord
  -- cache registers (R209, R223, R230, R228)
  prefEn : Bool
  stashEn : Bool
  ccCorrSlice : BitVec 16
  ccCorrCluster : BitVec 16
  ccPoisoned : BitVec 16
  ccDropped : BitVec 16
  ccLost : Word
  ccErrlog : DWord     -- hub
  slicePlru : Table (BitVec 15)
  lostSets : List Nat
  -- memory registers and engines (R236, R240 to R252)
  autoGrant : Bool
  evacRate : Byte
  scrubPeriod : Byte
  evacPc : Fin 64
  evacState : Fin 4
  degraded : Bool
  mapOrder : List (Fin 64)     -- the pseudo-channels mapped out, the latest first: the map in force
  storeOrder : List (Fin 64)   -- hub's store
  evacTotal : Nat
  evacDone : Nat
  memCorr : Word
  uncorr : BitVec 16
  oor : BitVec 16
  pinFail : DWord
  failedPins : List (Fin 64 × Fin 32)
  memErrlog : DWord    -- hub
  nominations : List (Fin 64)   -- hub's store
  journal : List (BitVec 512)       -- the copy of stack 0, in records of 64 bytes
  journalB : List (BitVec 512)      -- the copy of stack 1
  journalPcs : Fin 64 × Fin 64      -- the pseudo-channels that hold the two copies
  targeted : List (LineAddr × Fin 2)
  scrubPos : Nat
  pinErrors : Table Nat
  uncorrPerPc : Table (List DWord)
  selfRefresh : Bool
  granted : Bool
  -- translation (R259, R266)
  xltWalks : Word
  xltMerged : BitVec 16
  xltOpened : BitVec 16
  walks : List Walk
  faults : List FaultEntry
  -- Leat (R272, R285, R287, R294)
  ports : Table Port
  autoRetrain : Bool
  portEn : BitVec 6
  ltFec : Word
  ltReplays : BitVec 16
  ltBadBlocks : BitVec 16
  ltResent : BitVec 16
  ltDuplicates : BitVec 16
  incarnation : BitVec 2   -- hub
  txStreams : Table TxStream
  rxStreams : Table RxStream
  awaitRestart : Bool
  held : List StreamMsg
  isolations : Nat     -- hub
  -- counters (R419, R425, R426, R428, R434)
  pmcUser : Byte
  freezeOnOvf : Bool
  freeze : Bool
  frozen : Bool
  snapSeq : Byte
  snapCount : Word
  snapBusy : Bool
  snapErr : Bool
  ovf : BitVec 20
  snapAddr : DWord
  sels : Table Word
  chPmc : Table DWord
  condBefore : Byte
  chLatched : Option (List DWord × Byte × List Word × DWord)
  tagCfg : Word
  tagHead : Word
  tagTail : Word
  tagLost : Word
  tagBase : DWord
  tagSeq : Word
  hists : Table Hist
  -- power (R385 to R391, R396, R401, R405): the rail's setting, and the rail as it follows its steps (R16)
  railMilliVolts : Nat
  railNow : Nat
  stretch : Bool
  hottestDie : Int
  hottestStack : Int
  pTherm : BitVec 16
  trips : Word
  tripped : Bool
  rest : Bool
  curve : List (BitVec 16)
  curveClear : Bool
  points : List (Nat × Int × BitVec 16)
  energy : Nat
  energyMicro : Nat
  idle : Nat
  idleMicro : Nat
  -- firmware (R409, R413)
  fwSlotB : Bool
  fwVersion : Word
  handoff : Bool
  -- resets (R350, R446); `faultCodes` are the CODEs of CHANNEL_FAULT due at the end of the reset (R346)
  resetCause : Option (Fin 4)
  faultCodes : List Byte
  memInit : Bool
  retireAsked : Bool
  reinstateAsked : Bool
  resetAborted : List (Fin 2048 × Nat)
  deriving DecidableEq, Repr

/-- A channel after its reset in state 2 (R62, R231, R271, R436 and the Reset columns). -/
def Channel.ready : Channel :=
  { state := 2, refcnt := 0, reflatch := 0, refOk := true, railSettling := false, supplyFault := false,
    refLost := false, paceMin := 0, paceMean := 0, refRunning := true, issueStopped := false,
    demoteWait := 0x10, waithintBackoff := 0x40, rotateQuantum := 0x1000,
    rampUnits := 0x10, stallLimit := 0x4000, sluEcc := 0, feUnreg := 0, sigDiscard := 0, meDiscard := 0,
    wakes := [], releaseStep := none, releaseStart := 0,
    prefEn := true, stashEn := true, ccCorrSlice := 0, ccCorrCluster := 0, ccPoisoned := 0, ccDropped := 0,
    ccLost := 0, ccErrlog := 0, slicePlru := [], lostSets := [],
    autoGrant := false, evacRate := 0x10, scrubPeriod := 0x0C, evacPc := 0, evacState := 0,
    degraded := false, mapOrder := [], storeOrder := [], evacTotal := 0, evacDone := 0, memCorr := 0, uncorr := 0,
    oor := 0, pinFail := 0, failedPins := [], memErrlog := 0, nominations := [], journal := [], journalB := [],
    journalPcs := (0, 32), targeted := [], scrubPos := 0, pinErrors := [], uncorrPerPc := [],
    selfRefresh := false, granted := false,
    xltWalks := 0, xltMerged := 0, xltOpened := 0, walks := [], faults := [],
    ports := [], autoRetrain := true, portEn := 0x3F, ltFec := 0, ltReplays := 0, ltBadBlocks := 0,
    ltResent := 0, ltDuplicates := 0, incarnation := 0, txStreams := [], rxStreams := [],
    awaitRestart := false, held := [], isolations := 0,
    pmcUser := 0, freezeOnOvf := false, freeze := false, frozen := false, snapSeq := 0, snapCount := 0,
    snapBusy := false, snapErr := false, ovf := 0, snapAddr := 0, sels := [], chPmc := [], condBefore := 0,
    chLatched := none, tagCfg := 0x0002B000, tagHead := 0, tagTail := 0, tagLost := 0, tagBase := 0,
    tagSeq := 0, hists := [],
    railMilliVolts := 400, railNow := 400, stretch := false, hottestDie := 0, hottestStack := 0, pTherm := 0x0800,
    trips := 0, tripped := false, rest := false, curve := [], curveClear := false, points := [],
    energy := 0, energyMicro := 0, idle := 0, idleMicro := 0,
    fwSlotB := false, fwVersion := 0, handoff := false,
    resetCause := none, faultCodes := [], memInit := false, retireAsked := false, reinstateAsked := false, resetAborted := [] }

/-! ## Sync objects (R184, R188) -/

/-- The operation of a queued wait (R187). -/
inductive SyncOp where
  | waitSet | waitClear | put | take
  deriving DecidableEq, Repr

/-- A queued wait of a sync object (R188). `dst` is the result pair of the waiting instruction. -/
structure SyncWait where
  core : Nat
  slot : Fin 16
  op : SyncOp
  payload : BitVec 62
  dst : Nat
  deriving DecidableEq, Repr

/-- A sync object (R184). -/
structure SyncObj where
  flag : Bool
  payload : BitVec 62
  alloc : Bool
  owner : Fin 2048
  gen : BitVec 12
  watch : Bool
  broken : Bool
  waits : List SyncWait
  deriving DecidableEq, Repr

/-- An object after device power-on (R184). FLAG and PAYLOAD have no stated value there (DESIGN CHOICE, notes/assumptions/23.md). -/
def SyncObj.free : SyncObj := ⟨false, 0, false, 0, 0, false, false, []⟩

/-! ## Contexts, functions and commands (R304, R307, R322, R330) -/

/-- A completion record before it is written (R319). `c0` says that the command's effective class is C0 (R325). -/
structure Completion where
  c0 : Bool
  seq : Word
  tag : BitVec 9
  stream : Fin 16
  dup : Bool
  status : Byte
  flags : BitVec 4
  result : DWord
  deriving DecidableEq, Repr

/-- A fault record (R267). -/
structure FaultRec where
  ctx : Fin 2048
  ch : Fin 32
  cause : BitVec 4
  merged : Bool
  access : Access
  id : Nat
  waiters : Nat
  core : Nat
  deriving DecidableEq, Repr

/-- An event record (R324). `evseq` is its number. -/
structure EventRec where
  evseq : Word
  kind : Byte
  channel : Byte
  ctx : BitVec 16
  code : Byte
  lanes : Mask
  group : Word
  pc : DWord
  detail : DWord
  launchSeq : Word
  launchTag : BitVec 16
  deriving DecidableEq, Repr

/-- An area of records (R322), with the records that found it full (R323). -/
structure Area (α : Type) where
  base : DWord
  log2n : BitVec 5
  vector : Fin 32
  enabled : Bool
  virt : Bool
  pages : List (Nat × Nat × Nat)
  head : Word
  tail : Word
  held : List α
  deriving DecidableEq, Repr

/-- An area that is not enabled (R322 and the Reset columns). -/
def Area.off {α : Type} : Area α :=
  { base := 0, log2n := 10, vector := 0, enabled := false, virt := false, pages := [], head := 0, tail := 0,
    held := [] }

/-- Where an accepted command stands (R309, R310). -/
inductive CmdStage where
  | accepted | started | done
  deriving DecidableEq, Repr

/-- An outstanding command (R304, R309): its record, where it stands, and what it completes with. `demoted` holds when it
did not conform (R339); `joined` when it joined a reset that another command began (R353); `launchId` names its launch;
`range` is the range that it invalidates, with the time of its start (R265); `lines` are the lines that its writes still
wait for, each with the bytes of its range before it (R176, R315); `pages` and `snapshot` are those of a SUMMARY (R326). -/
structure Cmd where
  seq : Word
  tag : BitVec 9
  order : Bool
  eff : Fin 4
  opcode : Byte
  record : BitVec 512
  stage : CmdStage
  stamp : Nat
  status : Byte
  result : DWord
  demoted : Bool
  joined : Bool
  launchId : Option Nat
  range : Option (Nat × Nat × Nat)
  lines : List (LineAddr × Nat)
  pages : List (Nat × Nat × Nat)
  snapshot : List Byte
  deriving DecidableEq, Repr

/-- A stream and its sequence window (R307). -/
structure Stream where
  empty : Bool
  h : Word
  accepted : List Word
  completed : List (Word × Completion)
  cmds : List Cmd
  deriving DecidableEq, Repr

/-- A stream that has accepted nothing (R307). -/
def Stream.fresh : Stream := ⟨true, 0, [], [], []⟩

/-- A segment descriptor (R254). -/
structure Segment where
  valid : Bool
  big : Bool
  length : Nat
  base : Nat
  table : Nat
  deriving DecidableEq, Repr

/-- An empty descriptor number. -/
def Segment.none : Segment := ⟨false, false, 0, 0, 0⟩

/-- The states of a context (R327): 0 means that the number names no context. -/
inductive CtxState where
  | absent | active | resetting | destroying
  deriving DecidableEq, Repr

/-- A context (R330 to R336, R136, R144, R394). -/
structure Context where
  state : CtxState
  fn : Fin 257
  chset : Word
  segs : Table Segment
  savePages : List (Nat × Nat × Nat)
  save : DWord
  ceiling : Nat
  flush : Bool
  satNaR : Bool
  plane : Bool
  sticky : BitVec 3
  cls : Fin 4
  weight : Byte
  reserve : Nat
  reserved : List Nat
  complete : Word
  rate : Nat
  burst : Nat
  tokens : Nat
  bucket : Bool
  demoted : Word
  vtime : Table (Nat × Nat)   -- per channel, numerator and denominator (R337)
  mon : Option (DWord × Nat × List (Nat × Nat × Nat))
  streams : Table Stream
  cq : Area Completion
  saved : List SavedBlock
  lastPlaced : Table (Fin 16)
  aborted : Nat
  energy : Nat
  energyMicro : Nat
  deriving DecidableEq, Repr

/-- A context number that names no context. New contexts start from it (R332). -/
def Context.absent : Context :=
  { state := .absent, fn := 0, chset := 0, segs := [], savePages := [], save := 0, ceiling := 0,
    flush := false, satNaR := false, plane := false, sticky := 0, cls := 3, weight := 1, reserve := 0,
    reserved := [], complete := 0, rate := 0, burst := 0, tokens := 0, bucket := false, demoted := 0,
    vtime := [], mon := none, streams := [], cq := .off, saved := [], lastPlaced := [],
    aborted := 0, energy := 0, energyMicro := 0 }

/-- An MSI-X vector of a function (R325): VEC_MOD, the count P, and the entry of the MSI-X table. -/
structure Vec where
  addr : DWord
  data : Word
  count : Byte
  time : BitVec 16
  posted : Nat
  masked : Bool
  pending : Bool
  deriving DecidableEq, Repr

/-- A vector after a function-level reset (the Reset column of VEC_MOD). The MSI-X standard, which R325 takes its masks from, resets
each vector to masked (PRESUMED, notes/assumptions/7.md). -/
def Vec.reset : Vec := ⟨0, 0, 1, 0, 0, true, false⟩

/-- A function of the host port (R300, R308, R322, R333). -/
structure Func where
  cq : Area Completion
  fault : Area FaultRec
  event : Area EventRec
  storeBase : DWord
  storeEn : Bool
  badWrite : Byte
  stale : Byte
  dup : Byte
  evLost : Byte
  busMaster : Bool
  vecs : Table Vec
  streams : Table Stream
  evseq : Word
  faultSeq : Word
  snap : Nat
  queued : List (BitVec 20 × BitVec 512)
  heldMsgs : List (Fin 32)
  minClass : Fin 4
  maxCtx : Nat
  maxRes : Nat
  grants : Table (Option (Nat × Nat))
  energy : Nat
  energyMicro : Nat
  cleaning : Bool
  deriving DecidableEq, Repr

/-- A function after a hub reset (R333 and the Reset columns); Bus Master Enable is 0 as PCIe resets it (PRESUMED,
notes/assumptions/7.md). -/
def Func.reset : Func :=
  { cq := .off, fault := .off, event := .off, storeBase := 0, storeEn := false, badWrite := 0, stale := 0,
    dup := 0, evLost := 0, busMaster := false, vecs := [], streams := [], evseq := 0, faultSeq := 0,
    snap := 0, queued := [], heldMsgs := [], minClass := 1, maxCtx := 8, maxRes := 0, grants := [],
    energy := 0, energyMicro := 0, cleaning := false }

/-- A launch from its start to its completion (R30, R31, R316, R321). `next` gives, for each channel of
the set, the next block to place and the end of its range. -/
structure Launch where
  live : Bool
  ctx : Fin 2048
  stream : Fin 16
  seq : Word
  tag : BitVec 9
  program : DWord
  argptr : DWord
  grid : Nat
  chset : Word
  groups : Nat
  regs : Nat
  quern : Bool
  gang : Bool
  cores : Bool
  lm : Nat
  monA : BitVec 16
  monB : BitVec 16
  monCvt : BitVec 16
  monArea : Option (DWord × Nat × List (Nat × Nat × Nat))
  args : List Word
  eff : Fin 4
  stamp : Nat
  next : Table (Nat × Nat)
  liveBlocks : Nat
  lost : Nat
  lostAddr : DWord
  lostStamp : Nat
  flags : BitVec 3
  exc : Bool
  excEnd : Bool
  aborted : Bool
  channelReset : Bool
  dataError : Bool
  ended : Bool
  endStamp : Nat
  deriving DecidableEq, Repr

/-- A launch number that is not in use. -/
def Launch.none : Launch :=
  { live := false, ctx := 0, stream := 0, seq := 0, tag := 0, program := 0, argptr := 0, grid := 0,
    chset := 0, groups := 0, regs := 0, quern := false, gang := false, cores := false, lm := 0,
    monA := 0xFFFF, monB := 0xFFFF, monCvt := 0xFFFF, monArea := .none, args := [], eff := 3, stamp := 0,
    next := [], liveBlocks := 0, lost := 0, lostAddr := 0, lostStamp := 0, flags := 0, exc := false, excEnd := false, aborted := false,
    channelReset := false, dataError := false, ended := false, endStamp := 0 }

/-! ## The hub: field bus, dictionary, power, firmware -/

/-- An Ebfold session (R369, R371, R374). -/
structure Session where
  source : Option EbSource
  proved : Bool
  key : List Byte
  nr : List Byte
  nd : BitVec 256
  h : Word
  responses : List (Word × Byte × Byte)
  staging : Option (BitVec 16 × Byte × List Byte)
  failed : Nat
  deriving DecidableEq, Repr

/-- A free session number. -/
def Session.free : Session := ⟨none, false, [], [], 0, 0, [], none, 0⟩

/-- The registers of one mailbox of BAR4 (R383). -/
structure Mailbox where
  key : Word
  ctrl : Word
  offset : Word
  len : Word
  txn : Word
  status : Word
  tag : DWord
  size : Word
  data : Table Byte
  deriving DecidableEq, Repr

/-- A mailbox at the end of a hub reset. -/
def Mailbox.reset : Mailbox := ⟨0, 0, 0, 0, 0, 0, 0, 0, []⟩

/-- An image slot of the serial flash (R407, R409); `good` says that its image verifies. -/
structure FwSlot where
  full : Bool
  good : Bool
  version : Word
  svn : Word
  bodyHash : BitVec 256
  deriving DecidableEq, Repr

/-- An entry of the measurement log (R415). -/
structure LogEntry where
  kind : Fin 7
  channel : Byte
  version : Word
  svn : Word
  digest : BitVec 256
  deriving DecidableEq, Repr

/-- A pace report kept from a peer (R298). -/
structure PeerPace where
  known : Bool
  fresh : Bool
  pace : BitVec 16
  seqNo : DWord
  deriving DecidableEq, Repr

/-- A peer that has sent no report. -/
def PeerPace.none : PeerPace := ⟨false, false, 0, 0⟩

/-- Entries of the object dictionary that a write sets (R381, R404), in force or stored. -/
structure Dict where
  arbRate : BitVec 16
  fdRate : BitVec 16
  xlRate : BitVec 16
  frameMode : Byte
  prioBase : BitVec 16
  sdt : Byte
  vcid : Byte
  fdMarker : Byte
  eventEn : Byte
  sessionIdle : BitVec 16
  epoch : Word
  nodeNext : BitVec 16
  nodeTable : BitVec 512
  linkDead : Word
  routes : Table Word
  weights : List Byte
  powerLimit : Word
  tjLimit : Byte
  stackLimit : Byte
  paceTarget : BitVec 16
  paceFloor : BitVec 16
  paceStart : BitVec 16
  peerMask : BitVec 512
  deriving DecidableEq, Repr

/-- The defaults of the index maps (R381, R404). -/
def Dict.defaults : Dict :=
  { arbRate := 500, fdRate := 2000, xlRate := 5000, frameMode := 1, prioBase := 0x400, sdt := 0xC5,
    vcid := 0, fdMarker := 5, eventEn := 1, sessionIdle := 30, epoch := 0, nodeNext := 0, nodeTable := 0,
    linkDead := 20, routes := [], weights := [8, 4, 1], powerLimit := 6500, tjLimit := 100,
    stackLimit := 90, paceTarget := 0x1000, paceFloor := 0x0334, paceStart := 0x0800, peerMask := 0 }

/-- The hub (R329, R357, R384 to R404, R406 to R415), with the hub's store in serial flash. `inForce` holds the power and
pace entries as the last power interval took them (R404); `powerMeans` are the input powers in milliwatts of the last 100
power intervals, the latest first (0x7013). -/
structure Hub where
  powered : Bool
  ready : Bool
  refLost : Bool
  perstN : Bool
  inReset : Bool
  dict : Dict
  inForce : Dict
  restoreAsked : Bool
  changes : Table Nat
  node : Fin 512
  address : Fin 128
  frameModeInForce : Byte
  busState : Fin 4
  busOffs : Word
  overrun : Word
  malformed : Word
  addrConflict : Word
  failedTags : Word
  sessions : Table Session
  mailboxes : Table Mailbox
  transmit : List BusFrame
  event : Option (Byte × Byte × DWord)
  keptEvents : List (Byte × Byte × DWord)
  -- power and pace
  coolant : Bool
  trip : Bool
  pin : Bool
  coolantStops : Word
  undervolt : Bool
  powerShort : Bool
  currentBinding : Bool
  powerMeans : List Nat
  inputMilliVolts : Word
  pPower : BitVec 16
  sustainable : BitVec 16
  jobPace : BitVec 16
  applied : BitVec 16
  peers : Table PeerPace
  reportCount : Word
  reportsSent : List (BitVec 16 × DWord)
  deviceEnergy : Nat
  deviceMicro : Nat
  deviceIdle : Nat
  deviceIdleMicro : Nat
  -- firmware and security
  hubA : FwSlot
  hubB : FwSlot
  chanA : FwSlot
  chanB : FwSlot
  bootB : Bool
  stagedHub : Option Bool
  stagedChan : Option Bool
  floorHub : Word
  floorChan : Word
  ownerKey : Option (List Byte)
  ownerCount : Word
  powerOn : Word
  hubVersion : Word
  log : List LogEntry
  fwUpdate : Option (CmdRef × List (Fin 32) × DWord)
  bootFailed : Bool
  -- the data that the last register read returned
  readData : DWord
  -- nodes
  unreachable : List (Fin 512)
  nodeMsgs : List StreamMsg
  -- histograms of the C0 bounds (R432)
  histStart : Table Nat
  histEnd : Table Nat
  retiredCores : List (Nat × Fin 264)
  vecMsgs : List (Nat × Nat)
  deriving DecidableEq, Repr

/-- An image slot that holds a verified image of unstated version at the floor (DESIGN CHOICE, notes/assumptions/24.md). -/
def FwSlot.factory : FwSlot := ⟨true, true, 0, 0, 0⟩

/-- An empty slot. -/
def FwSlot.empty : FwSlot := ⟨false, false, 0, 0, 0⟩

/-- The measurement log after a first boot (R410, R415): the ROM, the hub image, the two floors, the image of each channel, the
owner key, the configuration digest 0x2000 of the default entries. -/
def bootLog : List LogEntry :=
  let chans : List LogEntry := (List.range 32).map fun ch => ⟨3, BitVec.ofNat 8 ch, 0, 0, 0⟩
  let digest : BitVec 256 := (sha256 ([0x03, 0x20, 0] ++ List.replicate 64 0 ++ [0x04, 0x20, 0, 20, 0, 0, 0])).setWidth 128 |>.setWidth 256
  [⟨1, 0xFF, Config.romVersion, 0, 0⟩, ⟨2, 0xFF, 0, 0, 0⟩, ⟨5, 0xFF, 1, 0, 0⟩, ⟨5, 0xFF, 2, 0, 0⟩] ++ chans
    ++ [⟨4, 0xFF, 0, 0, 0⟩, ⟨6, 0xFF, 0, 0, digest⟩]

/-- The hub at the end of the hub reset that follows device power-on, with every channel up and READY not
yet set. -/
def Hub.reset : Hub :=
  { powered := true, ready := false, refLost := false, perstN := true, inReset := false,
    dict := .defaults, inForce := .defaults, restoreAsked := false, changes := [], node := 0, address := Config.straps,
    frameModeInForce := 1, busState := if Config.straps = 0 ∨ Config.straps = 127 then 3 else 1, busOffs := 0, overrun := 0, malformed := 0, addrConflict := 0,
    failedTags := 0, sessions := [], mailboxes := [], transmit := [], event := none, keptEvents := [],
    coolant := false, trip := false, pin := false, coolantStops := 0, undervolt := false,
    powerShort := false, currentBinding := false, powerMeans := [], inputMilliVolts := 54000,
    pPower := 0x0800, sustainable := 0x0800, jobPace := 0x0800, applied := 0x0800, peers := [],
    reportCount := 0, reportsSent := [], deviceEnergy := 0, deviceMicro := 0, deviceIdle := 0,
    deviceIdleMicro := 0, hubA := .factory, hubB := .empty, chanA := .factory, chanB := .empty,
    bootB := false, stagedHub := none, stagedChan := none, floorHub := 0, floorChan := 0,
    ownerKey := none, ownerCount := 0, powerOn := 1, hubVersion := 0, log := bootLog, fwUpdate := none, bootFailed := false,
    readData := 0, unreachable := [], nodeMsgs := [], histStart := [], histEnd := [], retiredCores := [], vecMsgs := [] }

/-! ## The whole block -/

/-- The state of the block. `freeCount` and `tickets` are the model's own: the counter of the free
values, and the counter that stamps arrivals so that "earliest" has a meaning. -/
structure State where
  pending : List Instr
  hub : Hub
  chans : Table Channel
  clusters : Table Cluster
  cores : Table Core
  fns : Table Func
  ctxs : Table Context
  launches : Table Launch
  objs : Table SyncObj
  lines : Table SliceLine
  mem : List Host.Cell
  halves : Table HalfMeta
  upsets : Table SymErrors
  hostMem : Table (Option Byte)
  msgs : List Msg
  signals : List (Fin 2048 × Word)
  freeCount : Nat
  tickets : Nat
  deriving DecidableEq, Repr

/-- The block right after reset (R443 to R445, R9; notes/assumptions/1.md): no command waits, nothing
is resident, every register holds its Reset value. -/
def State.reset : State :=
  { pending := [], hub := .reset, chans := [], clusters := [], cores := [], fns := [], ctxs := [],
    launches := [], objs := [], lines := [], mem := [], halves := [], upsets := [], hostMem := [], msgs := [],
    signals := [], freeCount := 0, tickets := 0 }

end Sys2Proof.Machine
end

