-- ==== Sys2Proof/Machine/Maps.lean ====
section
/-! DEFINITION. The operations of the sparse tables: lookup, update in canonical form, and the memory
of bytes built on them. -/

namespace Sys2Proof.Machine

/-- The value a table holds for a key; an unlisted key reads as the default `d`. -/
def tget {α : Type} (d : α) : Table α → Nat → α
  | [], _ => d
  | (k, v) :: t, i => if i = k then v else tget d t i

/-- Insert or replace a key, keeping the keys rising. -/
def tput {α : Type} : Table α → Nat → α → Table α
  | [], i, x => [(i, x)]
  | (k, v) :: t, i, x =>
    if i < k then (i, x) :: (k, v) :: t else if i = k then (i, x) :: t else (k, v) :: tput t i x

/-- Remove a key. -/
def tdel {α : Type} (t : Table α) (i : Nat) : Table α := t.filter fun e => decide (e.1 ≠ i)

/-- Write a key. Writing the default removes the entry, so that equal tables are equal lists. -/
def tset {α : Type} [DecidableEq α] (d : α) (t : Table α) (i : Nat) (x : α) : Table α :=
  if x = d then tdel t i else tput t i x

/-- Change the value of a key. -/
def tmod {α : Type} [DecidableEq α] (d : α) (t : Table α) (i : Nat) (f : α → α) : Table α :=
  tset d t i (f (tget d t i))

/-- The keys that a table lists, each once. -/
def tkeys {α : Type} : Table α → List Nat
  | [] => []
  | (k, _) :: t => k :: (tkeys t).filter fun i => decide (i ≠ k)

/-- Map every listed value whose key satisfies `p`, dropping what becomes the default. -/
def tmapIf {α : Type} [DecidableEq α] (d : α) (t : Table α) (p : Nat → Bool) (f : α → α) : Table α :=
  ((tkeys t).filter p).foldl (fun u k => tmod d u k f) t

/-- Drop every listed entry whose key satisfies `p`, so that it reads as the default. -/
def tdrop {α : Type} (t : Table α) (p : Nat → Bool) : Table α := t.filter fun e => !p e.1

/-- Keys strictly rise from a lower bound. -/
def risingFrom {α : Type} (lo : Nat) : Table α → Bool
  | [] => true
  | (k, _) :: t => decide (lo ≤ k) && risingFrom (k + 1) t

/-- The canonical form of a table: keys strictly rising and no entry equal to the default. -/
def twf {α : Type} [DecidableEq α] (d : α) (t : Table α) : Bool :=
  risingFrom 0 t && t.all fun e => decide (e.2 ≠ d)

/-- The canonical form of memory; an unlisted byte reads 0, as memory initialisation leaves it (R245). -/
abbrev Memory.wf (m : List Host.Cell) : Bool := twf (0 : Byte) m

/-- Read one byte of memory. -/
def readByte (m : List Host.Cell) (a : Nat) : Byte := tget 0 m a

/-- Write one byte of memory. -/
def writeByte (m : List Host.Cell) (a : Nat) (b : Byte) : List Host.Cell := tset 0 m a b

/-- `n` bytes from address `a`, the first in the low bits (R7). -/
def readBytes (m : List Host.Cell) (a : Nat) : Nat → Nat
  | 0 => 0
  | n + 1 => (readByte m a).toNat + 256 * readBytes m (a + 1) n

/-- Byte `k` of a little-endian number. -/
def byteOf (x : Nat) (k : Nat) : Byte := BitVec.ofNat 8 (x >>> (8 * k))

/-- Write `n` bytes of a little-endian number at address `a` (R7). -/
def writeBytes (m : List Host.Cell) (a : Nat) : Nat → Nat → List Host.Cell
  | 0, _ => m
  | n + 1, x => writeBytes (writeByte m a (BitVec.ofNat 8 x)) (a + 1) n (x / 256)

/-- The bytes of a little-endian number, lowest first. -/
def bytesLe (n : Nat) (x : Nat) : List Byte := (List.range n).map (byteOf x)

/-- The number that a list of bytes spells, lowest first (R7). -/
def leNat : List Byte → Nat
  | [] => 0
  | b :: t => b.toNat + 256 * leNat t

/-- Add to a saturating counter. -/
def satAdd {w : Nat} (x : BitVec w) (n : Nat) : BitVec w :=
  BitVec.ofNat w (Nat.min (x.toNat + n) (2 ^ w - 1))

/-- The number whose bit `i`, for `i` below `n`, is `p i`. -/
def bitsOf (p : Nat → Bool) : Nat → Nat
  | 0 => 0
  | n + 1 => bitsOf p n + if p n then 2 ^ n else 0

/-- The word whose bit `i` is `p i`. -/
def maskOf {w : Nat} (p : Nat → Bool) : BitVec w := BitVec.ofNat w (bitsOf p w)

/-- The lanes of a mask in ascending order. -/
def lanesOf {w : Nat} (m : BitVec w) : List Nat := (List.range w).filter fun i => m.getLsbD i

/-- The number of bits set. -/
def popcount {w : Nat} (m : BitVec w) : Nat := (lanesOf m).length

end Sys2Proof.Machine
end

