-- ==== Sys2Proof/Machine/Formats.lean ====
section
/-! DEFINITION. The number formats (R124 to R141): exact values, one rounding, the conversions, and the
binary32 operations of R75 and R104. -/

namespace Sys2Proof.Machine

/-- An exact value: a NaN or NaR, an infinity, or ± m × 2^e. Zero keeps a sign (IEEE 754). -/
inductive Exact where
  | nan
  | inf (neg : Bool)
  | num (neg : Bool) (m : Nat) (e : Int)
  deriving DecidableEq, Repr

def Exact.zero : Exact := .num false 0 0

/-- The element types of R71. -/
inductive ElTy where
  | u32 | i32 | u64 | i64 | f32 | holly16 | box8 | privet8 | haw6 | sloe4 | hazel40
  deriving DecidableEq, Repr

/-- TYPE and STYPE codes (R71). -/
def ElTy.ofCode (c : BitVec 4) : Option ElTy :=
  match c.toNat with
  | 0 => some .u32 | 1 => some .i32 | 2 => some .u64 | 3 => some .i64 | 4 => some .f32
  | 8 => some .holly16 | 9 => some .box8 | 10 => some .privet8 | 11 => some .haw6 | 12 => some .sloe4
  | 13 => some .hazel40 | _ => none

def ElTy.isShort : ElTy → Bool
  | .holly16 | .box8 | .privet8 | .haw6 | .sloe4 => true
  | _ => false

def ElTy.isInt : ElTy → Bool
  | .u32 | .i32 | .u64 | .i64 => true
  | _ => false

/-- The type occupies a register pair (R64, R71). -/
def ElTy.isPair : ElTy → Bool
  | .u64 | .i64 | .hazel40 => true
  | _ => false

/-- Significand bits with the hidden one: mw + 1 of R124, 24 for binary32, 32 for HAZEL40. -/
def ElTy.prec : ElTy → Nat
  | .holly16 => 10 | .box8 => 3 | .privet8 => 4 | .haw6 => 3 | .sloe4 => 2 | .hazel40 => 32 | _ => 24

/-- The exponent of the least subnormal: 1 − bias − mw (R125, R130). -/
def ElTy.qmin : ElTy → Int
  | .holly16 => -40 | .box8 => -16 | .privet8 => -9 | .haw6 => -4 | .sloe4 => -2 | .hazel40 => -157 | _ => -149

/-- Width of a short code (R124). -/
def ElTy.width : ElTy → Nat
  | .holly16 => 16 | .box8 => 8 | .privet8 => 8 | .haw6 => 6 | .sloe4 => 4 | _ => 32

/-- Elements in a 32-bit word (R71, R92). -/
def ElTy.perWord : ElTy → Nat
  | .holly16 => 2 | .box8 => 4 | .privet8 => 4 | .haw6 => 5 | .sloe4 => 8 | _ => 1

/-- Round a / 2^sh to nearest, ties to even (R138). -/
def rneShift (a sh : Nat) : Nat :=
  let q := a >>> sh
  let r := a % 2 ^ sh
  if 2 * r > 2 ^ sh || (2 * r = 2 ^ sh && q % 2 = 1) then q + 1 else q

/-- The exponent of the last place to which m × 2^e rounds. -/
def lastPlace (p : Nat) (qmin : Int) (m : Nat) (e : Int) : Int :=
  max ((Nat.log2 m : Int) + e - (p - 1)) qmin

/-- The magnitude m × 2^e rounded to nearest even with `p` significant bits and least place `qmin`, as
the integer (exponent field, mantissa) of the encoding without its sign; it is not bounded above. -/
def encMag (p : Nat) (qmin : Int) (m : Nat) (e : Int) : Nat :=
  if m = 0 then 0
  else
    let q := lastPlace p qmin m e
    let n := if q ≤ e then m * 2 ^ (e - q).toNat else rneShift m (q - e).toNat
    (q - qmin).toNat * 2 ^ (p - 1) + n

/-- As `encMag`, rounding toward zero. -/
def truncMag (p : Nat) (qmin : Int) (m : Nat) (e : Int) : Nat :=
  if m = 0 then 0
  else
    let q := lastPlace p qmin m e
    let n := if q ≤ e then m * 2 ^ (e - q).toNat else m >>> (q - e).toNat
    (q - qmin).toNat * 2 ^ (p - 1) + n

/-- The magnitude that an encoding without its sign stands for (R125, R130). -/
def decMag (p : Nat) (qmin : Int) (code : Nat) : Nat × Int :=
  let f := code / 2 ^ (p - 1)
  if f = 0 then (code, qmin) else (code % 2 ^ (p - 1) + 2 ^ (p - 1), qmin + (f : Int) - 1)

/-- An encoding without its sign that is subnormal in its format. -/
def isSubnormal (p : Nat) (code : Nat) : Bool := decide (0 < code) && decide (code < 2 ^ (p - 1))

/-- The canonical NaN (R75). -/
def canonNaN : Word := 0x7FC00000

/-- A decoded operand and whether FLUSH took it (R135). -/
abbrev Decoded := Exact × Bool

/-- binary32 as an exact value; with FLUSH a subnormal input is +0 (R135). -/
def dec32 (flush : Bool) (w : Word) : Decoded :=
  let neg := w.getLsbD 31
  let mag := (w.extractLsb' 0 31).toNat
  if mag > 0x7F800000 then (.nan, false)
  else if mag = 0x7F800000 then (.inf neg, false)
  else if flush && isSubnormal 24 mag then (.zero, true)
  else
    let d := decMag 24 (-149) mag
    (.num neg d.1 d.2, false)

/-- Round to binary32 (R138, R139) with FLUSH on the result (R135 item 2). -/
def enc32 (flush : Bool) (x : Exact) : Word × Bool :=
  let sg (neg : Bool) (n : Nat) : Word := BitVec.ofNat 32 (n + if neg then 2 ^ 31 else 0)
  match x with
  | .nan => (canonNaN, false)
  | .inf neg => (sg neg 0x7F800000, false)
  | .num neg m e =>
    let c := encMag 24 (-149) m e
    if c ≥ 0x7F800000 then (sg neg 0x7F800000, false)
    else if flush && isSubnormal 24 c then (0, true)
    else (sg neg c, false)

/-- HAZEL40 as an exact value (R130): word W and extension byte X. -/
def decHz (flush : Bool) (w : Word) (x : Byte) : Decoded :=
  let neg := w.getLsbD 31
  let wm := (w.extractLsb' 0 31).toNat
  if wm > 0x7F800000 then (.nan, false)
  else if wm = 0x7F800000 then (.inf neg, false)
  else
    let mag := wm * 256 + x.toNat
    if flush && isSubnormal 32 mag then (.zero, true)
    else
      let d := decMag 32 (-157) mag
      (.num neg d.1 d.2, false)

/-- Round to HAZEL40 (R75, R138): (W, X, flushed). An infinity or NaN has X = 0 (R130). -/
def encHz (flush : Bool) (x : Exact) : Word × Byte × Bool :=
  let sg (neg : Bool) (n : Nat) : Word := BitVec.ofNat 32 (n + if neg then 2 ^ 31 else 0)
  match x with
  | .nan => (canonNaN, 0, false)
  | .inf neg => (sg neg 0x7F800000, 0, false)
  | .num neg m e =>
    let c := encMag 32 (-157) m e
    if c ≥ 255 * 2 ^ 31 then (sg neg 0x7F800000, 0, false)
    else if flush && isSubnormal 32 c then (0, 0, true)
    else (sg neg (c / 256), BitVec.ofNat 8 c, false)

/-- The NaR code of a short format (R124). -/
def narCode (t : ElTy) : Nat := 2 ^ (t.width - 1)

/-- A short code as an exact value (R125, R140 decode). -/
def decShort (t : ElTy) (flush : Bool) (code : Nat) : Decoded :=
  if code = narCode t then (.nan, false)
  else
    let neg := decide (code ≥ narCode t)
    let mag := code % narCode t
    if flush && isSubnormal t.prec mag then (.zero, true)
    else
      let d := decMag t.prec t.qmin mag
      (.num neg d.1 d.2, false)

/-- The flags bits of R85. -/
def flagFlushed : BitVec 3 := 1
def flagSaturated : BitVec 3 := 2
def flagNarMade : BitVec 3 := 4

/-- Encode into a short format (R140 encode): the code and the flags it raises. -/
def encShort (t : ElTy) (flush sat : Bool) (x : Exact) : Nat × BitVec 3 :=
  let beyond (neg : Bool) : Nat × BitVec 3 :=
    if sat then (narCode t - 1 + (if neg then narCode t else 0), flagSaturated) else (narCode t, flagNarMade)
  match x with
  | .nan => (narCode t, 0)
  | .inf neg => beyond neg
  | .num neg m e =>
    let c := encMag t.prec t.qmin m e
    if c ≥ narCode t then beyond neg
    else if c = 0 then (0, 0)
    else if flush && isSubnormal t.prec c then (0, flagFlushed)
    else (c + (if neg then narCode t else 0), 0)

/-- Round to an integer, ties to even (R138). -/
def roundInt (m : Nat) (e : Int) : Nat := if 0 ≤ e then m * 2 ^ e.toNat else rneShift m (-e).toNat

/-- Encode into an integer type: NaN gives 0, out of range saturates and sets SATURATED (R76, R139). -/
def encInt (t : ElTy) (x : Exact) : DWord × BitVec 3 :=
  let lo : Int := match t with | .i32 => -(2 ^ 31) | .i64 => -(2 ^ 63) | _ => 0
  let hi : Int := match t with
    | .i32 => 2 ^ 31 - 1 | .i64 => 2 ^ 63 - 1 | .u32 => 2 ^ 32 - 1 | _ => 2 ^ 64 - 1
  let clamp (v : Int) : DWord × BitVec 3 :=
    if v < lo then (BitVec.ofInt 64 lo, flagSaturated)
    else if v > hi then (BitVec.ofInt 64 hi, flagSaturated) else (BitVec.ofInt 64 v, 0)
  match x with
  | .nan => (0, 0)
  | .inf neg => (BitVec.ofInt 64 (if neg then lo else hi), flagSaturated)
  | .num neg m e => clamp (if neg then -(roundInt m e : Int) else (roundInt m e : Int))

/-- An integer of a type as an exact value. -/
def decInt (t : ElTy) (b : DWord) : Exact :=
  let v : Int := match t with
    | .i32 => (b.extractLsb' 0 32).toInt
    | .i64 => b.toInt
    | .u32 => (b.extractLsb' 0 32).toNat
    | _ => b.toNat
  .num (decide (v < 0)) v.natAbs 0

/-- Multiply by 2^k. -/
def Exact.scale (x : Exact) (k : Int) : Exact :=
  match x with
  | .num neg m e => .num neg m (e + k)
  | y => y

/-- decode() of R140, from the source bits (an element's code, a word, or a pair with X in bits [39:32]
for HAZEL40). -/
def cvtDecode (t : ElTy) (flush : Bool) (b : DWord) : Decoded :=
  match t with
  | .f32 => dec32 flush (b.extractLsb' 0 32)
  | .hazel40 => decHz flush (b.extractLsb' 0 32) (b.extractLsb' 32 8)
  | .u32 | .i32 | .u64 | .i64 => (decInt t b, false)
  | _ => decShort t flush (b.toNat % 2 ^ t.width)

/-- A conversion writes zero as +0 (R133). -/
def Exact.posZero : Exact → Exact
  | .num _ 0 _ => .zero
  | x => x

/-- A signed zero in a rounded result becomes +0 (R133). -/
def dropNegZero (w : Word) : Word := if w = 0x80000000 then 0 else w

/-- encode() of R140: the bits (HAZEL40: X in bits [39:32]) and the flags. -/
def cvtEncode (t : ElTy) (flush sat : Bool) (x : Exact) : DWord × BitVec 3 :=
  match t with
  | .f32 =>
    let r := enc32 flush x
    ((dropNegZero r.1).setWidth 64, if r.2 then flagFlushed else 0)
  | .hazel40 =>
    let r := encHz flush x
    let w := if r.2.1 = 0 then dropNegZero r.1 else r.1
    ((r.2.1 ++ w).setWidth 64, if r.2.2 then flagFlushed else 0)
  | .u32 | .i32 | .u64 | .i64 => encInt t x
  | _ =>
    let r := encShort t flush sat x
    (BitVec.ofNat 64 r.1, r.2)

/-- cvt() of R140: a scale byte when SC = 1; the result bits and the flags. -/
def cvtValue (st dt : ElTy) (flush sat : Bool) (scale : Option Byte) (src : DWord) : DWord × BitVec 3 :=
  let d := cvtDecode st flush src
  let x := match scale with
    | none => d.1
    | some b => if b = 0x80 then .nan else d.1.scale b.toInt
  let r := cvtEncode dt flush sat x
  (r.1, r.2 ||| (if d.2 then flagFlushed else 0))

/-! ## Exact arithmetic -/

/-- Exact sum. An exact zero sum is −0 only when both addends are negative zeros (IEEE 754). -/
def Exact.add (x y : Exact) : Exact :=
  match x, y with
  | .nan, _ => .nan
  | _, .nan => .nan
  | .inf a, .inf b => if a = b then .inf a else .nan
  | .inf a, _ => .inf a
  | _, .inf b => .inf b
  | .num na ma ea, .num nb mb eb =>
    let e := min ea eb
    let va : Int := (ma * 2 ^ (ea - e).toNat : Nat)
    let vb : Int := (mb * 2 ^ (eb - e).toNat : Nat)
    let v := (if na then -va else va) + (if nb then -vb else vb)
    if v = 0 then .num (na && nb) 0 0 else .num (decide (v < 0)) v.natAbs e

/-- Exact product; 0 × ∞ is a NaN (IEEE 754). -/
def Exact.mul (x y : Exact) : Exact :=
  match x, y with
  | .nan, _ => .nan
  | _, .nan => .nan
  | .inf a, .inf b => .inf (a != b)
  | .inf a, .num b m _ => if m = 0 then .nan else .inf (a != b)
  | .num b m _, .inf a => if m = 0 then .nan else .inf (a != b)
  | .num na ma ea, .num nb mb eb => .num (na != nb) (ma * mb) (ea + eb)

/-- Exact comparison of two values that are no NaN. -/
def Exact.lt (x y : Exact) : Bool :=
  let key (a b : Exact) : Int × Int :=
    match a, b with
    | .num na ma ea, .num nb mb eb =>
      let e := min ea eb
      let va : Int := (ma * 2 ^ (ea - e).toNat : Nat)
      let vb : Int := (mb * 2 ^ (eb - e).toNat : Nat)
      (if na then -va else va, if nb then -vb else vb)
    | .inf n, .num .. => (if n then -1 else 1, 0)
    | .num .., .inf n => (0, if n then -1 else 1)
    | .inf a, .inf b => (if a then -1 else 1, if b then -1 else 1)
    | _, _ => (0, 0)
  decide ((key x y).1 < (key x y).2)

def isNaN32 (w : Word) : Bool := decide ((w.extractLsb' 0 31).toNat > 0x7F800000)

/-- A binary32 result with the flags it raises. -/
abbrev FResult := Word × BitVec 3

def flushFlag (b : Bool) : BitVec 3 := if b then flagFlushed else 0

/-- A + B, one rounding (R75). -/
def f32Add (fl : Bool) (a b : Word) : FResult :=
  let x := dec32 fl a
  let y := dec32 fl b
  let r := enc32 fl (x.1.add y.1)
  (r.1, flushFlag (x.2 || y.2 || r.2))

/-- A value with its sign turned. -/
def Exact.neg : Exact → Exact
  | .nan => .nan
  | .inf n => .inf !n
  | .num n m e => .num (!n) m e

/-- A − B, one rounding (R75). FLUSH makes a subnormal B +0 before it is subtracted (R135). -/
def f32Sub (fl : Bool) (a b : Word) : FResult :=
  let x := dec32 fl a
  let y := dec32 fl b
  let r := enc32 fl (x.1.add y.1.neg)
  (r.1, flushFlag (x.2 || y.2 || r.2))

/-- A × B, one rounding (R75). -/
def f32Mul (fl : Bool) (a b : Word) : FResult :=
  let x := dec32 fl a
  let y := dec32 fl b
  let r := enc32 fl (x.1.mul y.1)
  (r.1, flushFlag (x.2 || y.2 || r.2))

/-- A × B + C, one rounding (R75). -/
def f32Fma (fl : Bool) (a b c : Word) : FResult :=
  let x := dec32 fl a
  let y := dec32 fl b
  let z := dec32 fl c
  let r := enc32 fl ((x.1.mul y.1).add z.1)
  (r.1, flushFlag (x.2 || y.2 || z.2 || r.2))

/-- An operand of FMIN or FMAX after FLUSH (R135). -/
def f32Operand (fl : Bool) (a : Word) : Word × Bool := if (dec32 fl a).2 then (0, true) else (a, false)

/-- FMIN and FMAX (R75): exact; −0 is smaller than +0; one NaN gives the other operand. -/
def f32MinMax (fl isMax : Bool) (a b : Word) : FResult :=
  let x := f32Operand fl a
  let y := f32Operand fl b
  let f := flushFlag (x.2 || y.2)
  if isNaN32 x.1 && isNaN32 y.1 then (canonNaN, f)
  else if isNaN32 x.1 then (y.1, f)
  else if isNaN32 y.1 then (x.1, f)
  else
    let lt := (dec32 false x.1).1.lt (dec32 false y.1).1
    let gt := (dec32 false y.1).1.lt (dec32 false x.1).1
    let less := if lt then true else if gt then false else x.1.getLsbD 31
    if less != isMax then (x.1, f) else (y.1, f)

/-- HZADD (R75): HAZEL40 pair plus binary32, rounded once to HAZEL40. -/
def hzAdd (fl : Bool) (w : Word) (x : Byte) (b : Word) : Word × Byte × BitVec 3 :=
  let p := decHz fl w x
  let q := dec32 fl b
  let r := encHz fl (p.1.add q.1)
  (r.1, r.2.1, flushFlag (p.2 || q.2 || r.2.2))

/-! ## The operations within an error bound (R75): the exact result is enclosed in an interval, and the
result is any binary32 number within the bound of it, taken from a free value. -/

/-- An enclosure lo × 2^e ≤ x ≤ hi × 2^e of a positive exact result. -/
structure Encl where
  lo : Nat
  hi : Nat
  e : Int
  deriving DecidableEq, Repr

/-- |code's value − x| ≤ n × 2^q for some x of the enclosure. -/
def nearCode (c : Nat) (x : Encl) (n : Nat) (q : Int) : Bool :=
  let d := decMag 24 (-149) c
  let e := min (min d.2 x.e) q
  let v := d.1 * 2 ^ (d.2 - e).toNat
  let lo := x.lo * 2 ^ (x.e - e).toNat
  let hi := x.hi * 2 ^ (x.e - e).toNat
  let b := n * 2 ^ (q - e).toNat
  decide (v ≤ hi + b) && decide (lo ≤ v + b)

/-- The magnitude chosen by the free value `f` among the codes within the bound: `n` units in the last
place of x, or, where `abs` gives a place, 2^abs. The nearest code where the free value names none. -/
def pickCode (f : Nat) (x : Encl) (n : Nat) (abs : Option Int) : Nat :=
  let base := encMag 24 (-149) x.lo x.e
  let q := match abs with
    | some a => a
    | none => lastPlace 24 (-149) x.lo x.e
  let k := match abs with | some _ => 1 | none => n
  let cand := base + f % 17 - 8
  if nearCode cand x k q then Nat.min cand 0x7F800000 else Nat.min base 0x7F800000

/-- The enclosure of 1 ÷ (m × 2^e). -/
def enclRcp (m : Nat) (e : Int) : Encl :=
  let q := 2 ^ 120 / m
  ⟨q, if 2 ^ 120 % m = 0 then q else q + 1, -e - 120⟩

/-- m × 2^e as m' × 2^(2h). -/
def evenExp (m : Nat) (e : Int) : Nat × Int := if e % 2 = 0 then (m, e / 2) else (2 * m, (e - 1) / 2)

/-- The integer square root by `fuel` bits from the top. -/
def isqrtBits (x : Nat) : Nat → Nat → Nat
  | 0, r => r
  | k + 1, r => isqrtBits x k (if (r + 2 ^ k) * (r + 2 ^ k) ≤ x then r + 2 ^ k else r)

/-- The integer square root of a number below 2^600. -/
def isqrt (x : Nat) : Nat := isqrtBits x 300 0

def enclSqrt (m : Nat) (e : Int) : Encl :=
  let p := evenExp m e
  let r := isqrt (p.1 * 2 ^ 160)
  ⟨r, if r * r = p.1 * 2 ^ 160 then r else r + 1, p.2 - 80⟩

def enclRsqrt (m : Nat) (e : Int) : Encl :=
  let p := evenExp m e
  let r := isqrt (2 ^ 240 / p.1)
  ⟨r, if r * r * p.1 = 2 ^ 240 then r else r + 1, -p.2 - 120⟩

/-- 2^f for f = `f` ÷ 2^k, scaled by 2^128 and rounded down at every step: `root` is 2^(2^−i). -/
def exp2Frac (f : Nat) : Nat → Nat → Nat → Nat
  | 0, _, acc => acc
  | k + 1, root, acc =>
    exp2Frac f k (isqrt (root * 2 ^ 128)) (if f.testBit k then acc * root / 2 ^ 128 else acc)

/-- The enclosure of 2^A for A = ± m × 2^e: integer part and a 64-bit fraction. -/
def enclExp2 (neg : Bool) (m : Nat) (e : Int) : Encl :=
  let k : Nat := 64
  let scaled : Nat := if 0 ≤ e then m * 2 ^ (e.toNat + k) else m * 2 ^ k / 2 ^ (-e).toNat
  let exact := if 0 ≤ e then true else decide (m * 2 ^ k % 2 ^ (-e).toNat = 0)
  let a : Int := if neg then (-(scaled : Int)) - (if exact then 0 else 1) else scaled
  let i := a / (2 ^ k : Int)
  let f := (a % (2 ^ k : Int)).toNat
  let r := exp2Frac f k (isqrt (2 * 2 ^ 256)) (2 ^ 128)
  if f = 0 && exact then ⟨2 ^ 128, 2 ^ 128, i - 128⟩ else ⟨r, r + r / 2 ^ 58 + 1, i - 128⟩

/-- Fraction bits of log2 of x ÷ 2^200 in [1, 2) by repeated squaring. -/
def log2Bits : Nat → Nat → Nat → Nat
  | 0, _, acc => acc
  | k + 1, x, acc =>
    let y := x * x / 2 ^ 200
    if y ≥ 2 ^ 201 then log2Bits k (y / 2) (2 * acc + 1) else log2Bits k y (2 * acc)

/-- log2 of m × 2^e as (negative, enclosure of the magnitude). -/
def enclLog2 (m : Nat) (e : Int) : Bool × Encl :=
  let l := Nat.log2 m
  let i : Int := (l : Int) + e
  let x := m * 2 ^ 200 / 2 ^ l
  let f := log2Bits 90 x 0
  let exact := decide (x = 2 ^ 200)
  let lo : Int := i * 2 ^ 90 + f
  let hi : Int := if exact then lo else lo + 2
  if 0 ≤ lo then (false, ⟨lo.toNat, hi.toNat, -90⟩)
  else (true, ⟨(-hi).toNat, (-lo).toNat, -90⟩)

/-- A picked magnitude with its sign, FLUSH applied. -/
def packPicked (fl neg : Bool) (c : Nat) (flushedIn : Bool) : FResult :=
  if fl && isSubnormal 24 c then (0, flagFlushed)
  else (BitVec.ofNat 32 (c + if neg then 2 ^ 31 else 0), flushFlag flushedIn)

/-- FRCP: 1 ÷ A within 2 ulp. -/
def f32Rcp (fl : Bool) (f : Nat) (a : Word) : FResult :=
  let x := dec32 fl a
  match x.1 with
  | .nan => (canonNaN, 0)
  | .inf n => ((enc32 false (.num n 0 0)).1, 0)
  | .num n m e =>
    if m = 0 then ((enc32 false (.inf n)).1, flushFlag x.2)
    else packPicked fl n (pickCode f (enclRcp m e) 2 none) x.2

/-- FRSQ: 1 ÷ √A within 2 ulp. -/
def f32Rsq (fl : Bool) (f : Nat) (a : Word) : FResult :=
  let x := dec32 fl a
  match x.1 with
  | .nan => (canonNaN, 0)
  | .inf n => if n then (canonNaN, 0) else (0, 0)
  | .num n m e =>
    if m = 0 then ((enc32 false (.inf n)).1, flushFlag x.2)
    else if n then (canonNaN, 0) else packPicked fl false (pickCode f (enclRsqrt m e) 2 none) x.2

/-- FSQRT: √A within 1 ulp. -/
def f32Sqrt (fl : Bool) (f : Nat) (a : Word) : FResult :=
  let x := dec32 fl a
  match x.1 with
  | .nan => (canonNaN, 0)
  | .inf n => if n then (canonNaN, 0) else (0x7F800000, 0)
  | .num n m e =>
    if m = 0 then ((enc32 false (.num n 0 0)).1, flushFlag x.2)
    else if n then (canonNaN, 0) else packPicked fl false (pickCode f (enclSqrt m e) 1 none) x.2

/-- FEXP2: 2^A within 2 ulp. -/
def f32Exp2 (fl : Bool) (f : Nat) (a : Word) : FResult :=
  let x := dec32 fl a
  match x.1 with
  | .nan => (canonNaN, 0)
  | .inf n => if n then (0, 0) else (0x7F800000, 0)
  | .num n m e =>
    if m = 0 then (0x3F800000, flushFlag x.2)
    else
      let big := decide ((Nat.log2 m : Int) + e ≥ 8)
      if big then (if n then packPicked fl false (f % 3) x.2 else (0x7F800000, flushFlag x.2))
      else packPicked fl false (pickCode f (enclExp2 n m e) 2 none) x.2

/-- FLOG2: log2 A, within 2 ulp for A in [0.5, 2], otherwise within 2^−22. -/
def f32Log2 (fl : Bool) (f : Nat) (a : Word) : FResult :=
  let x := dec32 fl a
  match x.1 with
  | .nan => (canonNaN, 0)
  | .inf n => if n then (canonNaN, 0) else (0x7F800000, 0)
  | .num n m e =>
    if m = 0 then (0xFF800000, flushFlag x.2)
    else if n then (canonNaN, 0)
    else
      let r := enclLog2 m e
      let near := decide (0x3F000000 ≤ a.toNat) && decide (a.toNat ≤ 0x40000000)
      if r.2.hi = 0 then (0, flushFlag x.2)
      else packPicked fl r.1 (pickCode f r.2 2 (if near then none else some (-22))) x.2

/-! ## Packed words (R71) -/

/-- Element `k` of a packed word, unused bits read as zero (R71). -/
def getElem_ (t : ElTy) (w : Word) (k : Nat) : Nat := (w.toNat >>> (t.width * k)) % 2 ^ t.width

/-- Insert element `k` and leave every other bit unchanged (R71). -/
def setElem_ (t : ElTy) (w : Word) (k : Nat) (c : Nat) : Word :=
  let m : Word := BitVec.ofNat 32 ((2 ^ t.width - 1) * 2 ^ (t.width * k))
  (w &&& ~~~m) ||| (BitVec.ofNat 32 ((c % 2 ^ t.width) * 2 ^ (t.width * k)) &&& m)

/-- Pack a list of codes into words, unused bits written zero (R71). -/
def packWords (t : ElTy) (codes : List Nat) : List Word :=
  let n := (codes.length + t.perWord - 1) / t.perWord
  (List.range n).map fun w =>
    (List.range t.perWord).foldl (fun acc k => setElem_ t acc k (codes.getD (w * t.perWord + k) 0)) 0

/-- The first `n` codes of a list of words. -/
def unpackWords (t : ElTy) (ws : List Word) (n : Nat) : List Nat :=
  (List.range n).map fun e => getElem_ t (ws.getD (e / t.perWord) 0) (e % t.perWord)

end Sys2Proof.Machine
end

