-- ==== Sys2Proof/Decode.lean ====
section
/-! DEFINITION. The fields of a Drarak word (R66), the instruction that a word names (R70), the word of the fields, and
decodeTableWord: the opcode table gives no row any bits, so no word of the table spells a command. -/

namespace Sys2Proof

/-- Bits [hi:lo] of an instruction word. -/
def fieldOf (w : DWord) (hi lo : Nat) : Nat := (w.toNat >>> lo) % 2 ^ (hi - lo + 1)

def fClass (w : DWord) : Nat := fieldOf w 63 60
def fOp (w : DWord) : Nat := fieldOf w 59 54
def fPgn (w : DWord) : Bool := w.getLsbD 53
def fPg (w : DWord) : Nat := fieldOf w 52 50
def fType (w : DWord) : Nat := fieldOf w 49 46
def fD (w : DWord) : Nat := fieldOf w 45 40
def fA (w : DWord) : Nat := fieldOf w 39 34
def fFmt (w : DWord) : Bool := w.getLsbD 33
def fAs (w : DWord) : Bool := w.getLsbD 32
def fImm (w : DWord) : Word := w.extractLsb' 0 32

/-! Form R; B and C also stand in forms M and A. -/
def fB (w : DWord) : Nat := fieldOf w 31 26
def fC (w : DWord) : Nat := fieldOf w 25 20
def fBs (w : DWord) : Bool := w.getLsbD 19
def fCs (w : DWord) : Bool := w.getLsbD 18
def fX (w : DWord) : Nat := fieldOf w 17 0

/-! Form M. -/
def mBv (w : DWord) : Bool := w.getLsbD 25
def mBu (w : DWord) : Bool := w.getLsbD 24
def mSz (w : DWord) : Nat := fieldOf w 23 21
def mSx (w : DWord) : Bool := w.getLsbD 20
def mCp (w : DWord) : Nat := fieldOf w 19 18
def mScale (w : DWord) : Nat := fieldOf w 17 16
def mOffs (w : DWord) : DWord := (w.extractLsb' 0 16).signExtend 64

/-! Form A. -/
def aBv (w : DWord) : Bool := w.getLsbD 19
def aBu (w : DWord) : Bool := w.getLsbD 18
def aSz8 (w : DWord) : Bool := w.getLsbD 17
def aOpx (w : DWord) : Nat := fieldOf w 16 13
def aOffs (w : DWord) : DWord := (w.extractLsb' 0 13).signExtend 64

/-! Form BR: instruction counts relative to the branch (R73). -/
def brTarget (w : DWord) : DWord := (w.extractLsb' 16 16).signExtend 64 * 8
def brJoin (w : DWord) : DWord := (w.extractLsb' 0 16).signExtend 64 * 8

/-- The row of the opcode table that a word names by its CLASS and OP (R70 and the class tables). A CLASS
or OP that the chapter does not define raises ILLEGAL_INSTRUCTION (R67), as the reserved word does. -/
def decodeDrarak (g : GRef) (w : DWord) : Instr :=
  match fClass w, fOp w with
  | 0, 1 => .nop g w
  | 0, 2 => .bra g w
  | 0, 3 => .brx g w
  | 0, 4 => .jmpl g w
  | 0, 5 => .jmpr g w
  | 0, 6 => .exit g w
  | 0, 7 => .trap g w
  | 1, 0 => .mov g w
  | 2, 0 => .mov g w
  | 1, 1 => .add g w
  | 2, 1 => .add g w
  | 1, 2 => .sub g w
  | 2, 2 => .sub g w
  | 1, 3 => .mul g w
  | 2, 3 => .mul g w
  | 1, 4 => .mulhi g w
  | 2, 4 => .mulhi g w
  | 1, 5 => .mad g w
  | 2, 5 => .mad g w
  | 1, 6 => .min g w
  | 2, 6 => .min g w
  | 1, 7 => .max g w
  | 2, 7 => .max g w
  | 1, 8 => .and g w
  | 2, 8 => .and g w
  | 1, 9 => .or g w
  | 2, 9 => .or g w
  | 1, 10 => .xor g w
  | 2, 10 => .xor g w
  | 1, 11 => .shl g w
  | 2, 11 => .shl g w
  | 1, 12 => .shr g w
  | 2, 12 => .shr g w
  | 1, 13 => .sar g w
  | 2, 13 => .sar g w
  | 1, 14 => .sel g w
  | 2, 14 => .sel g w
  | 1, 15 => .popc g w
  | 2, 15 => .popc g w
  | 1, 16 => .clz g w
  | 2, 16 => .clz g w
  | 1, 32 => .fadd g w
  | 3, 1 => .fadd g w
  | 3, 2 => .fsub g w
  | 1, 33 => .fmul g w
  | 3, 3 => .fmul g w
  | 1, 34 => .ffma g w
  | 3, 4 => .ffma g w
  | 3, 5 => .fmin g w
  | 3, 6 => .fmax g w
  | 3, 7 => .frcp g w
  | 3, 8 => .frsq g w
  | 3, 9 => .fsqrt g w
  | 3, 10 => .fexp2 g w
  | 3, 11 => .flog2 g w
  | 3, 12 => .hzadd g w
  | 4, 0 => .cvt g w
  | 5, 0 => .cmp g w
  | 5, 1 => .plop g w
  | 5, 2 => .ptos g w
  | 5, 3 => .stop g w
  | 5, 4 => .pcnt g w
  | 5, 5 => .shfl g w
  | 5, 6 => .rdlane g w
  | 6, 0 => .ld g w
  | 6, 1 => .st g w
  | 6, 2 => .pref g w
  | 7, 0 => .ldl g w
  | 7, 1 => .stl g w
  | 8, 0 => .atom g w
  | 8, 1 => .red g w
  | 9, 0 => .ldfe g w
  | 9, 1 => .stfe g w
  | 9, 2 => .waitfe g w
  | 10, 0 => .syncSet g w
  | 10, 1 => .syncClear g w
  | 10, 2 => .syncWaitSet g w
  | 10, 3 => .syncWaitClear g w
  | 10, 4 => .syncPut g w
  | 10, 5 => .syncTake g w
  | 10, 6 => .syncTest g w
  | 10, 7 => .syncAdd g w
  | 10, 8 => .signal g w
  | 10, 9 => .waitsig g w
  | 11, 0 => .qload g w
  | 11, 1 => .qswap g w
  | 11, 2 => .qstream g w
  | 11, 3 => .qdrain g w
  | 11, 4 => .qzero g w
  | 12, 0 => .fence g w
  | 12, 1 => .complete g w
  | 12, 2 => .barGroup g w
  | 12, 3 => .barBlock g w
  | 12, 4 => .waithint g w
  | 13, 0 => .getsr g w
  | 13, 1 => .getsr64 g w 0
  | 13, 2 => .clrflags g w
  | 13, 3 => .gettid g w
  | 14, 0 => .moveq g w
  | _, _ => .illegal g w

/-! ## The words of the fields (R66) -/

/-- Bits [63:34] and [32], which every form shares. -/
structure Head where
  cls : BitVec 4
  op : BitVec 6
  pgn : BitVec 1
  pg : BitVec 3
  type : BitVec 4
  d : BitVec 6
  a : BitVec 6
  as_ : BitVec 1
  deriving DecidableEq, Repr

/-- Bits [31:0] in the five forms. -/
inductive Tail where
  | formR (b c : BitVec 6) (bs cs : BitVec 1) (x : BitVec 18)
  | formI (imm : BitVec 32)
  | formM (b : BitVec 6) (bv bu : BitVec 1) (sz : BitVec 3) (sx : BitVec 1) (cp scale : BitVec 2) (offs : BitVec 16)
  | formA (b c : BitVec 6) (bv bu sz8 : BitVec 1) (opx : BitVec 4) (offs : BitVec 13)
  | formBR (target join : BitVec 16)
  deriving DecidableEq, Repr

/-- The low half of a form. -/
def Tail.bits : Tail → BitVec 32
  | .formR b c bs cs x => b ++ c ++ bs ++ cs ++ x
  | .formI imm => imm
  | .formM b bv bu sz sx cp scale offs => b ++ bv ++ bu ++ sz ++ sx ++ cp ++ scale ++ offs
  | .formA b c bv bu sz8 opx offs => b ++ c ++ bv ++ bu ++ sz8 ++ opx ++ offs
  | .formBR target join => target ++ join

/-- FMT: form I alone has 1. -/
def Tail.fmt : Tail → BitVec 1
  | .formI _ => 1
  | _ => 0

/-- The word of the fields. -/
def encodeDrarak (h : Head) (t : Tail) : DWord := h.cls ++ h.op ++ h.pgn ++ h.pg ++ h.type ++ h.d ++ h.a ++ t.fmt ++ h.as_ ++ t.bits

/-- The fields of a word that every form shares. -/
def headOf (w : DWord) : Head :=
  { cls := w.extractLsb' 60 4, op := w.extractLsb' 54 6, pgn := w.extractLsb' 53 1, pg := w.extractLsb' 50 3, type := w.extractLsb' 46 4
    d := w.extractLsb' 40 6, a := w.extractLsb' 34 6, as_ := w.extractLsb' 32 1 }

/-- The command that a word of the opcode table spells. The table gives no row any bits, so none. -/
def decodeTableWord (_nbits _w : Nat) : Option Instr := none

end Sys2Proof
end

