-- ==== Sys2Proof/Machine/Ops.lean ====
section
/-! DEFINITION. The named operations over the state: access to cores, groups, channels, contexts and
functions, free values, arrival stamps, and the address functions of R210 and R235. -/

namespace Sys2Proof.Machine

/-- What a command answers. -/
abbrev Out := Host.Outcome State Fault Refusal

/-- Answer `s` when the step's condition holds; otherwise the step cannot come about. -/
def enabled (b : Bool) (why : String) (s : Out) : Out := if b then s else .refused (.notEnabled why)

/-- Go on with a next state. -/
def thenDo (o : Out) (f : State → Out) : Out :=
  match o with
  | .next s => f s
  | .fault r => .fault r
  | .refused r => .refused r

/-- `n` events at a time of the reference counter, beside the earlier ones of the last 2^39 ticks; 16 of them are kept, which is as many
as any rule counts (R58, R246, R343). -/
def noteEvents (now : DWord) (earlier : List DWord) (n : Nat) : List DWord :=
  let recent := (earlier ++ List.replicate n now).filter fun t => decide ((now - t).toNat < 2 ^ 39)
  recent.drop (recent.length - 16)

/-! ## Names (R3) -/

/-- The presented core identifier (R3). -/
def coreId (c : CoreRef) : Nat := 32768 * c.ch.val + 256 * c.cl.val + c.core.val

/-- The flat cluster number. -/
def clusterId (ch : Fin 32) (cl : Fin 128) : Nat := 128 * ch.val + cl.val

/-- The cluster of a core identifier. -/
def clusterOfCore (k : Nat) : Nat := k / 256

/-- The channel of a core identifier. -/
def channelOfCore (k : Nat) : Nat := k / 32768

/-- Bits [27:4] of a thread identifier (R3): the identity of a group. -/
def groupIdent (core : Nat) (slot : Nat) : Nat := 16 * core + slot

/-! ## Access -/

def State.core (s : State) (k : Nat) : Core := tget Core.idle s.cores k
def State.setCore (s : State) (k : Nat) (c : Core) : State := { s with cores := tset Core.idle s.cores k c }
def State.modCore (s : State) (k : Nat) (f : Core → Core) : State := s.setCore k (f (s.core k))

def State.cluster (s : State) (k : Nat) : Cluster := tget Cluster.idle s.clusters k
def State.setCluster (s : State) (k : Nat) (c : Cluster) : State :=
  { s with clusters := tset Cluster.idle s.clusters k c }
def State.modCluster (s : State) (k : Nat) (f : Cluster → Cluster) : State := s.setCluster k (f (s.cluster k))

def State.chan (s : State) (k : Nat) : Channel := tget Channel.ready s.chans k
def State.setChan (s : State) (k : Nat) (c : Channel) : State :=
  { s with chans := tset Channel.ready s.chans k c }
def State.modChan (s : State) (k : Nat) (f : Channel → Channel) : State := s.setChan k (f (s.chan k))

def State.fnOf (s : State) (k : Nat) : Func := tget Func.reset s.fns k
def State.setFn (s : State) (k : Nat) (c : Func) : State := { s with fns := tset Func.reset s.fns k c }
def State.modFn (s : State) (k : Nat) (f : Func → Func) : State := s.setFn k (f (s.fnOf k))

def State.ctx (s : State) (k : Nat) : Context := tget Context.absent s.ctxs k
def State.setCtx (s : State) (k : Nat) (c : Context) : State :=
  { s with ctxs := tset Context.absent s.ctxs k c }
def State.modCtx (s : State) (k : Nat) (f : Context → Context) : State := s.setCtx k (f (s.ctx k))

def State.launchOf (s : State) (k : Nat) : Launch := tget Launch.none s.launches k
def State.setLaunch (s : State) (k : Nat) (c : Launch) : State :=
  { s with launches := tset Launch.none s.launches k c }
def State.modLaunch (s : State) (k : Nat) (f : Launch → Launch) : State := s.setLaunch k (f (s.launchOf k))

def State.obj (s : State) (k : Nat) : SyncObj := tget SyncObj.free s.objs k
def State.setObj (s : State) (k : Nat) (o : SyncObj) : State := { s with objs := tset SyncObj.free s.objs k o }
def State.modObj (s : State) (k : Nat) (f : SyncObj → SyncObj) : State := s.setObj k (f (s.obj k))

def State.slice (s : State) (l : LineAddr) : SliceLine := tget SliceLine.absent s.lines l.toNat
def State.setSlice (s : State) (l : LineAddr) (x : SliceLine) : State :=
  { s with lines := tset SliceLine.absent s.lines l.toNat x }
def State.modSlice (s : State) (l : LineAddr) (f : SliceLine → SliceLine) : State := s.setSlice l (f (s.slice l))

def State.setHub (s : State) (f : Hub → Hub) : State := { s with hub := f s.hub }

def Core.group (c : Core) (i : Nat) : Group := tget Group.absent c.groups i
def Core.setGroup (c : Core) (i : Nat) (g : Group) : Core := { c with groups := tset Group.absent c.groups i g }
def Core.block (c : Core) (i : Nat) : Block := tget Block.absent c.blocks i
def Core.setBlock (c : Core) (i : Nat) (b : Block) : Core := { c with blocks := tset Block.absent c.blocks i b }

def State.group (s : State) (g : GRef) : Group := (s.core (coreId g.core)).group g.slot.val
def State.setGroup (s : State) (g : GRef) (x : Group) : State :=
  s.modCore (coreId g.core) fun c => c.setGroup g.slot.val x
def State.modGroup (s : State) (g : GRef) (f : Group → Group) : State := s.setGroup g (f (s.group g))
/-- A group by the flat number of its core. -/
def State.groupAt (s : State) (core : Nat) (slot : Nat) : Group := (s.core core).group slot
def State.modGroupAt (s : State) (core : Nat) (slot : Nat) (f : Group → Group) : State :=
  s.modCore core fun c => c.setGroup slot (f (c.group slot))
/-- The block that holds a group. -/
def State.blockOf (s : State) (g : GRef) : Block :=
  (s.core (coreId g.core)).block (s.group g).block.val
def State.modBlockAt (s : State) (core : Nat) (blk : Nat) (f : Block → Block) : State :=
  s.modCore core fun c => c.setBlock blk (f (c.block blk))

/-- The state without the queue's front: what `exec` acts on. -/
def State.withPending (s : State) (q : List Instr) : State := { s with pending := q }

/-- A fresh free value (notes/assumptions/2.md). -/
def State.takeFree (s : State) : DWord × State := (Config.free s.freeCount, { s with freeCount := s.freeCount + 1 })

/-- A fresh arrival stamp. -/
def State.stamp (s : State) : Nat × State := (s.tickets, { s with tickets := s.tickets + 1 })

/-- The class that is served next: C0 first; among the others the weights of R338 share, and which comes next is a free
choice (notes/assumptions/19.md). -/
def State.pickClass (s : State) (ws : List (Fin 4)) : Fin 4 × State :=
  if (0 : Fin 4) ∈ ws then (0, s)
  else
    let f := s.takeFree
    let cs := ws.eraseDups
    (cs.getD (f.1.toNat % Nat.max 1 cs.length) 3, f.2)

/-- Send a coherence message. -/
def State.send (s : State) (m : Msg) : State := { s with msgs := s.msgs ++ [m] }

/-- Take a message that travels on this device out of the messages in flight. A message from another
node, or to one, comes in over Leat and is in no list here. -/
def State.takeMsg (s : State) (m : Msg) : Option State :=
  match m.src with
  | .node _ => some { s with msgs := s.msgs.erase m }
  | _ => if m ∈ s.msgs then some { s with msgs := s.msgs.erase m } else none

/-- A coherence message that no rule sends (marked Not sent in R217). -/
def protocolFault : Out := .fault .protocol

/-- Receive a message and act on it, or refuse when no such message is in flight. -/
def receive (m : Msg) (s : State) (f : State → Out) : Out :=
  match s.takeMsg m with
  | some s' => f s'
  | none => .refused (.notEnabled "no such message is in flight")

/-! ## Addresses (R210, R235, R253) -/

/-- xor of `w`-bit chunks, from bit 0 up (R210). -/
def foldChunks (w : Nat) : Nat → Nat → Nat
  | 0, _ => 0
  | fuel + 1, x => if x = 0 then 0 else (x % 2 ^ w) ^^^ foldChunks w fuel (x >>> w)

/-- fold() of R210; 64 chunks cover every 64-bit value. -/
def fold (x w : Nat) : Nat := foldChunks w 64 x

/-- The node of a line, PA[56:48]. -/
def lineNode (l : LineAddr) : Nat := l.toNat >>> 41
/-- The tracking channel of a line, PA[47:43] (R210). -/
def lineChan (l : LineAddr) : Nat := (l.toNat >>> 36) % 32
/-- The channel offset of a line, in lines (R235). -/
def lineOff (l : LineAddr) : Nat := l.toNat % 2 ^ 36
/-- The tracking slice (R210). -/
def sliceOf (l : LineAddr) : Nat := fold (l.toNat % 2 ^ 36) 5
/-- The set of the tracking slice (R210). -/
def sliceSet (l : LineAddr) : Nat :=
  (fold ((l.toNat >>> 5) % 2 ^ 31) 11 ^^^ ((l.toNat >>> 41) % 512)) % 2048
/-- The set in a cluster cache (R210). -/
def clusterSet (l : LineAddr) : Nat := fold l.toNat 9
/-- The line of a physical address. -/
def lineOfPa (pa : Nat) : LineAddr := BitVec.ofNat 50 (pa >>> 7)
/-- The physical address of a line's first byte. -/
def paOfLine (l : LineAddr) : Nat := l.toNat * 128
/-- The native pseudo-channel of a channel offset in lines (R235). -/
def nativePc (off : Nat) : Nat := (off % 64) ^^^ fold (off >>> 6) 6
/-- The native slot (R235). -/
def nativeSlot (off : Nat) : Nat := off >>> 6

/-- The node number in force is this device's (R381). -/
def State.isLocal (s : State) (l : LineAddr) : Bool := decide (lineNode l = s.hub.node.val)

/-- The pseudo-channels mapped out, MAPPED_OUT (R236). -/
def Channel.mappedOut (c : Channel) : Nat := c.mapOrder.length
/-- MEM_MAP: bit i is 1 when pseudo-channel i is mapped out. -/
def Channel.memMap (c : Channel) : DWord := maskOf fun i => c.mapOrder.any fun d => decide (d.val = i)
/-- The presented capacity in GiB (R236). -/
def Channel.capacityGiB (c : Channel) : Nat := 64 - c.mappedOut
/-- The presented capacity in bytes; a retired channel presents none (R447). -/
def Channel.capacity (c : Channel) : Nat := if c.state = 4 then 0 else c.capacityGiB * 2 ^ 30

/-- The line is inside the presented memory of its channel (R236). -/
def State.inMemory (s : State) (l : LineAddr) : Bool :=
  decide (lineOff l * 128 < (s.chan (lineChan l)).capacity)

/-- Channel in hold (R398): the coolant stop, undervoltage, PACE_TARGET 0, its own trip. -/
def State.inHold (s : State) (ch : Nat) : Bool :=
  s.hub.pin || s.hub.coolant || s.hub.undervolt || decide (s.hub.inForce.paceTarget = 0) || (s.chan ch).tripped
    || (s.chan ch).rest

/-- Cores of the channel may issue: it is up, not stopped by R17 or R26, and not in hold or rest. -/
def State.issuing (s : State) (ch : Nat) : Bool :=
  s.hub.powered && (decide ((s.chan ch).state = 2) || decide ((s.chan ch).state = 3))
    && !(s.chan ch).issueStopped && !s.inHold ch

end Sys2Proof.Machine
end

