-- ==== Sys2Proof/Machine/Flags.lean ====
section
/-! DEFINITION. FLAGS of a group, the sticky flags of a context (R85, R86, R137), and the health-monitor
counts of a core (R146, R147). -/

namespace Sys2Proof.Machine

/-- Set FLAGS bits of a group (R85). -/
def Group.orFlags (g : Group) (f : BitVec 3) : Group := { g with flags := g.flags ||| f }

/-- Clear FLAGS bits (CLRFLAGS, R85). -/
def Group.clearFlags (g : Group) (f : BitVec 3) : Group := { g with flags := g.flags &&& ~~~f }

/-- OR flags into a context's sticky flags (R86, R104, R137). -/
def State.orSticky (s : State) (ctx : Nat) (f : BitVec 3) : State :=
  if f = 0 then s else s.modCtx ctx fun c => { c with sticky := c.sticky ||| f }

/-- Flags raised by work of a group: to its FLAGS while it is live, otherwise to the context (R104). -/
def State.flagGroup (s : State) (core slot ctx : Nat) (f : BitVec 3) : State :=
  if f = 0 then s
  else if (s.groupAt core slot).live then s.modGroupAt core slot fun g => g.orFlags f
  else s.orSticky ctx f

/-- Truncate a magnitude to binary32 for AMAX and AMIN_NZ (R147). Above the largest finite value it is
that value, as truncation toward zero gives. -/
def magBits (x : Exact) : Option Word :=
  match x with
  | .num _ m e => some (BitVec.ofNat 32 (Nat.min (truncMag 24 (-149) m e) 0x7F7FFFFF))
  | _ => none

/-- Count one element (R146, R147): the source's exact value, whether the result is zero, non-finite or
saturated. AMIN_NZ takes a magnitude that is finite and non-zero. -/
def MonCounts.add (c : MonCounts) (src : Exact) (zero nonfinite saturated : Bool) : MonCounts :=
  let srcNz := match src with | .num _ m _ => decide (m ≠ 0) | _ => false
  let b (x : Bool) : Nat := if x then 1 else 0
  { elements := c.elements + 1
    zeros := c.zeros + b zero
    underflowed := c.underflowed + b (zero && srcNz)
    saturated := c.saturated + b saturated
    nonfinite := c.nonfinite + b nonfinite
    amax := match magBits src with
      | some w => if c.amax.toNat < w.toNat then w else c.amax
      | none => c.amax
    aminNz := match magBits src with
      | some w => if srcNz && decide (w.toNat < c.aminNz.toNat) then w else c.aminNz
      | none => c.aminNz }

end Sys2Proof.Machine
end

