-- ==== Sys2Proof/Machine/Operands.lean ====
section
/-! DEFINITION. The register file of a group (R63 to R65), the operands of an instruction word (R66, R452)
and the words that an instruction consumes (R90, R451). -/

namespace Sys2Proof.Machine

/-! ## Registers -/

/-- A word of vector register `r` in a lane. -/
def Group.vword (g : Group) (r lane : Nat) : RegWord := tget RegWord.zero g.v (16 * r + lane)
/-- A scalar register. -/
def Group.sword (g : Group) (r : Nat) : RegWord := tget RegWord.zero g.s r
/-- A predicate. -/
def Group.pmask (g : Group) (p : Nat) : Mask := tget 0 g.p p

def Group.setV (g : Group) (r lane : Nat) (x : RegWord) : Group :=
  { g with v := tset RegWord.zero g.v (16 * r + lane) x }
def Group.setS (g : Group) (r : Nat) (x : RegWord) : Group := { g with s := tset RegWord.zero g.s r x }
def Group.setP (g : Group) (p : Nat) (x : Mask) : Group := { g with p := tset 0 g.p p x }

/-- Write a vector register in the lanes of a mask; the other lanes keep their words and tags (R68). -/
def Group.setLanes (g : Group) (r : Nat) (m : Mask) (f : Nat → RegWord) : Group :=
  (lanesOf m).foldl (fun acc i => acc.setV r i (f i)) g

/-- An ordinary write clears the poison tag (R65). -/
def clean (w : Word) : RegWord := ⟨w, false⟩

/-- The low and high words of a 64-bit value (R64). -/
def loWord (x : DWord) : Word := x.extractLsb' 0 32
def hiWord (x : DWord) : Word := x.extractLsb' 32 32

/-- Write a scalar register, or an even pair (R64). -/
def Group.putS (g : Group) (r : Nat) (wide : Bool) (x : DWord) : Group :=
  let g' := g.setS r (clean (loWord x))
  if wide then g'.setS (r + 1) (clean (hiWord x)) else g'

/-- Write a vector register or pair in the lanes of a mask. -/
def Group.putV (g : Group) (r : Nat) (wide : Bool) (m : Mask) (f : Nat → DWord) : Group :=
  let g' := g.setLanes r m fun i => clean (loWord (f i))
  if wide then g'.setLanes (r + 1) m fun i => clean (hiWord (f i)) else g'

/-! ## Operands -/

/-- A source operand: `n` consecutive register words, or an immediate. -/
inductive Opnd where
  | reg (scalar : Bool) (r : Nat) (n : Nat)
  | imm (v : DWord)
  deriving DecidableEq, Repr

/-- The registers exist for the group, and a pair or quad is aligned (R64, R67). -/
def regOk (regs : Nat) (scalar : Bool) (r n : Nat) : Bool :=
  decide (r % n = 0) && decide (r + n ≤ (if scalar then 16 else regs))

def Opnd.ok (regs : Nat) : Opnd → Bool
  | .reg sc r n => regOk regs sc r n
  | .imm _ => true

/-- Word `k` of an operand in a lane. -/
def Group.opWord (g : Group) (o : Opnd) (lane k : Nat) : Word :=
  match o with
  | .reg true r _ => (g.sword (r + k)).val
  | .reg false r _ => (g.vword (r + k) lane).val
  | .imm v => if k = 0 then loWord v else hiWord v

/-- The value of an operand of one or two words in a lane; a one-word value is zero-extended. -/
def Group.opVal (g : Group) (o : Opnd) (lane : Nat) : DWord :=
  match o with
  | .reg _ _ n => if n = 1 then (g.opWord o lane 0).setWidth 64 else (g.opWord o lane 1 ++ g.opWord o lane 0)
  | .imm v => v

/-- The lanes of `m` whose word of register `r` is poisoned; for a scalar register all lanes. Where no lane
executes, no operand is read (notes/assumptions/11.md). -/
def Group.poisonLanes (g : Group) (sc : Bool) (r : Nat) (m : Mask) : Mask :=
  if sc then (if m ≠ 0 && (g.sword r).poison then 0xFFFF else 0)
  else m &&& maskOf fun i => (g.vword r i).poison

/-- The first poisoned register of an operand, as the detail of R451 names it. -/
def Group.opPoison (g : Group) (o : Opnd) (m : Mask) : Option DWord :=
  match o with
  | .imm _ => none
  | .reg sc r n =>
    (List.range n).findSome? fun k =>
      let l := g.poisonLanes sc (r + k) m
      if l = 0 then none
      else some (((BitVec.ofNat 64 ((r + k) + if sc then 64 else 0)) <<< 16) ||| l.setWidth 64)

/-- The first poisoned operand in the order given: A, B, C, then the data source D (R451). -/
def Group.firstPoison (g : Group) (os : List (Opnd × Mask)) : Option DWord :=
  os.findSome? fun o => g.opPoison o.1 o.2

/-! ## The forms R and I of classes 0x1, 0x2, 0x3 and 0x5 (R66, R452) -/

/-- The width in words of a type of R71. -/
def typeWords (t : Nat) : Nat := if t = 2 || t = 3 || t = 13 then 2 else 1

/-- Operand A; in class 0x1 the register field names a scalar register whatever AS. -/
def opndA (w : DWord) (n : Nat) : Opnd := .reg (fAs w || decide (fClass w = 1)) (fA w) n

/-- The immediate of form I as a value of the type: sign-extended for i64, else zero-extended (R452). -/
def immOf (w : DWord) : DWord := if fType w = 3 then (fImm w).signExtend 64 else (fImm w).setWidth 64

/-- Operand B: a register, or IMM in form I. -/
def opndB (w : DWord) (n : Nat) : Opnd :=
  if fFmt w then .imm (immOf w) else .reg (fBs w || decide (fClass w = 1)) (fB w) n

/-- Operand C; an operation with three sources uses D as C in form I (R66). -/
def opndC (w : DWord) (n : Nat) : Opnd :=
  if fFmt w then .reg (decide (fClass w = 1)) (fD w) n
  else .reg (fCs w || decide (fClass w = 1)) (fC w) n

/-- X, which reads as 0 in form I (R452). -/
def xOf (w : DWord) : Nat := if fFmt w then 0 else fX w

/-- The field X of form R is zero outside the bits of `allowed`. -/
def xOnly (w : DWord) (allowed : Nat) : Bool := decide (fX w &&& (0x3FFFF ^^^ allowed) = 0)

/-- PG = 0 with PGN = 1 is "always"; otherwise p(PG), inverted by PGN (R66, R68). -/
def guardMask (g : Group) (w : DWord) : Mask :=
  if fPg w = 0 && fPgn w then 0xFFFF
  else if fPgn w then ~~~ (g.pmask (fPg w)) else g.pmask (fPg w)

/-- The execution mask (R68). -/
def execMask (g : Group) (w : DWord) : Mask := g.mask &&& guardMask g w

/-- The lowest lane of a mask; 0 for an empty mask. -/
def lowLane (m : Mask) : Nat := (lanesOf m).headD 0

end Sys2Proof.Machine
end

