-- ==== Sys2Proof/Machine/Counters.lean ====
section
/-! DEFINITION. Programmable counters (R419 to R422): counting the occurrence events of R423; the occupancy
events are sampled as time passes (Ticks.lean). -/

namespace Sys2Proof.Machine

/-- Fields of a selector (R420). -/
def selOn (sel : Word) (code : Nat) : Bool := sel.getLsbD 31 && decide ((sel.toNat % 256) = code)
def selFilt (sel : Word) : Bool := sel.getLsbD 19
def selValue (sel : Word) : Nat := (sel.toNat >>> 20) % 2048

/-- Counters of a channel stand still while it is frozen (R425). -/
def Channel.counting (c : Channel) : Bool := !(c.freeze || c.frozen)

/-- A wrap sets OVF and, with FREEZE_ON_OVF, FREEZE (R419, R425). -/
def Channel.wrapped (c : Channel) (bit : Nat) : Channel :=
  { c with
    ovf := c.ovf ||| BitVec.ofNat 20 (2 ^ bit)
    freeze := c.freeze || c.freezeOnOvf
    frozen := c.frozen || c.freezeOnOvf }

/-- Add to counter `n` of a table of 64-bit counters: the table and whether it wrapped. -/
def addCounter (t : Table DWord) (n amt : Nat) : Table DWord × Bool :=
  let v := (tget 0 t n).toNat + amt
  (tset 0 t n (BitVec.ofNat 64 v), decide (2 ^ 64 ≤ v))

/-- Count an occurrence event at a core, for context `ctx` (R421, R422). -/
def State.countCore (s : State) (k code amt ctx : Nat) : State :=
  let c := s.chan (channelOfCore k)
  if c.sels = [] || !c.counting then s
  else
    (List.range 8).foldl (fun acc n =>
      let sel := tget 0 c.sels n
      if selOn sel code && (!selFilt sel || decide (selValue sel = ctx)) then
        let r := addCounter (acc.core k).pmc n amt
        let acc := acc.modCore k fun x =>
          { x with pmc := r.1, ovf := if r.2 then x.ovf ||| BitVec.ofNat 8 (2 ^ n) else x.ovf }
        if r.2 then acc.modChan (channelOfCore k) fun x => x.wrapped n else acc
      else acc) s

/-- Count an occurrence event at a cluster for effective class `cls`. -/
def State.countCluster (s : State) (k code amt cls : Nat) : State :=
  let c := s.chan (k / 128)
  if c.sels = [] || !c.counting then s
  else
    (List.range 4).foldl (fun acc n =>
      let sel := tget 0 c.sels (8 + n)
      if selOn sel code && (!selFilt sel || decide (selValue sel % 4 = cls)) then
        let r := addCounter (acc.cluster k).pmc n amt
        let acc := acc.modCluster k fun x =>
          { x with pmc := r.1, ovf := if r.2 then x.ovf ||| BitVec.ofNat 4 (2 ^ n) else x.ovf }
        if r.2 then acc.modChan (k / 128) fun x => x.wrapped (8 + n) else acc
      else acc) s

/-- Count an occurrence event at a channel for effective class `cls`. -/
def State.countChan (s : State) (ch code amt cls : Nat) : State :=
  let c := s.chan ch
  if c.sels = [] || !c.counting then s
  else
    (List.range 8).foldl (fun acc n =>
      let sel := tget 0 c.sels (12 + n)
      if selOn sel code && (!selFilt sel || decide (selValue sel % 4 = cls)) then
        let r := addCounter (acc.chan ch).chPmc n amt
        let acc := acc.modChan ch fun x => { x with chPmc := r.1 }
        if r.2 then acc.modChan ch fun x => x.wrapped (12 + n) else acc
      else acc) s

/-- Time passes on a channel's reference counter (R22): by an amount that the spec leaves to the board, a
free value, never past the top, since the counter never wraps within the service life. -/
def State.elapse (s : State) (ch : Nat) : State :=
  let f := s.takeFree
  let c := f.2.chan ch
  if c.refRunning then f.2.modChan ch fun x => { x with refcnt := satAdd x.refcnt f.1.toNat } else f.2

/-- Place a latency in the channel's histograms of a source (R431). Latencies are measured in ticks, which
pass by free values here, so the latency placed is a free value. -/
def State.histogram (s : State) (ch source cls : Nat) : State :=
  let c := s.chan ch
  if c.hists = [] || !c.counting then s
  else
    let f := s.takeFree
    (List.range 4).foldl (fun acc n =>
      let h := tget Hist.off (acc.chan ch).hists n
      if h.sel.getLsbD 31 && decide (h.sel.toNat % 256 = source)
          && (!h.sel.getLsbD 19 || decide ((h.sel.toNat >>> 20) % 4 = cls)) then
        let sh := Nat.min ((h.sel.toNat >>> 8) % 32) 16
        let l := f.1.toNat >>> sh
        let bin := if l = 0 then 0 else Nat.min (Nat.log2 l + 1) 15
        let v := Nat.min (tget 0 h.bins bin + 1) 0xFFFFFFFF
        acc.modChan ch fun x => { x with hists := tset Hist.off x.hists n { h with bins := tset 0 h.bins bin v } }
      else acc) f.2

end Sys2Proof.Machine
end

