-- ==== Sys2Proof/Machine/Links.lean ====
section
/-! DEFINITION. Sending over Leat (R272, R273, R277, R280 to R289): messages and their VCs, the torus, the route table, credits,
the replay buffer, streams. -/

namespace Sys2Proof

/-! ## Message kinds (R280, R284) -/

def MsgKind.isReq : MsgKind → Bool
  | .readS | .readU | .own | .rdSnap | .wrMerge | .atomic | .feOp => true
  | _ => false

def MsgKind.isSnp : MsgKind → Bool
  | .snpFwd | .snpFwdU | .snpInv | .snpPeek | .snpRecall | .feWake => true
  | _ => false

/-- REQ, SNP and WB messages are sequenced in their stream (R285). -/
def MsgKind.sequenced (k : MsgKind) : Bool := k.isReq || k.isSnp || k = .wb

/-- The virtual channel of a coherence message (R280). -/
def Msg.vc (m : Msg) : Nat := 3 * m.cls.val + (if m.kind.isReq then 0 else if m.kind.isSnp then 1 else 2)

/-- LEN of a coherence message: the slots that follow its header (R284). -/
def Msg.len (m : Msg) : Nat :=
  match m.kind with
  | .wrMerge => 9
  | .atomic | .feOp => 1 + Nat.min 8 ((m.ops.length * 16 + 15) / 16)
  | .data | .wb => 8
  | .result => Nat.min 8 ((m.results.length * 8 + 15) / 16)
  | _ => 0

/-- A WB that answers a recall names the recall's TXN as any response does; the WB of an eviction answers nothing. -/
def Msg.answersRecall (m : Msg) : Bool := decide (m.kind = .wb) && decide (m.requester ≠ m.src)

/-- LEN of a management message (R284). -/
def Mgt.len : Mgt → Nat
  | .ident _ => 3
  | .paceReport .. | .streamRestart _ => 1
  | _ => 0

/-- The VC of a message: MGT is VC 12 (R280). -/
def StreamMsg.vc (x : StreamMsg) : Nat := match x.body with | .coherence m => m.vc | .management _ => 12

/-- LEN of a message's header (R283). -/
def StreamMsg.len (x : StreamMsg) : Nat := match x.body with | .coherence m => m.len | .management m => m.len

/-- Slots of a message: its header and LEN (R283). -/
def StreamMsg.slots (x : StreamMsg) : Nat := 1 + x.len

def StreamMsg.mgt (x : StreamMsg) : Bool := match x.body with | .coherence _ => false | .management _ => true
/-- IDENT goes to the far end of one link, in a CTRL flit. -/
def StreamMsg.ident (x : StreamMsg) : Bool := match x.body with | .management (.ident _) => true | _ => false
def StreamMsg.msg? (x : StreamMsg) : Option Msg := match x.body with | .coherence m => some m | .management _ => none
/-- The traffic class of a message; MGT has none. -/
def StreamMsg.cls (x : StreamMsg) : Fin 4 := match x.body with | .coherence m => m.cls | .management _ => 0

end Sys2Proof

namespace Sys2Proof.Machine

/-- The coherence messages that this model sends start from this one. -/
def Msg.blank (kind : MsgKind) (l : LineAddr) (src dst : Agent) : Msg :=
  { kind := kind, line := l, src := src, dst := dst, requester := src, tag := 0, txn := 0, data := 0, mask := 0,
    poison := 0, grant := .none, hasData := false, ownerNowShared := false, fe := 0, feMask := 0,
    stash := none, context := 0, cls := 3, flush := false, ops := [], results := [], flushed := false }

/-! ## The torus (R272, R273) -/

/-- The channel that an on-module port joins: X+, X−, Y+, Y−. -/
def neighbour (ch p : Nat) : Nat :=
  let r := ch / 8
  let k := ch % 8
  if p = 2 then 8 * r + (k + 1) % 8
  else if p = 3 then 8 * r + (k + 7) % 8
  else if p = 4 then 8 * ((r + 1) % 4) + k
  else if p = 5 then 8 * ((r + 3) % 4) + k
  else ch

/-- The port that an on-module port faces: 2 faces 3, and 4 faces 5. -/
def facing (p : Nat) : Nat := if p = 2 then 3 else if p = 3 then 2 else if p = 4 then 5 else if p = 5 then 4 else p

/-- The link of a port is a wraparound link: column 7 to column 0 or row 3 to row 0, in either direction. -/
def wraps (ch p : Nat) : Bool :=
  (decide (p = 2) && decide (ch % 8 = 7)) || (decide (p = 3) && decide (ch % 8 = 0))
    || (decide (p = 4) && decide (ch / 8 = 3)) || (decide (p = 5) && decide (ch / 8 = 0))

/-- Hops of the shorter direction on a ring of `n`. -/
def ringHops (n a b : Nat) : Nat := Nat.min ((n + b - a) % n) ((n + a - b) % n)

/-- On-module hops between two channels. -/
def torusHops (a b : Nat) : Nat := ringHops 8 (a % 8) (b % 8) + ringHops 4 (a / 8) (b / 8)

/-- The ports of one dimension towards a place on the ring: the shorter direction first, plus where both are equal; none where
the dimension has no distance left. -/
def ringPorts (n a b plus minus : Nat) : List Nat :=
  let d := (n + b - a) % n
  if d = 0 then [] else if 2 * d ≤ n then [plus, minus] else [minus, plus]

/-- The ports towards a channel, in the order in which R273 takes them: X in the shorter direction, X in the other, then Y. -/
def torusPorts (ch dst : Nat) : List Nat := ringPorts 8 (ch % 8) (dst % 8) 2 3 ++ ringPorts 4 (ch / 8) (dst / 8) 4 5

/-! ## Ports and routes -/

def Channel.port (c : Channel) (p : Nat) : Port := tget Port.down c.ports p
def Channel.setPort (c : Channel) (p : Nat) (x : Port) : Channel := { c with ports := tset Port.down c.ports p x }
def State.port (s : State) (ch p : Nat) : Port := (s.chan ch).port p
def State.setPort (s : State) (ch p : Nat) (x : Port) : State := s.modChan ch fun c => c.setPort p x
def State.modPort (s : State) (ch p : Nat) (f : Port → Port) : State := s.setPort ch p (f (s.port ch p))

/-- The port sends and receives flits. -/
def Port.live (x : Port) : Bool := x.state = .ident || x.state = .coherent || x.state = .quarantine

/-- The port carries the message: coherence messages on COHERENT ports, management also on QUARANTINE ports, IDENT on every port that
sends flits (R290, R293, R298). -/
def Port.carries (x : Port) (m : StreamMsg) : Bool :=
  decide (x.state = .coherent) || (m.mgt && decide (x.state = .quarantine)) || (m.ident && x.live)

/-- The egress pairs of a node's route entry, in entry order; a byte with V = 0 names none (R289). -/
def Dict.pairs (d : Dict) (n : Nat) : List (Nat × Nat) :=
  let w := tget 0 d.routes n
  ((List.range 4).map fun i => (w.extractLsb' (8 * i) 8 : Byte)).filterMap fun b =>
    if b.getLsbD 7 then some (b.toNat % 32, if b.getLsbD 5 then 1 else 0) else none

/-- The egress pair that a message for another node takes: its port carries it, fewest hops, then the lower entry index; never the
port by which the message came into this device (R289). -/
def State.egress (s : State) (ch : Nat) (x : StreamMsg) : Option (Nat × Nat) :=
  ((s.hub.dict.pairs x.dstNode.val).filter fun p => (s.port p.1 p.2).carries x && !decide (some p = x.entry)).foldl
    (fun best p => match best with
      | none => some p
      | some b => if torusHops ch p.1 < torusHops ch b.1 then some p else some b) none

/-- The on-module port that a message takes towards a channel; it never goes back by the port by which it came, since the next
channel would send it here again (R273; DEDUCED, notes/assumptions/80.md). -/
def State.torusPort (s : State) (ch dst : Nat) (x : StreamMsg) : Option Nat :=
  (torusPorts ch dst).find? fun p => (s.port ch p).carries x && !decide (x.cameBy = some p)

/-- The port by which a message leaves a channel (R273, R289). -/
def State.nextPort (s : State) (ch : Nat) (x : StreamMsg) : Option Nat :=
  if x.dstNode = s.hub.node then s.torusPort ch x.dstCh.val x
  else
    match s.egress ch x with
    | none => none
    | some (ech, p) => if ech = ch then some p else s.torusPort ch ech x

/-- Node `n` has a path: an egress pair whose port is COHERENT or RETRAIN (R296). -/
def State.hasPath (s : State) (n : Nat) : Bool :=
  (s.hub.dict.pairs n).any fun p => (s.port p.1 p.2).state = .coherent || (s.port p.1 p.2).state = .retrain

/-- A node other than this one stands in the coherent node table. -/
def State.coherentNodes (s : State) : List (Fin 512) :=
  (List.finRange 512).filter fun n => s.hub.dict.nodeTable.getLsbD n.val && !decide (n = s.hub.node)

/-- The replay buffer of a port (R278). -/
def replayRoom (p : Nat) : Nat := if p < 2 then 512 else 256

/-! ## Credits (R273, R281, R286) -/

/-- The slots that the receiver of a port grants on a VC at IDENT (R281). -/
def grantedSlots (p vc : Nat) : Nat := (if vc < 3 then 512 else 256) / (if p < 2 then 1 else 2)

/-- The credits that a far end grants at IDENT. -/
def grantedCredits (p : Nat) : Table Nat := (List.range 13).map fun v => (v, grantedSlots p v)

/-- Slots that the port's messages use in one half of a VC buffer at the far end (R273). -/
def Port.halfUse (x : Port) (vc : Nat) (upper : Bool) : Nat :=
  ((x.sent.filter fun e => decide (e.1 = vc) && decide (e.2.1 = upper)).map fun e => e.2.2).sum

/-- Credits of a VC come back: slots of the oldest messages are free at the far end, the order in which it frees them being the
order of arrival (notes/assumptions/80.md). -/
def freeSent : Nat → Nat → List (Nat × Bool × Nat) → List (Nat × Bool × Nat)
  | _, _, [] => []
  | vc, n, e :: t =>
    if n = 0 then e :: t
    else if e.1 ≠ vc then e :: freeSent vc n t
    else if n < e.2.2 then (e.1, e.2.1, e.2.2 - n) :: t
    else freeSent vc (n - e.2.2) t

/-- Credit returns of a received flit (R277, R281). -/
def Port.takeCredits (x : Port) (cs : List (Fin 16 × BitVec 12)) : Port :=
  cs.foldl (fun x r =>
    { x with credits := tset 0 x.credits r.1.val (tget 0 x.credits r.1.val + r.2.toNat), sent := freeSent r.1.val r.2.toNat x.sent }) x

/-- IN_USE of LT_STORE: the entries of a channel's response store in use (R286). -/
def Channel.storeUse (c : Channel) : Nat := (c.rxStreams.map fun r => r.2.responses.length).sum

/-- Fewer than 512 entries of the response store are free, so that no REQ credits return (R286). -/
def Channel.withholds (c : Channel) : Bool := decide (16384 < c.storeUse + 512)

/-- The up to four credit returns of a flit (R277): the slots freed, REQ credits held back when the store is nearly full. -/
def Port.creditsDue (x : Port) (withhold : Bool) : List (Fin 16 × BitVec 12) :=
  ((x.owed.filter fun e => decide (e.1 < 16) && !(withhold && decide (e.1 < 12) && decide (e.1 % 3 = 0))).take 4).map fun e =>
    ((BitVec.ofNat 4 e.1).toFin, BitVec.ofNat 12 (Nat.min e.2 4095))

/-- A message that leaves its channel frees its slots in the buffer of the port by which it came. -/
def State.freeBuffer (s : State) (ch : Nat) (x : StreamMsg) : State :=
  match x.cameBy with
  | some q => if x.holding then s.modPort ch q fun y => { y with owed := tmod 0 y.owed x.vc (· + x.slots) } else s
  | none => s

/-! ## Flits sent (R277, R278) -/

/-- A flit goes onto the wire. What the model keeps of the wire of an external port are the flits that no ACK covers and the last
IDLE flit, since its far end lies outside the device. -/
def Port.put (p : Nat) (x : Port) (f : Flit) : Port :=
  { x with wire := (if p < 2 then x.wire.filter fun y => decide (y.kind ≠ .idle) else x.wire) ++ [f] }

/-- An IDLE flit, not sequenced: it carries ACK and NAK. Credits ride only in sequenced flits, which are replayed until they
arrive, so that none is lost (DEDUCED, notes/assumptions/80.md). -/
def Port.idle (p : Nat) (x : Port) (nak : Bool) : Port :=
  x.put p { seq := 0, ack := x.rxAck, nak := nak, kind := .idle, credits := [], parts := [] }

/-- Send one sequenced flit; this model begins every message in a flit of its own (notes/assumptions/15.md). -/
def Port.emit (p : Nat) (withhold : Bool) (x : Port) (kind : FlitKind) (msgs : List StreamMsg) : Port :=
  let due := x.creditsDue withhold
  let f : Flit :=
    { seq := x.txSeq, ack := x.rxAck, nak := false, kind := kind, credits := due
      parts := msgs.map fun m => ⟨m, 0, m.slots⟩ }
  { (x.put p f) with
    txSeq := x.txSeq + 1, replay := x.replay ++ [f]
    owed := due.foldl (fun t e => tset 0 t e.1.val (tget 0 t e.1.val - e.2.toNat)) x.owed
    credits := msgs.foldl (fun t m => tset 0 t m.vc (tget 0 t m.vc - m.slots)) x.credits
    sent := if p < 2 then x.sent else x.sent ++ msgs.map fun m => (m.vc, m.upper, m.slots) }

/-- A flit whose SEQ is at or before another, within 2,048 (R278). -/
def atOrBefore (x y : BitVec 12) : Bool := decide ((y - x).toNat < 2048)

/-- An ACK frees the flits that it covers. -/
def Port.takeAck (p : Nat) (x : Port) (ack : BitVec 12) : Port :=
  { x with
    replay := x.replay.filter fun f => !atOrBefore f.seq ack
    wire := if p < 2 then x.wire.filter fun f => decide (f.kind = .idle) || !atOrBefore f.seq ack else x.wire }

/-- Every flit that is not acknowledged is sent again in SEQ order, with the ACK of now (R278). -/
def Port.resend (p : Nat) (x : Port) : Port := x.replay.foldl (fun x f => x.put p { f with ack := x.rxAck }) x

/-- The message as it travels on by port `p`: over a wraparound link it moves to the upper half (R273). -/
def leaveBy (ch p : Nat) (m : StreamMsg) : StreamMsg := { m with upper := m.upper || wraps ch p, holding := false }

/-- The port may take the message now: its state lets it, there is room in the replay buffer, and credits for every slot, in the
message's half of the buffer on an on-module port (R273, R278, R281). -/
def Port.mayTake (x : Port) (ch p : Nat) (m : StreamMsg) : Bool :=
  let u := m.upper || wraps ch p
  x.carries m && decide (x.replay.length < replayRoom p) && decide (m.slots ≤ tget 0 x.credits m.vc)
    && (decide (p < 2) || decide (x.halfUse m.vc u + m.slots ≤ grantedSlots p m.vc / 2))

/-- The queued messages that the port may take now. -/
def Port.ready (x : Port) (ch p : Nat) : List StreamMsg := x.queue.filter fun m => x.mayTake ch p m

/-- Of the ready messages of a class, the one that goes first: RSP before SNP before REQ, and within these in order (R282). -/
def firstOf (ms : List StreamMsg) (cls : Fin 4) : Option StreamMsg :=
  let own := ms.filter fun m => decide (m.cls = cls)
  let on (v : Nat) : Option StreamMsg := own.find? fun m => decide (m.vc % 3 = v)
  (on 2).orElse fun _ => (on 1).orElse fun _ => on 0

/-- The message that a port sends next: any MGT message, then by class, C0 first (R282). -/
def State.chooseMsg (s : State) (ms : List StreamMsg) : Option StreamMsg × State :=
  match ms.find? fun m => m.mgt with
  | some m => (some m, s)
  | none =>
    let c := s.pickClass (ms.map fun m => m.cls)
    (firstOf ms c.1, c.2)

/-- A queued message leaves by the port. -/
def State.sendOn (s : State) (ch p : Nat) (m : StreamMsg) : State :=
  let x := s.port ch p
  let y := Port.emit p (s.chan ch).withholds { x with queue := x.queue.erase m } (if m.ident then .ctrl else .data) [leaveBy ch p m]
  (s.setPort ch p y).freeBuffer ch m

/-- Send queued messages while the port takes any; with the number sent. -/
def State.pumpMsgs (ch p : Nat) : Nat → State → Nat → Nat × State
  | 0, s, n => (n, s)
  | k + 1, s, n =>
    let ms := (s.port ch p).ready ch p
    if ms = [] then (n, s)
    else
      let c := s.chooseMsg ms
      match c.1 with
      | none => (n, c.2)
      | some m => pumpMsgs ch p k (c.2.sendOn ch p m) (n + 1)

def State.pumpPort (s : State) (ch p : Nat) : State :=
  let r := State.pumpMsgs ch p (s.port ch p).queue.length s 0
  if r.1 = 0 then r.2 else r.2.countChan ch 0x08 r.1 3

/-- Send a message on from a channel, or let it wait there (R273, R289). -/
def State.transmit (s : State) (ch : Nat) (x : StreamMsg) : State :=
  match s.nextPort ch x with
  | none => s.modChan ch fun c => { c with held := c.held ++ [x] }
  | some p => (s.modPort ch p fun q => { q with queue := q.queue ++ [x] }).pumpPort ch p

/-! ## Streams (R285, R286) -/

/-- A message in its stream header. -/
def State.header (s : State) (ch : Nat) (n : Fin 512) (dch : Nat) (b : Body) (txn rel : BitVec 16) (sequenced : Bool) : StreamMsg :=
  { srcNode := s.hub.node, srcCh := (BitVec.ofNat 5 ch).toFin, dstNode := n, dstCh := (BitVec.ofNat 5 dch).toFin,
    txn := txn, rel := rel, inc := (s.chan ch).incarnation, sequenced := sequenced, body := b,
    upper := false, entry := none, cameBy := none, holding := false }

/-- A management message, in no stream; the hub keeps a record of what it has sent. -/
def State.mgtSend (s : State) (ch : Nat) (n : Fin 512) (dch : Nat) (b : Mgt) : State :=
  let x := s.header ch n dch (.management b) 0 0 false
  (s.setHub fun h => { h with nodeMsgs := h.nodeMsgs ++ [x] }).transmit ch x

/-- The lowest TXN not yet released (R285). -/
def TxStream.mark (t : TxStream) : BitVec 16 :=
  match t.unreleased with
  | [] => t.txn
  | x :: _ => x.txn

/-- How an outstanding message to a lost node completes: a request is lost; a snooped owner's copy is lost
with its node, and any other holder holds nothing (R178, R228). -/
def lostReply (m : Msg) : Msg :=
  let k : MsgKind := if m.kind.isReq then .lost
    else if m.kind = .wb then .wbAck
    else if m.kind = .snpInv ∨ m.kind = .feWake then .ack else .poisoned
  { Msg.blank k m.line m.dst m.src with tag := m.tag, txn := m.txn, requester := m.requester }

/-- The key of a stream between a channel of this device and one of a node (R285). -/
def streamKey (n : Fin 512) (ch : Nat) : Nat := 32 * n.val + ch

def Channel.tx (c : Channel) (key : Nat) : TxStream := tget TxStream.fresh c.txStreams key
def State.setTx (s : State) (ch key : Nat) (t : TxStream) : State :=
  s.modChan ch fun c => { c with txStreams := tset TxStream.fresh c.txStreams key t }

/-- A message takes the next TXN of its stream and is sent. -/
def State.sendStream (s : State) (ch : Nat) (n : Fin 512) (dch : Nat) (m : Msg) : State :=
  let key := streamKey n dch
  let st := (s.chan ch).tx key
  let st' : TxStream := { st with txn := st.txn + 1, unreleased := st.unreleased ++ [⟨st.txn, m, []⟩] }
  let s1 := s.setTx ch key st'
  s1.transmit ch (s1.header ch n dch (.coherence m) st.txn st'.mark true)

/-- Messages that waited for the stream are sent while fewer than 512 are unreleased. -/
def State.pumpStream (ch : Nat) (n : Fin 512) (dch : Nat) : Nat → State → State
  | 0, s => s
  | k + 1, s =>
    let st := (s.chan ch).tx (streamKey n dch)
    match st.waiting with
    | [] => s
    | m :: t =>
      if 512 ≤ st.unreleased.length then s
      else pumpStream ch n dch k ((s.setTx ch (streamKey n dch) { st with waiting := t }).sendStream ch n dch m)

/-- The response answers a message that this channel, or its slice, accepted: not the data that an owner sends directly to a
requester whose request another home accepted (R227, R286). -/
def State.recorded (s : State) (m : Msg) : Bool :=
  match m.src, m.dst with
  | _, .slice _ => true
  | .slice _, .node n => s.isLocal m.line || decide (lineNode m.line = n.val)
  | .slice _, _ => true
  | _, _ => false

/-- Send a message from a channel to a channel of a node: a REQ, SNP or WB takes the next TXN of its stream, and waits while 512
are unreleased (R285); a response names the TXN that it answers and is kept in the response store (R286). -/
def State.leatSend (s : State) (ch : Nat) (n : Fin 512) (dch : Nat) (m : Msg) : State :=
  if n ∈ s.hub.unreachable then
    if m.kind.sequenced && m.kind ≠ .feWake then s.send (lostReply m) else s
  else if m.kind.sequenced then
    let st := (s.chan ch).tx (streamKey n dch)
    if 512 ≤ st.unreleased.length then s.setTx ch (streamKey n dch) { st with waiting := st.waiting ++ [m] }
    else s.sendStream ch n dch m
  else
    let t : BitVec 16 := BitVec.ofNat 16 m.txn
    let s1 := if s.recorded m then
        s.modChan ch fun c =>
          { c with rxStreams := tmod RxStream.fresh c.rxStreams (streamKey n dch) fun r =>
            if t ∈ r.accepted then { r with responses := r.responses ++ [(t, m)] } else r }
      else s
    s1.transmit ch (s1.header ch n dch (.coherence m) t 0 false)

/-- The tracking slice of a line as an agent (R210). -/
def sliceAgent (l : LineAddr) : Agent := .slice (BitVec.ofNat 5 (lineChan l)).toFin

/-- The channel of this device at which an agent stands; what goes to another node passes the line's tracking channel. -/
def agentChan (l : LineAddr) : Agent → Nat
  | .cluster k => k.val / 128
  | .slice ch => ch.val
  | .core k => k.val / 32768
  | .engine k => k.val / 128
  | .node _ | .coreAt _ _ => lineChan l

/-- A response comes back for a TXN of ours: it completes the message, is one of two parts, or is not wanted (R284, R285). The
data of a remote owner that the home itself has asked for come beside its answer. -/
def Unreleased.take (u : Unreleased) (own : Fin 512) (m : Msg) : Option Bool :=
  let read := decide (u.msg.kind = .readS) || decide (u.msg.kind = .readU) || decide (u.msg.kind = .own)
  let fetch := (decide (u.msg.kind = .snpFwd) || decide (u.msg.kind = .snpFwdU)) && decide (u.msg.requester = .node own)
  if m.kind ∈ u.seen then none
  else if read then
    some (match m.kind with
      | .data => decide (m.grant ≠ .none) || decide (MsgKind.grant ∈ u.seen)
      | .grant => !m.hasData && decide (m.grant ≠ .none) || decide (MsgKind.data ∈ u.seen)
      | _ => true)
  else if fetch then
    some (match m.kind with
      | .data => decide (MsgKind.ack ∈ u.seen)
      | .ack => decide (MsgKind.data ∈ u.seen)
      | _ => true)
  else some true

/-- The stream of a channel whose message a response answers; none where the response answers a request that stayed inside its
channel. The data of an owner answer the request that the line's tracker, or the line's home, received (R227, R284). -/
def State.answered (s : State) (ch : Nat) (n : Fin 512) (sch : Nat) (m : Msg) : Option (Fin 512 × Nat) :=
  match m.kind, m.dst with
  | .data, .cluster _ => if ch = lineChan m.line then none else some (s.hub.node, lineChan m.line)
  | .data, _ =>
    if n = s.hub.node then some (n, sch)
    else if s.isLocal m.line then some (n, sch)
    else some ((BitVec.ofNat 9 (lineNode m.line)).toFin, lineChan m.line)
  | _, _ => some (n, sch)

/-- A response, with the channel and node that sent it: delivered when it answers an outstanding message of its stream, which it
may release, and discarded otherwise (R284). -/
def State.takeResponse (s : State) (ch : Nat) (n : Fin 512) (sch : Nat) (txn : BitVec 16) (m given : Msg) : State :=
  match s.answered ch n sch m with
  | none => s.send given
  | some (an, ach) =>
    let key := streamKey an ach
    let st := (s.chan ch).tx key
    match st.unreleased.find? fun u => decide (u.txn = txn) with
    | none => s
    | some u =>
      match u.take s.hub.node m with
      | none => s
      | some whole =>
        let rest := if whole then st.unreleased.filter fun y => !decide (y.txn = txn)
          else st.unreleased.map fun y => if y.txn = txn then { y with seen := m.kind :: y.seen } else y
        let s1 := s.setTx ch key { st with unreleased := rest }
        let s2 := if whole && u.msg.kind.isReq then s1.histogram ch 5 u.msg.cls.val else s1
        (State.pumpStream ch an ach st.waiting.length s2).send given

/-- Send a coherence message: inside a channel directly, between channels and to other nodes over Leat (R227). The data that an
owner of the requester's own channel sends answer the request that went to the tracker's channel. -/
def State.post (s : State) (m : Msg) : State :=
  let a := agentChan m.line m.src
  match m.dst with
  | .node n => s.leatSend a n (lineChan m.line) m
  | d =>
    let b := agentChan m.line d
    if a ≠ b then s.leatSend a s.hub.node b m
    else
      match m.kind, m.dst with
      | .data, .cluster _ => s.takeResponse a s.hub.node a (BitVec.ofNat 16 m.txn) m m
      | _, _ => s.send m

/-! ## Messages on their way between channels -/

/-- A message as the agent of this device that it is for receives it: from another node it comes for the line's slice and from
the node; from a channel of this device it keeps its agents. A request's answers name its TXN, also those of an owner. -/
def State.inward (s : State) (x : StreamMsg) (m : Msg) : Msg :=
  if x.srcNode = s.hub.node then
    if x.sequenced then
      { m with txn := x.txn.toNat, tag := if decide (m.kind = .readS) || decide (m.kind = .readU) || decide (m.kind = .own) then x.txn.toNat else m.tag }
    else m
  else
    let src : Agent := .node x.srcNode
    { m with
      src := src, dst := .slice (BitVec.ofNat 5 (lineChan m.line)).toFin
      requester := if m.requester = m.src then src else m.requester
      tag := if m.kind.isReq || m.kind = .wb then x.txn.toNat else m.tag
      txn := x.txn.toNat }

/-- A message between channels of this device has not been received: it stands unreleased and unaccepted in its stream, or
answers one that does. -/
def State.underWay (s : State) (x : StreamMsg) (m : Msg) : Bool :=
  let from_ := s.chan x.srcCh.val
  let dst := s.chan x.dstCh.val
  if x.sequenced then
    ((from_.tx (streamKey x.dstNode x.dstCh.val)).unreleased.any fun u => decide (u.txn = x.txn))
      && !decide (x.txn ∈ (tget RxStream.fresh dst.rxStreams (streamKey x.srcNode x.srcCh.val)).accepted)
  else
    match s.answered x.dstCh.val x.srcNode x.srcCh.val m with
    | none => true
    | some k => (dst.tx (streamKey k.1 k.2)).unreleased.any fun u => decide (u.txn = x.txn) && !decide (m.kind ∈ u.seen)

/-- The messages that stand anywhere on the links of a channel. -/
def Channel.carried (c : Channel) : List StreamMsg :=
  c.held ++ c.ports.flatMap fun p => p.2.queue ++ p.2.replay.flatMap fun f => f.parts.map fun x => x.msg

/-- The coherence messages that travel between channels of this device, and those that wait for their stream. -/
def State.travelling (s : State) : List Msg :=
  s.chans.flatMap fun c =>
    (c.2.carried.filterMap fun x =>
      if x.srcNode = s.hub.node ∧ x.dstNode = s.hub.node then x.msg?.bind fun m => if s.underWay x m then some (s.inward x m) else none
      else none)
    ++ c.2.txStreams.flatMap fun t => if t.1 / 32 = s.hub.node.val then t.2.waiting else []

/-- A response for the agent about the line has been sent and has not reached its channel (R217). -/
def State.answerComing (s : State) (l : LineAddr) (a : Agent) : Bool :=
  s.travelling.any fun m => decide (m.line = l) && decide (m.dst = a) && (decide (m.kind = .data) || decide (m.kind = .grant))

end Sys2Proof.Machine
end

