-- ==== Sys2Proof/Machine/ReedSolomon.lean ====
section
/-! DEFINITION. The Reed–Solomon codes over GF(2^8) of the stacks (R238) and of the links (R276), and the CRC-32C of journal
records and flits (R250, R277). Symbols are numbers below 256, and a codeword is the list of its symbols, symbol 0 first. -/

namespace Sys2Proof.Machine

/-! ## The field: x^8 + x^4 + x^3 + x^2 + 1, α = 0x02 (R238) -/

/-- Multiply by α. -/
def gfDouble (a : Nat) : Nat := 2 * a ^^^ 0x11D * (a / 128)

/-- α times `acc`, and a where bit i of b is set. -/
def gfStep (a b i acc : Nat) : Nat := gfDouble acc ^^^ b / 2 ^ i % 2 * a

/-- The product of two elements: the sum of a · α^i over the set bits i of b, from the highest. -/
def gfMul (a b : Nat) : Nat :=
  gfStep a b 0 (gfStep a b 1 (gfStep a b 2 (gfStep a b 3 (gfStep a b 4 (gfStep a b 5 (gfStep a b 6 (gfStep a b 7 0)))))))

/-- a to the power n, n below 256. -/
def gfPow (a n : Nat) : Nat :=
  [7, 6, 5, 4, 3, 2, 1, 0].foldl (fun acc i => if n.testBit i then gfMul (gfMul acc acc) a else gfMul acc acc) 1

/-- The inverse of an element that is not zero: a^254. -/
def gfInv (a : Nat) : Nat := gfPow a 254

/-- α to the power n. -/
def gfAlpha (n : Nat) : Nat := gfPow 2 (n % 255)

/-! ## Polynomials: the coefficient of x^i is entry i, and what is missing is zero. -/

abbrev Poly := List Nat

def Poly.coef (p : Poly) (i : Nat) : Nat := p.getD i 0
def polyAdd (p q : Poly) : Poly := (List.range (Nat.max p.length q.length)).map fun i => p.coef i ^^^ q.coef i
def polyScale (c : Nat) (p : Poly) : Poly := p.map fun a => gfMul c a
def polyMul (p q : Poly) : Poly :=
  (List.range (p.length + q.length - 1)).map fun k =>
    (List.range (k + 1)).foldl (fun acc i => acc ^^^ gfMul (p.coef i) (q.coef (k - i))) 0
def polyEval (p : Poly) (x : Nat) : Nat := p.foldr (fun c acc => c ^^^ gfMul x acc) 0
/-- The highest power with a coefficient that is not zero. -/
def polyDeg (p : Poly) : Nat := (List.range p.length).foldl (fun d i => if p.coef i = 0 then d else i) 0

/-! ## Encoding -/

/-- The generator with the roots 1, α, …, α^(r − 1). -/
def rsGenerator (r : Nat) : Poly := (List.range r).foldl (fun g i => polyMul g [gfAlpha i, 1]) [1]

/-- The check symbols of a message: the remainder of x^r · m(x) modulo the generator, highest power first. The message's
symbol 0 has the highest power. -/
def rsCheck (r : Nat) (msg : List Nat) : List Nat :=
  let g := rsGenerator r
  let taps : List Nat := (List.range r).map fun i => g.coef (r - 1 - i)
  msg.foldl (fun (rem : List Nat) s =>
    let f := s ^^^ rem.headD 0
    List.zipWith (fun a t => a ^^^ gfMul f t) (rem.drop 1 ++ [0]) taps) (List.replicate r 0)

/-- A message with its check symbols behind it. -/
def rsEncode (r : Nat) (msg : List Nat) : List Nat := msg ++ rsCheck r msg

/-! ## Decoding: e errors and E erasures with 2e + E ≤ r -/

/-- Syndrome j is the codeword's polynomial at α^j; symbol 0 has the highest power. -/
def rsSyndrome (word : List Nat) (j : Nat) : Nat :=
  let a := gfAlpha j
  word.foldl (fun acc s => gfMul acc a ^^^ s) 0
def rsSyndromes (r : Nat) (word : List Nat) : Poly := (List.range r).map (rsSyndrome word)

/-- The locator of symbol i of n. -/
def rsLocator (n i : Nat) : Nat := gfAlpha (n - 1 - i)

/-- The state of the search for the locator polynomial: the polynomial, the one kept from before, and the length. -/
structure RsSearch where
  lam : Poly
  old : Poly
  len : Nat
  deriving DecidableEq, Repr

/-- One step of the search, for syndrome k, after E erasures (Berlekamp and Massey). -/
def RsSearch.step (syn : Poly) (erased : Nat) (x : RsSearch) (k : Nat) : RsSearch :=
  let d := (List.range (x.len + 1)).foldl (fun acc j => if j ≤ k then acc ^^^ gfMul (x.lam.coef j) (syn.coef (k - j)) else acc) 0
  let old := 0 :: x.old
  if d = 0 then { x with old := old }
  else
    let lam := polyAdd x.lam (polyScale d old)
    if 2 * x.len ≤ k + erased then ⟨lam, polyScale (gfInv d) x.lam, k + 1 + erased - x.len⟩ else ⟨lam, old, x.len⟩

/-- The locator polynomial of a word's errors and erasures. -/
def rsLambda (r : Nat) (syn : Poly) (n : Nat) (erased : List Nat) : Poly :=
  let gamma := erased.foldl (fun p i => polyMul p [1, rsLocator n i]) [1]
  ((List.range (r - erased.length)).foldl (fun (x : RsSearch) i => x.step syn erased.length (erased.length + i))
    ⟨gamma, gamma, erased.length⟩).lam

/-- The value by which a symbol is wrong (Forney). -/
def rsValue (r : Nat) (syn lam : Poly) (n i : Nat) : Nat :=
  let x := rsLocator n i
  let xi := gfInv x
  let omega : Poly := (polyMul syn lam).take r
  -- the derivative keeps the odd powers
  let slope : Poly := (List.range (lam.length - 1)).map fun j => if j % 2 = 0 then lam.coef (j + 1) else 0
  gfMul x (gfMul (polyEval omega xi) (gfInv (polyEval slope xi)))

/-- Decode a word: the codeword within the limit 2e + E ≤ r of it, or none. A word whose pattern of errors lies beyond the limit
may stand within it of another codeword, and is then miscorrected (R238). -/
def rsDecode (r : Nat) (word : List Nat) (erased : List Nat) : Option (List Nat) :=
  let n := word.length
  let syn := rsSyndromes r word
  if syn.all fun a => decide (a = 0) then some word
  else if r < erased.length then none
  else
    let lam := rsLambda r syn n erased
    let at_ := (List.range n).filter fun i => decide (polyEval lam (gfInv (rsLocator n i)) = 0)
    let fixed := word.mapIdx fun i s => if i ∈ at_ then s ^^^ rsValue r syn lam n i else s
    let errors := ((List.range n).filter fun i => decide (fixed.getD i 0 ≠ word.getD i 0) && !decide (i ∈ erased)).length
    if at_.length = polyDeg lam && decide (2 * errors + erased.length ≤ r) && (rsSyndromes r fixed).all fun a => decide (a = 0)
    then some fixed else none

/-! ## CRC-32C -/

/-- One byte of CRC-32C, the reflected polynomial 0x82F63B78. -/
def crcByte (crc byte : Nat) : Nat :=
  (List.range 8).foldl (fun c _ => c / 2 ^^^ c % 2 * 0x82F63B78) (crc ^^^ byte)

/-- CRC-32C of a byte string. The spec names the code and not its parameters; these are the standard's (PRESUMED,
notes/assumptions/79.md). -/
def crc32c (bytes : List Byte) : Word := BitVec.ofNat 32 ((bytes.foldl (fun c b => crcByte c b.toNat) 0xFFFFFFFF) ^^^ 0xFFFFFFFF)

end Sys2Proof.Machine
end

