-- ==== Sys2Proof/Machine/Stacks.lean ====
section
/-! DEFINITION. A line as the stacks store it (R233 to R252): its place, its two codewords, the decoder, reads with what they find, writes with
their mirror, nominations and the journal. -/

namespace Sys2Proof.Machine

/-! ## Events that a read of memory gives rise to (R241, R246) -/

/-- A record with nothing in it. -/
def EventRec.blank (kind channel : Byte) : EventRec :=
  { evseq := 0, kind := kind, channel := channel, ctx := 0xFFFF, code := 0, lanes := 0, group := 0, pc := 0,
    detail := 0, launchSeq := 0, launchTag := 0 }

/-- The field-bus EVENT of an event record (R365): kept for sending when EVENT_EN is 1; a kind 8 event and
a change of 0x7030 are never replaced. -/
def State.busEvent (s : State) (kind channel : Byte) (detail : DWord) : State :=
  if s.hub.dict.eventEn ≠ 1 then s
  else if kind = 8 || kind = 0 then s.setHub fun h => { h with keptEvents := h.keptEvents ++ [(kind, channel, detail)] }
  else s.setHub fun h => { h with event := some (kind, channel, detail) }

/-- An event that waits to be posted: it takes its EVSEQ, and is held or dropped (R323, R324). -/
def State.queueEvent (s : State) (fn : Nat) (r : EventRec) : State :=
  let f := s.fnOf fn
  if r.kind ≠ 1 && decide (1024 ≤ (f.event.held.filter fun e => decide (e.kind ≠ 1)).length) then
    s.setFn fn { f with evseq := f.evseq + 1, evLost := satAdd f.evLost 1 }
  else s.setFn fn { f with evseq := f.evseq + 1, event := { f.event with held := f.event.held ++ [{ r with evseq := f.evseq }] } }

/-- An event for the owner that a read or a write of memory notices. It is posted with the next event, and at the end of the row where the
row is the memory's own (R241 gives no bound for the posting; notes/assumptions/82.md). -/
def State.notice (s : State) (kind : Byte) (channel : Byte) (code : Byte) (detail : DWord) : State :=
  (s.queueEvent 0 { EventRec.blank kind channel with code := code, detail := detail }).busEvent kind channel detail

/-! ## Places (R234, R235, R247)

A place is named by the line whose native place it is, as a line number within the channel. -/

/-- The line whose native place is a slot of a pseudo-channel. -/
def nativeLine (pc slot : Nat) : Nat := slot * 64 + (pc ^^^ fold slot 6)

/-- The first line that the map-out withdraws which comes after `k` others: the top GiB of what was presented before it. -/
def withdrawnFrom (k : Nat) : Nat := (63 - k) * 2 ^ 23

/-- The line at slot `t` of a pseudo-channel goes where line `t` of the withdrawn range stood; where that was on the same
pseudo-channel, one goes on from there. The spec fixes the placement by the map and shows it nowhere: this one is the model's
(DESIGN CHOICE, notes/assumptions/83.md). -/
def chase (before : Nat → Nat) (w d : Nat) : Nat → Nat → Nat
  | 0, t => before (w + t)
  | n + 1, t =>
    let q := before (w + t)
    if nativePc q = d then chase before w d n (nativeSlot q) else q

/-- The place of a line under a map, the latest map-out first. -/
def placeOf : List (Fin 64) → Nat → Nat
  | [], x => x
  | d :: older, x =>
    let q := placeOf older x
    if nativePc q = d.val then chase (placeOf older) (withdrawnFrom older.length) d.val (2 ^ 23) (nativeSlot q) else q

/-- The other way: the live line that came to a place of the withdrawn range. -/
def chaseBack (before : Nat → Nat) (w d : Nat) : Nat → Nat → Nat
  | 0, x => x
  | n + 1, x =>
    if x < w then x else chaseBack before w d n (before (nativeLine d (x - w)))

/-- The line that stands at a place of a pseudo-channel that is not mapped out. -/
def lineAt : List (Fin 64) → Nat → Nat
  | [], q => q
  | d :: older, q => chaseBack (lineAt older) (withdrawnFrom older.length) d.val (2 ^ 23 + 1) (lineAt older q)

/-- A place of a channel. -/
def placeKey (ch q : Nat) : Nat := ch * 2 ^ 36 + q
/-- Where the bytes of a place stand in `State.mem`. -/
def placeAddr (p : Nat) : Nat := p * 128
/-- The key of half `h` of a place in `State.halves` and `State.upsets`. -/
def placeHalf (p h : Nat) : Nat := p * 2 + h

/-- The place of a line of this device under the map in force. -/
def State.place (s : State) (l : LineAddr) : Nat :=
  placeKey (lineChan l) (placeOf (s.chan (lineChan l)).mapOrder (lineOff l))

/-- The pseudo-channel and the slot of a place. -/
def placePc (p : Nat) : Fin 64 := (BitVec.ofNat 6 (nativePc (p % 2 ^ 36))).toFin
def placeSlot (p : Nat) : Nat := nativeSlot (p % 2 ^ 36)

/-- The place to which an evacuation moves a line, while it runs and the line is one of those that it moves (R247, R249). -/
def State.newPlace (s : State) (l : LineAddr) : Option Nat :=
  let c := s.chan (lineChan l)
  if c.evacState = 2 ∧ placePc (s.place l) = c.evacPc ∧ lineOff l < withdrawnFrom c.mappedOut then
    some (placeKey (lineChan l) (placeOf (c.evacPc :: c.mapOrder) (lineOff l)))
  else none

/-! ## Codewords (R237 to R240) -/

/-- The 68 message symbols of a half: data, FE, POISON, CLASS, spare (R237). -/
def halfSymbols (data : BitVec 512) (m : HalfMeta) : List Nat :=
  (List.range 64).map (fun i => (data.extractLsb' (8 * i) 8).toNat) ++ [m.fe.toNat, if m.poison then 1 else 0, m.cls.val, 0]

/-- The 72 symbols of a half as they are written. -/
def halfCodeword (data : BitVec 512) (m : HalfMeta) : List Nat := rsEncode 4 (halfSymbols data m)

/-- The burst of the slot pair's nine and the DQ pin on which symbol `i` of codeword `c` lies (R239). -/
def symbolPlace (c i : Nat) : Nat × Nat := if i < 32 then (2 * c, i) else if i < 64 then (2 * c + 1, i - 32) else (8, 8 * c + (i - 64))

/-- The number of a half's codeword in its slot pair (R239). -/
def codewordOf (slot h : Nat) : Nat := 2 * (slot % 2) + h

/-- The symbols of codeword `c` on a pin: two, or three in the codeword whose check-burst pins include it. -/
def pinSymbols (c pin : Nat) : List Nat := (List.range 72).filter fun i => decide ((symbolPlace c i).2 = pin)

/-- What the decoder makes of a half: a codeword without error, a corrected one with the symbols that it changed, or none. -/
inductive Found where
  | clean
  | corrected (data : BitVec 512) (meta_ : HalfMeta) (changed : List Nat)
  | lost (cls : Nat)
  deriving DecidableEq, Repr

/-- The tries of R240: no pin marked, one, or two. -/
def decodeTries (word : List Nat) (c : Nat) (pins : List Nat) : Option (List Nat) :=
  match pins with
  | [] => rsDecode 4 word []
  | [p] => rsDecode 4 word (pinSymbols c p)
  | p :: q :: _ =>
    let both := pinSymbols c p ++ pinSymbols c q
    let second : Option (List Nat) := rsDecode 4 word (pinSymbols c p)
    if both.length = 4 then (rsDecode 4 word both).orElse fun _ => second else second

/-- Decode a stored half with errors in its symbols. Beyond the code's limit a pattern may be miscorrected, and what comes out is
then passed on as it is (R238). The CLASS of a lost half is as read, or 0 if that symbol is in error (R241). -/
def decodeHalf (data : BitVec 512) (m : HalfMeta) (e : SymErrors) (c : Nat) (pins : List Nat) : Found :=
  if e = 0 then .clean
  else
    let err (i : Nat) : Nat := (e.extractLsb' (8 * i) 8).toNat
    let word := (halfCodeword data m).mapIdx fun i x => x ^^^ err i
    match decodeTries word c pins with
    | none => .lost (if err 66 = 0 then m.cls.val else 0)
    | some w =>
      let sym (i : Nat) : Nat := w.getD i 0
      .corrected (BitVec.ofNat 512 (leNat ((List.range 64).map fun i => BitVec.ofNat 8 (sym i))))
        ⟨BitVec.ofNat 8 (sym 64), decide (sym 65 % 2 = 1), (BitVec.ofNat 2 (sym 66)).toFin⟩
        ((List.range 72).filter fun i => decide (sym i ≠ word.getD i 0))

/-! ## Reading a place -/

def State.halfAt (s : State) (p h : Nat) : HalfMeta := tget HalfMeta.init s.halves (placeHalf p h)
def State.dataAt (s : State) (p h : Nat) : BitVec 512 := BitVec.ofNat 512 (readBytes s.mem (placeAddr p + 64 * h) 64)

/-- The pins marked failed on a pseudo-channel, in the order in which they were marked. -/
def Channel.pinsOf (c : Channel) (pc : Fin 64) : List Nat := (c.failedPins.filter fun x => decide (x.1 = pc)).map fun x => x.2.val

/-- What the decoder finds in half `h` of a place. -/
def State.findAt (s : State) (p h : Nat) : Found :=
  decodeHalf (s.dataAt p h) (s.halfAt p h) (tget 0 s.upsets (placeHalf p h)) (codewordOf (placeSlot p) h)
    ((s.chan (p / 2 ^ 36 % 32)).pinsOf (placePc p))

/-- The data and metadata that a read passes on: as stored, as corrected, or poisoned with empty full/empty bits (R241). -/
def State.valueAt (s : State) (p h : Nat) : BitVec 512 × HalfMeta :=
  match s.findAt p h with
  | .clean => (s.dataAt p h, s.halfAt p h)
  | .corrected d m _ => (d, m)
  | .lost _ => (0, ⟨0, true, (s.halfAt p h).cls⟩)

/-- What a read of a line returns. -/
structure LineRead where
  data : Line
  poison : BitVec 2
  fe : BitVec 16
  lost : Bool
  deriving DecidableEq, Repr

/-- A line as a place holds it. -/
def State.lineAtPlace (s : State) (p : Nat) : LineRead :=
  let a := s.valueAt p 0
  let b := s.valueAt p 1
  { data := b.1 ++ a.1, poison := (if a.2.poison then 1 else 0) ||| (if b.2.poison then 2 else 0), fe := b.2.fe ++ a.2.fe, lost := false }

/-- A line as a read of the stacks returns it (R237, R241); outside the presented memory it reads poisoned (R236). -/
def State.memLine (s : State) (l : LineAddr) : LineRead :=
  if s.inMemory l then s.lineAtPlace (s.place l) else ⟨0, 3, 0, false⟩

/-- The log keeps the first event since it was read. -/
def State.memLog (s : State) (ch kind cls low : Nat) : State :=
  s.modChan ch fun c =>
    { c with memErrlog := if c.memErrlog = 0 then BitVec.ofNat 64 (kind * 2 ^ 60 + cls * 2 ^ 58 + low) else c.memErrlog }

/-- An access outside memory adds one to OOR and is logged (R236). -/
def State.outOfRange (s : State) (l : LineAddr) : State :=
  (s.modChan (lineChan l) fun c => { c with oor := satAdd c.oor 1 }).memLog (lineChan l) 3 0 (paOfLine l)

/-! ## Writing a place -/

/-- Write half `h` of a place: all 72 symbols (R241). -/
def State.putAt (s : State) (p h : Nat) (d : BitVec 512) (m : HalfMeta) : State :=
  { s with
    mem := writeBytes s.mem (placeAddr p + 64 * h) 64 d.toNat
    halves := tset HalfMeta.init s.halves (placeHalf p h) m
    upsets := tset 0 s.upsets (placeHalf p h) 0 }

/-- Write half `h` of a line: during an evacuation at its new place first and then at its old place (R249). -/
def State.putHalf (s : State) (l : LineAddr) (h : Nat) (d : BitVec 512) (m : HalfMeta) : State :=
  let s1 := match s.newPlace l with
    | some q => s.putAt q h d m
    | none => s
  s1.putAt (s.place l) h d m

/-- Write a line to the stacks with its metadata (R237, R241); discarded outside memory (R236). -/
def State.memWrite (s : State) (l : LineAddr) (d : Line) (poison : BitVec 2) (fe : BitVec 16) (cls : Fin 4) : State :=
  if s.inMemory l then
    (s.putHalf l 0 (d.extractLsb' 0 512) ⟨fe.extractLsb' 0 8, poison.getLsbD 0, cls⟩).putHalf l 1 (d.extractLsb' 512 512)
      ⟨fe.extractLsb' 8 8, poison.getLsbD 1, cls⟩
  else s.outOfRange l

/-! ## The journal (R250) -/

/-- A record of 64 bytes: KIND, GEN, PC, BATCH, MAP, and the CRC over what stands before it. -/
def JournalRec.bytes (r : JournalRec) : List Byte :=
  let body := [BitVec.ofNat 8 r.kind.val, BitVec.ofNat 8 r.gen, BitVec.ofNat 8 r.pc.val, 0] ++ bytesLe 4 r.batch ++ bytesLe 8 r.map.toNat
    ++ List.replicate 44 0
  body ++ bytesLe 4 (crc32c body).toNat

def JournalRec.word (r : JournalRec) : BitVec 512 := BitVec.ofNat 512 (leNat r.bytes)

/-- The record that 64 bytes hold; none where the CRC does not check. -/
def readRecord (w : BitVec 512) : Option JournalRec :=
  let body : List Byte := (List.range 60).map fun i => w.extractLsb' (8 * i) 8
  if (w.extractLsb' 480 32).toNat ≠ (crc32c body).toNat ∨ 5 ≤ (w.extractLsb' 0 8).toNat then none
  else some {
    kind := ⟨(w.extractLsb' 0 8).toNat % 5, Nat.mod_lt _ (by decide)⟩, gen := (w.extractLsb' 8 8).toNat
    pc := (w.extractLsb' 16 6).toFin, batch := (w.extractLsb' 32 32).toNat, map := w.extractLsb' 64 64 }

/-- Write a record behind the others of both copies; a START overwrites those of the evacuation before. -/
def Channel.record (c : Channel) (r : JournalRec) : Channel :=
  if r.kind = 1 then { c with journal := [r.word], journalB := [r.word] }
  else { c with journal := c.journal ++ [r.word], journalB := c.journalB ++ [r.word] }

/-- A record of the evacuation in progress. -/
def Channel.journalRec (c : Channel) (kind : Fin 5) (batch : Nat) : JournalRec :=
  { kind := kind, gen := c.mappedOut + 1, pc := c.evacPc, batch := batch, map := c.memMap }

/-- The records that are valid in either copy, in order. -/
def Channel.records (c : Channel) : List JournalRec :=
  (List.range (Nat.max c.journal.length c.journalB.length)).filterMap fun i =>
    (((c.journal[i]?).bind readRecord)).orElse fun _ => (c.journalB[i]?).bind readRecord

/-- The records as a reset finds them, with the errors that the code of R238 has not taken out of either copy. -/
def Channel.spoilJournal (c : Channel) (es : List (Fin 2 × Nat × BitVec 512)) : Channel :=
  let spoil (k : Fin 2) (t : List (BitVec 512)) : List (BitVec 512) :=
    es.foldl (fun t e => if e.1 = k then t.modify e.2.1 fun w => w ^^^ e.2.2 else t) t
  { c with journal := spoil 0 c.journal, journalB := spoil 1 c.journalB }

/-- What the journal says of the evacuation that the reset met (R251). -/
inductive JournalSays where
  | nothing
  | committed (start : JournalRec)
  | copying (start : JournalRec) (done : Nat)
  deriving DecidableEq, Repr

/-- The table of R251, G being the generation in the hub's store. A START with GEN ≤ G is one whose map the store holds; an ABANDON
ends the evacuation whatever its GEN (notes/assumptions/85.md). -/
def Channel.journalSays (c : Channel) : JournalSays :=
  let g := c.storeOrder.length
  match c.records.find? fun r => decide (r.kind = 1) with
  | none => .nothing
  | some a =>
    if a.gen ≤ g then .nothing
    else if c.records.any fun r => decide (r.kind = 3) && decide (r.gen = g + 1) then .committed a
    else if c.records.any fun r => decide (r.kind = 3) || decide (r.kind = 4) then .nothing
    else .copying a ((c.records.filter fun r => decide (r.kind = 2)).foldl (fun m r => Nat.max m (r.batch + 1)) 0)

/-- The lowest-numbered pseudo-channel of each stack that is not mapped out. -/
def Channel.lowestLive (c : Channel) : Fin 64 × Fin 64 :=
  let low (from_ : Nat) : Fin 64 :=
    (((List.range 32).map fun i => ((BitVec.ofNat 6 (from_ + i)).toFin : Fin 64)).find? fun d => !decide (d ∈ c.mapOrder)).getD (BitVec.ofNat 6 from_).toFin
  (low 0, low 32)

/-! ## Nominations (R246 to R248) -/

/-- Slots of the pseudo-channel that hold relocated lines which are live, above those that hold its own. -/
def Channel.relocated (c : Channel) (d : Nat) : List Nat :=
  let w := withdrawnFrom c.mappedOut
  if c.mappedOut = 0 then []
  else ((List.range (c.mappedOut * 2 ^ 17)).map fun i => (64 - c.mappedOut) * 2 ^ 17 + i).filter fun t =>
    decide (lineAt c.mapOrder (nativeLine d t) < w)

/-- Batches of 4,096 lines of an evacuation: the live lines native to the pseudo-channel, and those that earlier map-outs
put on it (R247, R248). -/
def Channel.evacBatches (c : Channel) (d : Nat) : Nat := (63 - c.mappedOut) * 32 + ((c.relocated d).length + 4095) / 4096

/-- The slots that batch `n` copies, in ascending order. -/
def Channel.batchSlots (c : Channel) (d n : Nat) : List Nat :=
  let own := (63 - c.mappedOut) * 32
  if n < own then (List.range 4096).map fun i => 4096 * n + i else ((c.relocated d).drop (4096 * (n - own))).take 4096

/-- The grant is given: START is written, mirrored writes begin, copying begins (R248 step 3). -/
def State.startEvacuation (s : State) (ch : Nat) : State :=
  s.modChan ch fun c =>
    let n := c.evacBatches c.evacPc.val
    { (c.record (c.journalRec 1 n)) with evacState := 2, granted := true, evacTotal := n, evacDone := 0 }

/-- Serve the earliest nomination: it is reported, and its evacuation starts at once with AUTO_GRANT (R246, R247). -/
def State.serveNomination (s : State) (ch : Nat) : State :=
  let c := s.chan ch
  match c.nominations with
  | [] => s
  | d :: _ =>
    if c.evacState ≠ 0 then s
    else
      let s1 := (s.modChan ch fun c => { c with evacState := 1, evacPc := d, granted := false }).notice
        3 (BitVec.ofNat 8 ch) 0 (BitVec.ofNat 64 d.val)
      if c.autoGrant then s1.startEvacuation ch else s1

/-- The channel reads its journal when a reset that keeps the stacks' contents ends, before any request reaches memory (R251): the map in
force, and an evacuation that goes on, is completed, or is abandoned. A nomination that is pending stays so; a grant that stands starts
its evacuation anew where the journal shows none. The journal's rows are chosen anew (R250). -/
def State.readJournal (s : State) (ch : Nat) (es : List (Fin 2 × Nat × BitVec 512)) : State :=
  let s1 := s.modChan ch fun c =>
    let c1 := { c.spoilJournal es with mapOrder := c.storeOrder, evacTotal := 0, evacDone := 0, evacState := 0 }
    match c1.journalSays with
    | .nothing => match c1.nominations with
      | [] => { c1 with granted := false }
      | d :: _ => { c1 with evacState := 1, evacPc := d }
    | .committed a => { c1 with evacState := 3, evacPc := a.pc, mapOrder := a.pc :: c1.storeOrder, evacTotal := a.batch, evacDone := a.batch }
    | .copying a n =>
      let c2 := { c1 with evacState := 2, evacPc := a.pc, evacTotal := a.batch, evacDone := n }
      if c2.granted then c2 else { (c2.record (c2.journalRec 4 0)) with evacState := 1, evacTotal := 0, evacDone := 0 }
  let s2 := if (s1.chan ch).evacState = 1 ∧ (s1.chan ch).granted then s1.startEvacuation ch else s1
  s2.modChan ch fun c => { c with journalPcs := c.lowestLive }

/-- Nominate a pseudo-channel; beyond eight map-outs DEGRADED is set instead (R246). -/
def State.nominate (s : State) (ch : Nat) (d : Fin 64) : State :=
  let c := s.chan ch
  if decide (d ∈ c.nominations) || decide (d ∈ c.mapOrder) then s
  else
    let s1 := s.memLog ch 5 0 d.val
    if 8 ≤ c.mappedOut + (c.nominations.filter fun x => !decide (x ∈ c.mapOrder)).length then s1.modChan ch fun c => { c with degraded := true }
    else (s1.modChan ch fun c => { c with nominations := c.nominations ++ [d] }).serveNomination ch

/-! ## What a read finds (R240 to R242) -/

/-- A corrected codeword: counted, and queued for a targeted scrub. -/
def State.codewordCorrected (s : State) (l : LineAddr) (h : Nat) : State :=
  s.modChan (lineChan l) fun c =>
    { c with memCorr := satAdd c.memCorr 1, targeted := c.targeted ++ [(l, if h = 0 then 0 else 1)] }

/-- An uncorrectable half is counted, logged with the stored CLASS, and reported; 16 on one pseudo-channel within 2^39
ticks nominate it (R241, R246). -/
def State.codewordLost (s : State) (l : LineAddr) (h kind cls : Nat) : State :=
  let ch := lineChan l
  let low := paOfLine l + 64 * h
  let pc := placePc (s.place l)
  let s1 := (s.memLog ch kind cls low).modChan ch fun c =>
    { c with uncorr := satAdd c.uncorr 1, uncorrPerPc := tmod [] c.uncorrPerPc pc.val fun t => noteEvents c.refcnt t 1 }
  let s2 := s1.notice 2 (BitVec.ofNat 8 ch) 2 (BitVec.ofNat 64 (kind * 2 ^ 60 + cls * 2 ^ 58 + low))
  if 16 ≤ (tget [] (s2.chan ch).uncorrPerPc pc.val).length then s2.nominate ch pc else s2

/-- The half is rewritten as a valid codeword: zero data, empty bits, poisoned (R242). -/
def State.rewriteLost (s : State) (l : LineAddr) (h : Nat) : State :=
  s.putHalf l h 0 ⟨0, true, (s.halfAt (s.place l) h).cls⟩

/-- A half read on demand. -/
def State.readHalf (s : State) (l : LineAddr) (h : Nat) : State :=
  match s.findAt (s.place l) h with
  | .clean => s
  | .corrected .. => s.codewordCorrected l h
  | .lost cls => (s.codewordLost l h 1 cls).rewriteLost l h

/-! ## Registrations (R198) -/

/-- The agent that carries a registered core's wake: the core itself, or its device's proxy. -/
def wakeTarget : Agent → Agent
  | .coreAt n _ => .node n
  | a => a

/-- The line's full/empty bits change: the registered cores of this device are woken by message, those of another
device by one message to their proxy, which holds their registrations too (R198). -/
def State.wakeRegistered (s : State) (l : LineAddr) : State :=
  let e := s.slice l
  let s1 := s.setSlice l { e with regs := [] }
  (e.regs.map wakeTarget).eraseDups.foldl (fun acc a => acc.post (Msg.blank .feWake l (sliceAgent l) a)) s1

/-- A line is read from memory on demand: what its two halves show has its effects; lost full/empty bits wake the registered cores
(R197, R241, R242). -/
def State.readMem (s : State) (l : LineAddr) : State :=
  if !s.inMemory l then s
  else
    let s1 := (s.readHalf l 0).readHalf l 1
    if decide ((s.halfAt (s.place l) 0).fe = (s1.halfAt (s.place l) 0).fe) && decide ((s.halfAt (s.place l) 1).fe = (s1.halfAt (s.place l) 1).fe)
    then s1 else s1.wakeRegistered l

/-- Errors come into stored codewords, by their keys within a channel (notes/assumptions/84.md). -/
def State.upset (s : State) (ch : Nat) (es : List (Nat × SymErrors)) : State :=
  { s with upsets := es.foldl (fun t e => tmod 0 t (placeKey ch 0 * 2 + e.1 % 2 ^ 30) fun x => x ^^^ e.2) s.upsets }

end Sys2Proof.Machine
end

