-- ==== Sys2Proof/Machine/Coherent.lean ====
section
/-! DEFINITION. A line as memory stores it (R235 to R242), and the whole-line accesses of the agents without
caches that this model performs in one step: the hub's and the channel's own reads and writes
(RD_SNAP and WR_MERGE of R215, R216; notes/assumptions/8.md). -/

namespace Sys2Proof.Machine

/-- Merge the bytes of a mask into a line. -/
def mergeLine (old new : Line) (mask : BitVec 128) : Line :=
  BitVec.ofNat 1024 (leNat ((List.range 128).map fun i =>
    if mask.getLsbD i then new.extractLsb' (8 * i) 8 else old.extractLsb' (8 * i) 8))

/-- The poison of a line's halves after a masked write: a write of all 64 bytes of a half takes the
writer's poison, any other write adds it (R226). -/
def mergePoison (old new : BitVec 2) (mask : BitVec 128) : BitVec 2 :=
  let h (i : Nat) : Bool :=
    let m : BitVec 64 := mask.extractLsb' (64 * i) 64
    if m = BitVec.allOnes 64 then new.getLsbD i
    else if m = 0 then old.getLsbD i else old.getLsbD i || new.getLsbD i
  (if h 0 then 1 else 0) ||| (if h 1 then 2 else 0)

/-- A cluster's copy of a line. -/
def State.copyOf (s : State) (k : Nat) (l : LineAddr) : CacheLine :=
  tget CacheLine.absent (s.cluster k).lines l.toNat

/-- A copy of a line that is newer than its slice's: one that a cluster holds in M, O or WB, one that a
cluster has received and not installed, or one on its way between caches (R212, R220, R222). -/
def State.dirtyCopy (s : State) (l : LineAddr) : Option (Line × BitVec 2) :=
  let held := s.clusters.findSome? fun c =>
    let x := tget CacheLine.absent c.2.lines l.toNat
    if x.state = .m || x.state = .o || x.state = .wb then some (x.data, x.poison) else none
  let fill := s.clusters.findSome? fun c => (c.2.txns.find? fun t => decide (t.line = l)).bind fun t => t.data
  let moving := (s.msgs ++ s.travelling).findSome? fun m =>
    if m.line = l && m.hasData && (m.kind = .wb || (m.kind = .data && (match m.dst with | .cluster _ => true | _ => false)))
    then some (m.data, m.poison) else none
  (held.orElse fun _ => fill).orElse fun _ => moving

/-- The newest value of a line that this device tracks: a copy newer than the slice's where one exists (R212,
R216), else the slice's, else memory's. -/
def State.newest (s : State) (l : LineAddr) : LineRead :=
  let e := s.slice l
  if e.present then
    match s.dirtyCopy l with
    | some c => ⟨c.1, c.2, e.fe, false⟩
    | none => ⟨e.data, e.poison, e.fe, false⟩
  else s.memLine l

/-- No transaction, snoop or answer of the line is under way. -/
def State.quiet (s : State) (l : LineAddr) : Bool :=
  decide ((s.slice l).busy = none) && decide ((s.slice l).ask = none) && !(s.msgs.any fun m => decide (m.line = l))
    && !(s.travelling.any fun m => decide (m.line = l))
    && !(s.clusters.any fun c => c.2.txns.any fun t => decide (t.line = l))

/-- Remove a line from every cluster cache of the device (the invalidations and recalls of R216). -/
def State.dropCopies (s : State) (l : LineAddr) : State :=
  { s with clusters := tmapIf Cluster.idle s.clusters (fun _ => true) (fun c => { c with lines := tdel c.lines l.toNat }) }

/-- A free line, where the spec states no content: sixteen free values. -/
def State.takeFreeLine (s : State) : Line × State :=
  let go := (List.range 16).foldl (fun (acc : Nat × State) _ =>
    let f := acc.2.takeFree
    (acc.1 * 2 ^ 64 + f.1.toNat, f.2)) (0, s)
  (BitVec.ofNat 1024 go.1, go.2)

/-- The node of a line is declared unreachable (R178, R296). -/
def State.lostNode (s : State) (l : LineAddr) : Bool :=
  !s.isLocal l && decide ((BitVec.ofNat 9 (lineNode l)).toFin ∈ s.hub.unreachable)

/-- A request of the hub or the channel itself at the line's tracking slice; it needs no answer by message. -/
def hubRequest (kind : MsgKind) (l : LineAddr) : Msg :=
  let home : Agent := .slice (BitVec.ofNat 5 (lineChan l)).toFin
  Msg.blank kind l home home

/-- No other device holds the line, as its home records it (R213). -/
def SliceLine.remoteFree (e : SliceLine) : Bool :=
  (match e.owner with | some (.node _) => false | _ => true) && decide (e.nodes = []) && !e.wide

/-- A write of the line by the hub or the channel cannot be applied in one step: the line is in a transaction, another device
holds a copy that has to be recalled, or its home is another device that can be reached. -/
def State.defersWrite (s : State) (l : LineAddr) : Bool :=
  if s.isLocal l then s.inMemory l && !(s.quiet l && (s.slice l).remoteFree) else !s.lostNode l

/-- The newest value of the line is with another device: it is homed there and no proxy here holds it, or another device
owns it (R212). -/
def State.valueAway (s : State) (l : LineAddr) : Bool :=
  if s.isLocal l then (match (s.slice l).owner with | some (.node _) => true | _ => false) else !(s.slice l).present

/-- RD_SNAP of a line by the hub or the channel. Where the newest value is with another device the request is sent to the
tracking slice, and the data and poison that come are free values (DESIGN CHOICE, notes/assumptions/8.md). -/
def State.snapRead (s : State) (l : LineAddr) : LineRead × State :=
  if s.lostNode l then
    let f := s.takeFreeLine
    (⟨f.1, 3, 0, true⟩, f.2)
  else if s.isLocal l && !s.inMemory l then (s.newest l, s.outOfRange l)
  else if s.valueAway l then
    let f := (s.send (hubRequest .rdSnap l)).takeFreeLine
    let p := f.2.takeFree
    (⟨f.1, p.1.extractLsb' 0 2, (s.slice l).fe, false⟩, p.2)
  else (s.newest l, if (s.slice l).present then s else s.readMem l)

/-- WR_MERGE of a line by the hub or the channel: applied whole where no other agent has to act first: holders in this
device are invalidated or recalled, the bytes are merged, and the line is UNCACHED with D = 1 (R216); a line that no slice
holds is merged into memory, which holds its newest value then. Else the request is sent to the slice. True answers that
the line was lost. -/
def State.mergeWrite (s : State) (l : LineAddr) (d : Line) (mask : BitVec 128) (poison : BitVec 2)
    (cls : Fin 4) : Bool × State :=
  if s.lostNode l then (true, s)
  else if s.defersWrite l then
    (false, s.send { hubRequest .wrMerge l with data := d, mask := mask, poison := poison, cls := cls })
  else if s.inMemory l then
    let o := s.newest l
    let nd := mergeLine o.data d mask
    let np := mergePoison o.poison poison mask
    let e := s.slice l
    if e.present then
      (false, (s.dropCopies l).setSlice l
        { e with data := nd, poison := np, dirty := true, dstate := .uncached, owner := none, sharers := [],
                 coarse := false, nodes := [], wide := false, cls := cls })
    else (false, (s.readMem l).memWrite l nd np o.fe cls)
  else (false, s.outOfRange l)

/-- The line is not in a transaction, so that a request for it starts at once (R218). -/
def State.lineFree (s : State) (l : LineAddr) : Bool :=
  decide ((s.slice l).busy = none) && decide ((s.slice l).ask = none)

/-- The line's byte at position `i`. -/
def lineByte (d : Line) (i : Nat) : Byte := d.extractLsb' (8 * i) 8

/-- The lines that `n` bytes from a physical address touch. -/
def linesOf (pa n : Nat) : List LineAddr :=
  if n = 0 then [] else (List.range ((pa + n - 1) / 128 - pa / 128 + 1)).map fun i => BitVec.ofNat 50 (pa / 128 + i)

/-- Bytes of physical memory as the hub reads them: the bytes, whether any half read was poisoned, whether
any line was lost. -/
def State.readPhys (s : State) (pa n : Nat) : (List Byte × Bool × Bool) × State :=
  let r := (linesOf pa n).foldl (fun (acc : List (LineAddr × LineRead) × State) l =>
    let x := acc.2.snapRead l
    (acc.1 ++ [(l, x.1)], x.2)) ([], s)
  let look (a : Nat) : LineRead := ((r.1.find? fun p => decide (p.1 = lineOfPa a)).map Prod.snd).getD ⟨0, 0, 0, false⟩
  let bytes := (List.range n).map fun i => lineByte (look (pa + i)).data ((pa + i) % 128)
  let pois := (List.range n).any fun i => (look (pa + i)).poison.getLsbD (((pa + i) % 128) / 64)
  ((bytes, pois, r.1.any fun p => p.2.lost), r.2)

/-- Write `n` bytes at a physical address, line by line; true when a line was lost. -/
def State.writePhysAt (s : State) (pa n : Nat) (byteAt : Nat → Byte) (cls : Fin 4) : Bool × State :=
  (linesOf pa n).foldl (fun (acc : Bool × State) l =>
    let base := paOfLine l
    let mask : BitVec 128 := maskOf fun i => decide (pa ≤ base + i) && decide (base + i < pa + n)
    let d : Line := BitVec.ofNat 1024 (leNat ((List.range 128).map fun i =>
      if base + i < pa then 0 else byteAt (base + i - pa)))
    let x := acc.2.mergeWrite l d mask 0 cls
    (acc.1 || x.1, x.2)) (false, s)

/-- Write a list of bytes at a physical address. -/
def State.writePhys (s : State) (pa : Nat) (bytes : List Byte) (cls : Fin 4) : Bool × State :=
  s.writePhysAt pa bytes.length (fun i => bytes.getD i 0) cls

/-- A pinned page: virtual start, size, physical start (R263). -/
abbrev Pin := Nat × Nat × Nat

/-- The physical address of a virtual address under pinned pages. -/
def pinned (pages : List Pin) (va : Nat) : Option Nat :=
  (pages.find? fun p => decide (p.1 ≤ va) && decide (va < p.1 + p.2.1)).map fun p => p.2.2 + (va - p.1)

/-- Write bytes through pinned pages. -/
def State.writePinned (s : State) (pages : List Pin) (va : Nat) (bytes : List Byte) : State :=
  (List.range bytes.length).foldl (fun acc i =>
    match pinned pages (va + i) with
    | some pa => (acc.writePhys pa [bytes.getD i 0] 3).2
    | none => acc) s

/-- Write bytes to host memory; what the device has written is kept as a record of the bus. -/
def State.hostWrite (s : State) (addr : Nat) (bytes : List Byte) : State :=
  let m := (List.range bytes.length).foldl (fun m i => tset none m (addr + i) (some (bytes.getD i 0))) s.hostMem
  { s with hostMem := m }

end Sys2Proof.Machine
end

