-- ==== Sys2Proof/Machine/Records.lean ====
section
/-! DEFINITION. The records that the device posts (R267, R319, R324, R355), their areas (R322, R323), MSI-X
(R325), and the field-bus EVENT (R365). -/

namespace Sys2Proof.Machine

/-- A completion record (R319) with its PHASE. -/
def Completion.bytes (c : Completion) (phase : Bool) : List Byte :=
  bytesLe 4 c.seq.toNat
    ++ bytesLe 2 (c.tag.toNat + 512 * c.stream.val + (if c.dup then 2 ^ 13 else 0) + (if phase then 2 ^ 15 else 0))
    ++ [c.status, c.flags.setWidth 8] ++ bytesLe 8 c.result.toNat

/-- A fault record (R267) with its sequence number. -/
def FaultRec.bytes (r : FaultRec) (seq : Nat) : List Byte :=
  bytesLe 4 seq ++ bytesLe 2 r.ctx.val ++ bytesLe 1 r.ch.val
    ++ bytesLe 1 (r.cause.toNat + (if r.merged then 16 else 0) + (if r.access.write then 32 else 0)
        + (if r.access.fetch then 64 else 0) + (if r.access.move then 128 else 0))
    ++ bytesLe 8 r.access.va.toNat ++ bytesLe 4 r.id ++ bytesLe 4 r.waiters ++ bytesLe 4 r.core ++ bytesLe 4 0

/-- An event record (R324). -/
def EventRec.bytes (r : EventRec) : List Byte :=
  bytesLe 4 r.evseq.toNat ++ [r.kind, r.channel] ++ bytesLe 2 r.ctx.toNat ++ [r.code, 0]
    ++ bytesLe 2 r.lanes.toNat ++ bytesLe 4 r.group.toNat ++ bytesLe 8 r.pc.toNat ++ bytesLe 8 r.detail.toNat
    ++ bytesLe 4 r.launchSeq.toNat ++ bytesLe 2 r.launchTag.toNat ++ bytesLe 26 0

/-- An area holds 2^LOG2N records, LOG2N kept to 6 to 16 (R322). -/
def Area.size {α : Type} (a : Area α) : Nat := 2 ^ Nat.max 6 (Nat.min a.log2n.toNat 16)
/-- The hub writes a record only while TAIL − HEAD < 2^LOG2N, modulo 2^32 (R322). -/
def Area.room {α : Type} (a : Area α) : Bool := decide ((a.tail - a.head).toNat < a.size)
/-- PHASE of the next record: 1 in the first pass, alternating (R322). -/
def Area.phase {α : Type} (a : Area α) : Bool := decide ((a.tail.toNat / a.size) % 2 = 0)
/-- The address of record TAIL. -/
def Area.slot {α : Type} (a : Area α) (bytes : Nat) : Nat := a.base.toNat + (a.tail.toNat % a.size) * bytes

/-- A record may be written now: the area is enabled, has room, and the function may write to the host
(R328) unless the area lies in device memory. -/
def Area.open {α : Type} (a : Area α) (busMaster : Bool) : Bool :=
  a.enabled && a.room && (a.virt || busMaster)

/-- Send the message of a vector, or hold it (R325, R328). -/
def State.sendVector (s : State) (fn : Nat) (v : Fin 32) : State :=
  let f := s.fnOf fn
  let x := tget Vec.reset f.vecs v.val
  let keep (p : Bool) : State :=
    s.setFn fn { f with vecs := tset Vec.reset f.vecs v.val { x with posted := 0, pending := p } }
  if x.masked then keep true
  else if !f.busMaster then (keep false).modFn fn fun g => { g with heldMsgs := g.heldMsgs ++ [v] }
  else (keep false).setHub fun h => { h with vecMsgs := h.vecMsgs ++ [(fn, v.val)] }

/-- A record was posted to a vector (R325): COUNT, 0 acting as 1 and 1 while HUB_REF_LOST (R20), and the
C0 bypass. -/
def State.notePosted (s : State) (fn : Nat) (v : Fin 32) (c0 : Bool) : State :=
  let f := s.fnOf fn
  let x := tget Vec.reset f.vecs v.val
  let n := x.posted + 1
  let limit := if s.hub.refLost then 1 else Nat.max 1 x.count.toNat
  if limit ≤ n || c0 then s.sendVector fn v
  else s.setFn fn { f with vecs := tset Vec.reset f.vecs v.val { x with posted := n } }

/-- Bytes to host memory, or to device memory through the area's pinned pages. -/
def State.areaWrite {α : Type} (s : State) (a : Area α) (bytes : List Byte) : State :=
  if a.virt then s.writePinned a.pages (a.slot bytes.length) bytes else s.hostWrite (a.slot bytes.length) bytes

/-- Put a completion into an area's memory. -/
def State.writeCompletion (s : State) (fn : Nat) (ctx : Option Nat) (c : Completion) : State :=
  match ctx with
  | none =>
    let a := (s.fnOf fn).cq
    let s1 := s.areaWrite a (c.bytes a.phase)
    (s1.modFn fn fun f => { f with cq := { f.cq with tail := f.cq.tail + 1 } }).notePosted fn a.vector c.c0
  | some k =>
    let a := (s.ctx k).cq
    let s1 := s.areaWrite a (c.bytes a.phase)
    (s1.modCtx k fun x => { x with cq := { x.cq with tail := x.cq.tail + 1 } }).notePosted
      (s.ctx k).fn.val a.vector c.c0

/-- Post a completion record or hold it (R323); true when it was written. -/
def State.postCompletion (s : State) (fn : Nat) (ctx : Option Nat) (c : Completion) : Bool × State :=
  let a := match ctx with
    | none => (s.fnOf fn).cq
    | some k => (s.ctx k).cq
  if a.held = [] && a.open (s.fnOf fn).busMaster then (true, s.writeCompletion fn ctx c)
  else if c.dup then (false, s.modFn fn fun f => { f with dup := satAdd f.dup 1 })
  else
    match ctx with
    | none => (false, s.modFn fn fun f => { f with cq := { f.cq with held := f.cq.held ++ [c] } })
    | some k => (false, s.modCtx k fun x => { x with cq := { x.cq with held := x.cq.held ++ [c] } })

/-- Put an event record into the area's memory. -/
def State.writeEvent (s : State) (fn : Nat) (r : EventRec) : State :=
  let a := (s.fnOf fn).event
  let s1 := s.hostWrite (a.slot r.bytes.length) r.bytes
  (s1.modFn fn fun f => { f with event := { f.event with tail := f.event.tail + 1 } }).notePosted fn a.vector false

/-- Write held events while there is room. -/
def State.drainEvents (s : State) (fn : Nat) : Nat → State
  | 0 => s
  | n + 1 =>
    let a := (s.fnOf fn).event
    match a.held with
    | [] => s
    | r :: t =>
      if a.open (s.fnOf fn).busMaster then
        ((s.modFn fn fun f => { f with event := { f.event with held := t } }).writeEvent fn r).drainEvents fn n
      else s

/-- Post an event to a function's event area, behind those that are held for it: it takes its EVSEQ, and is written, held or dropped
(R323, R324). -/
def State.postEvent (s : State) (fn : Nat) (r : EventRec) : State :=
  let s1 := s.drainEvents fn (s.fnOf fn).event.held.length
  let f := s1.fnOf fn
  if f.event.held = [] && f.event.open f.busMaster then
    (s1.setFn fn { f with evseq := f.evseq + 1 }).writeEvent fn { r with evseq := f.evseq }
  else s1.queueEvent fn r

/-- What reads of memory have noticed is posted (R241). -/
def State.postNotices (s : State) : State := s.drainEvents 0 (s.fnOf 0).event.held.length

/-- An event of a kind that goes to the owner function only (R324). -/
def State.ownerEvent (s : State) (kind : Byte) (channel : Byte) (code : Byte) (detail : DWord) : State :=
  (s.postEvent 0 { EventRec.blank kind channel with code := code, detail := detail }).busEvent kind channel detail

/-- A CONTEXT_NOTICE (R355) to the context's function, unless the function itself is being reset (R349), and to the owner. -/
def State.contextNotice (s : State) (ctx : Nat) (channel : Byte) (reason count : Nat) : State :=
  let fn := (s.ctx ctx).fn.val
  let r := { EventRec.blank 9 channel with
    ctx := BitVec.ofNat 16 ctx, detail := BitVec.ofNat 64 (Nat.min count 0xFFFF * 2 ^ 16 + reason) }
  let s1 := if fn ≠ 0 && !(s.fnOf fn).cleaning then s.postEvent fn r else s
  (s1.postEvent 0 r).busEvent 9 channel r.detail

/-- Write held completions while there is room (R323). -/
def State.drainCompletions (s : State) (fn : Nat) (ctx : Option Nat) : Nat → State
  | 0 => s
  | n + 1 =>
    let a := match ctx with
      | none => (s.fnOf fn).cq
      | some k => (s.ctx k).cq
    match a.held with
    | [] => s
    | c :: t =>
      if a.open (s.fnOf fn).busMaster then
        let s1 := match ctx with
          | none => s.modFn fn fun f => { f with cq := { f.cq with held := t } }
          | some k => s.modCtx k fun x => { x with cq := { x.cq with held := t } }
        (s1.writeCompletion fn ctx c).drainCompletions fn ctx n
      else s

/-- Put a fault record into the fault area's memory, with the area's next SEQ (R267). -/
def State.writeFault (s : State) (fn : Nat) (r : FaultRec) : State :=
  let f := s.fnOf fn
  let s1 := s.hostWrite (f.fault.slot (r.bytes f.faultSeq.toNat).length) (r.bytes f.faultSeq.toNat)
  (s1.modFn fn fun f => { f with fault := { f.fault with tail := f.fault.tail + 1 }, faultSeq := f.faultSeq + 1 })
    |>.notePosted fn f.fault.vector false

/-- Write held fault records while there is room. -/
def State.drainFaults (s : State) (fn : Nat) : Nat → State
  | 0 => s
  | n + 1 =>
    let a := (s.fnOf fn).fault
    match a.held with
    | [] => s
    | r :: t =>
      if a.open (s.fnOf fn).busMaster then
        ((s.modFn fn fun f => { f with fault := { f.fault with held := t } }).writeFault fn r).drainFaults fn n
      else s

/-- Everything held for a function is posted in order, then its held messages (R328). -/
def State.drainAll (s : State) (fn : Nat) : State :=
  let s1 := s.drainCompletions fn none (s.fnOf fn).cq.held.length
  let s2 := (s.ctxs.filter fun c => decide (c.2.fn.val = fn)).foldl
    (fun acc c => acc.drainCompletions fn (some c.1) c.2.cq.held.length) s1
  let s3 := s2.drainEvents fn (s.fnOf fn).event.held.length
  let s4 := s3.drainFaults fn (s.fnOf fn).fault.held.length
  let held := (s4.fnOf fn).heldMsgs
  held.foldl (fun acc v => acc.sendVector fn v) (s4.modFn fn fun f => { f with heldMsgs := [] })

end Sys2Proof.Machine
end

