-- ==== Sys2Proof/Machine/Translate.lean ====
section
/-! DEFINITION. Segments (R254), the TLB of a cluster (R258), and the start of a walk (R259, R260). -/

namespace Sys2Proof.Machine

/-! ## Tree pseudo-LRU (R209, R258): node i has children 2i + 1 and 2i + 2. -/

/-- Point every node on the path of entry `e` away from it. -/
def plruTouch {n : Nat} (bits : BitVec n) : Nat → Nat → Nat → BitVec n
  | 0, _, _ => bits
  | k + 1, node, e =>
    let right := e.testBit k
    let m : BitVec n := BitVec.ofNat n (2 ^ node)
    plruTouch (if right then bits &&& ~~~m else bits ||| m) k (2 * node + 1 + if right then 1 else 0) e

/-- The entry found by following the bits from the root. -/
def plruVictim {n : Nat} (bits : BitVec n) : Nat → Nat → Nat → Nat
  | 0, _, acc => acc
  | k + 1, node, acc =>
    let right := bits.getLsbD node
    plruVictim bits k (2 * node + 1 + if right then 1 else 0) (2 * acc + if right then 1 else 0)

/-! ## Segments and pages -/

/-- Bytes of a page (R254). -/
def pageSize (big : Bool) : Nat := if big then 2 ^ 31 else 2 ^ 25

/-- First byte and length of a segment in bytes. -/
def Segment.start (g : Segment) : Nat := g.base * 2 ^ 31
def Segment.bytes (g : Segment) : Nat := g.length * 2 ^ 25

/-- The valid segment that covers an address (R254). -/
def Context.segmentOf (c : Context) (va : Nat) : Option Segment :=
  ((List.range 16).map fun i => tget Segment.none c.segs i).find? fun g =>
    g.valid && decide (g.start ≤ va) && decide (va < g.start + g.bytes)

/-- The page of an address at its segment's page size; the small size where no segment covers it. -/
def Context.pageOf (c : Context) (va : Nat) : Nat × Bool :=
  match c.segmentOf va with
  | some g => (va / pageSize g.big, g.big)
  | none => (va / pageSize false, false)

/-! ## The TLB -/

/-- The TLB index that holds a translation of the address for the context. -/
def Cluster.tlbIndex (c : Cluster) (ctx va : Nat) : Option Nat :=
  (c.tlb.find? fun e => e.2.valid && decide (e.2.ctx.val = ctx) && decide (va / pageSize e.2.big = e.2.page)).map Prod.fst

def TlbEntry.permits (e : TlbEntry) (a : Access) : Bool := (!a.write || e.w) && (!a.fetch || e.x)

/-- The physical address that a TLB entry gives (R256). -/
def TlbEntry.pa (e : TlbEntry) (va : Nat) : Nat := e.pfn.toNat * 2 ^ 25 + va % pageSize e.big

/-- Translate an access through the cluster's TLB; a hit that lacks W or X is a miss (R258). -/
def State.tlbHit (s : State) (cl ctx : Nat) (a : Access) : Option Nat :=
  let c := s.cluster cl
  match c.tlbIndex ctx a.va.toNat with
  | none => none
  | some i =>
    let e := tget TlbEntry.invalid c.tlb i
    if e.permits a then some (e.pa a.va.toNat) else none

/-- A hit sets the pseudo-LRU bits of its entry (R258). -/
def State.tlbTouch (s : State) (cl ctx : Nat) (va : DWord) : State :=
  match (s.cluster cl).tlbIndex ctx va.toNat with
  | none => s
  | some i => s.modCluster cl fun c => { c with tlbPlru := plruTouch c.tlbPlru 8 0 i }

/-- Install a translation: an invalid entry first, else the pseudo-LRU victim (R258). -/
def Cluster.tlbFill (c : Cluster) (e : TlbEntry) : Cluster :=
  let c := { c with tlb := c.tlb.filter fun x => !(decide (x.2.ctx = e.ctx) && decide (x.2.page = e.page) && decide (x.2.big = e.big)) }
  let free := (List.range 256).find? fun i => !(tget TlbEntry.invalid c.tlb i).valid
  let i := free.getD (plruVictim c.tlbPlru 8 0 0)
  { c with tlb := tset TlbEntry.invalid c.tlb i e, tlbPlru := plruTouch c.tlbPlru 8 0 i }

/-- Drop the TLB entries of a context that meet a predicate. -/
def Cluster.tlbDrop (c : Cluster) (ctx : Nat) (p : TlbEntry → Bool) : Cluster :=
  { c with tlb := c.tlb.filter fun e => !(decide (e.2.ctx.val = ctx) && p e.2) }

/-! ## Walks -/

/-- Walks in flight of a channel. -/
def Channel.inFlight (c : Channel) : Nat := (c.walks.filter fun w => w.inFlight).length

/-- A miss joins the walk of its page or starts one; it waits while 32 are in flight or others wait for a place (R259). A joining miss
raises the walk's class. -/
def State.startWalk (s : State) (ch ctx : Nat) (cls : Fin 4) (wt : WalkWaiter) : State :=
  let pg := (s.ctx ctx).pageOf wt.access.va.toNat
  let key : WalkKey := ⟨⟨ctx % 2048, Nat.mod_lt _ (by decide)⟩, pg.1, pg.2⟩
  let s1 := s.countCluster (clusterOfCore wt.core) 5 1 cls.val
  let c := s1.chan ch
  if c.walks.any fun w => decide (w.key = key) then
    s1.modChan ch fun c => { c with walks := c.walks.map fun w =>
      if w.key = key then { w with waiters := w.waiters ++ [wt], cls := if cls < w.cls then cls else w.cls } else w }
  else
    s1.modChan ch fun c => { c with walks := c.walks ++
      [{ key := key, cls := cls, inFlight := decide (c.inFlight < 32) && c.walks.all (·.inFlight), waiters := [wt] }] }

end Sys2Proof.Machine
end

