-- ==== Sys2Proof/Machine/Blocks.lean ====
section
/-! DEFINITION. Blocks and groups on a core: the end of a group and of a block (R45, R48, R86, R148), monitor
posts (R144, R148), the discard of blocks (R61, R123, R318), reservations (R336), and exceptions (R89). -/

namespace Sys2Proof.Machine

/-! ## Presented cores -/

/-- The presented core has a physical core and is not unavailable (R57, R62). -/
def State.available (s : State) (k : Nat) : Bool :=
  !(s.core k).unavailable && decide (tget (some 0) (s.cluster (clusterOfCore k)).coreMap (k % 256) ≠ none)

/-- The core counts as draining (R60): for a swap, or because its cluster is to be reset (R347). -/
def State.drains (s : State) (k : Nat) : Bool :=
  (s.core k).draining || (s.cluster (clusterOfCore k)).resetPending

/-- The live blocks of a core, by slot. -/
def Core.liveBlocks (c : Core) : List (Nat × Block) := c.blocks.filter fun b => b.2.live
/-- The live groups of a block slot. -/
def Core.groupsOf (c : Core) (blk : Nat) : List (Nat × Group) :=
  c.groups.filter fun g => g.2.live && decide (g.2.block.val = blk)
/-- The context that a core holds (R29). -/
def Core.context (c : Core) : Option (Fin 2048) := c.liveBlocks.head?.map fun b => b.2.ctx
/-- The core holds a block of effective class C0. -/
def Core.holdsC0 (c : Core) : Bool := c.liveBlocks.any fun b => decide (b.2.eff = 0)

/-- The best effective class that a core holds. -/
def Core.cls (c : Core) : Nat := c.liveBlocks.foldl (fun m b => Nat.min m b.2.eff.val) 3

/-! ## Exceptions (R89) -/

/-- GROUP_ID of a group: its thread identifier with lane bits 0 (R85). -/
def Group.id (g : Group) : Word := BitVec.ofNat 32 (16 * g.ident)

/-- Post the EXCEPTION event of a group to its context's function (R89, R324). -/
def State.postException (s : State) (core slot : Nat) (x : Exc) : State :=
  let g := s.groupAt core slot
  let b := (s.core core).block g.block.val
  let l := s.launchOf b.launch
  let s1 := (s.countCore core 0x0C 1 b.ctx.val).modLaunch b.launch fun l => { l with exc := true }
  s1.postEvent (s.ctx b.ctx.val).fn.val
    { EventRec.blank 1 (BitVec.ofNat 8 (channelOfCore core)) with
      ctx := BitVec.ofNat 16 b.ctx.val, code := x.code, lanes := x.lanes, group := g.id, pc := x.pc,
      detail := x.detail, launchSeq := l.seq, launchTag := BitVec.ofNat 16 (l.tag.toNat + 512 * l.stream.val) }

/-- Raise an exception: the group stops and stays resident (R89, R318). -/
def State.raise (s : State) (core slot : Nat) (x : Exc) : State :=
  (s.postException core slot x).modGroupAt core slot fun g => { g with waiting := .stopped x }

/-! ## Monitor posts -/

/-- What a post does to the monitor record at byte `off` of its line (R144, R148): wrapping adds, unsigned maximum and minimum. -/
def MonCounts.ops (c : MonCounts) (off : Nat) : List LaneOp :=
  let at_ (lane : Fin 16) (k : Nat) (wide : Bool) (op : AtomOp) (x : DWord) : LaneOp :=
    .atom lane (BitVec.ofNat 7 (off + k)).toFin wide op x 0
  [at_ 0 0 true .add (BitVec.ofNat 64 c.elements), at_ 1 8 true .add (BitVec.ofNat 64 c.zeros),
   at_ 2 16 false .add (BitVec.ofNat 64 c.underflowed), at_ 3 20 false .add (BitVec.ofNat 64 c.saturated),
   at_ 4 24 false .add (BitVec.ofNat 64 c.nonfinite), at_ 5 28 false .umax (c.amax.setWidth 64), at_ 6 32 false .umin (c.aminNz.setWidth 64)]

/-- Setting STATUS.PARTIAL of the record (R148). -/
def partialOps (off : Nat) : List LaneOp := [.atom 0 (BitVec.ofNat 7 (off + 36)).toFin false .or 1 0]

/-- How the blocks of a core go: they end or are saved, and their counts are posted; they are discarded with a core in error; they are
discarded by a reset, and nothing is posted (R148; notes/assumptions/72.md). -/
inductive BlockEnd where
  | ends | dataError | dropped
  deriving DecidableEq, Repr

/-- Send the post of one record of a launch's monitor area from a core: one reduction at the record's slice, awaited until it is
acknowledged (R148, R149). -/
def State.postMonitor (s : State) (core launch : Nat) (cls : Fin 4) (idx : BitVec 16) (c : MonCounts) (how : BlockEnd) : State :=
  match (s.launchOf launch).monArea with
  | none => s
  | some (base, _, pages) =>
    if idx = 0xFFFF || how = .dropped || (decide (how = .ends) && decide (c = MonCounts.zero)) then s
    else
      match pinned pages (base.toNat + 64 * idx.toNat) with
      | none => s
      | some pa =>
        let l := lineOfPa pa
        if s.lostNode l then s
        else
          let f := s.stamp
          let m : Msg :=
            { Msg.blank .atomic l (.core (BitVec.ofNat 20 core).toFin) (.slice (BitVec.ofNat 5 (lineChan l)).toFin) with
              tag := f.1, cls := cls, context := (s.launchOf launch).ctx
              ops := if how = .ends then c.ops (pa % 128) else partialOps (pa % 128) }
          (f.2.modCore core fun k => { k with posts := k.posts ++ [⟨f.1, l, launch⟩] }).post m

/-- The three posts of a block (R148). -/
def State.postMonitors (s : State) (core : Nat) (b : Block) (how : BlockEnd) : State :=
  let s1 := s.postMonitor core b.launch b.eff b.monA b.countsA how
  let s2 := s1.postMonitor core b.launch b.eff b.monB b.countsB how
  s2.postMonitor core b.launch b.eff b.monCvt b.countsCvt how

/-! ## Launches -/

/-- Every block of the launch has been placed. -/
def Launch.allPlaced (l : Launch) : Bool := l.next.all fun e => decide (e.2.2 ≤ e.2.1)

/-- A launch ends when its last block has ended and none is left to place. -/
def State.checkLaunch (s : State) (k : Nat) : State :=
  let l := s.launchOf k
  if l.live && !l.ended && decide (l.liveBlocks = 0) && l.allPlaced then
    { (s.setLaunch k { l with ended := true, endStamp := s.tickets }) with tickets := s.tickets + 1 }
  else s

/-- One block of a launch has gone. -/
def State.dropBlockOf (s : State) (k : Nat) (f : Launch → Launch) : State :=
  (s.modLaunch k fun l => f { l with liveBlocks := l.liveBlocks - 1 }).checkLaunch k

/-! ## Reservations (R336) -/

/-- The presented cores of a channel in the order of R336. -/
def reserveOrder (ch : Nat) : List Nat :=
  (List.range 128).flatMap fun i => (List.range 256).map fun j => 32768 * ch + 256 * (127 - i) + j

/-- Cores reserved by another context. -/
def State.reservedByOther (s : State) (ctx k : Nat) : Bool :=
  s.ctxs.any fun c => decide (c.1 ≠ ctx) && decide (k ∈ c.2.reserved)

/-- The core holds a block of another context. -/
def State.heldByOther (s : State) (ctx k : Nat) : Bool :=
  match (s.core k).context with
  | none => false
  | some c => decide (c.val ≠ ctx)

/-- Bring one context's reservation on a channel up to date, posting notice 4 or 5 at a change. -/
def State.rebuildOne (s : State) (ch ctx : Nat) : State :=
  let c := s.ctx ctx
  let was := c.complete.getLsbD ch
  let keep := c.reserved.filter fun k =>
    decide (channelOfCore k ≠ ch) || (s.available k && !s.drains k)
  let here := (keep.filter fun k => decide (channelOfCore k = ch)).length
  let order := (reserveOrder ch).filter fun k =>
    s.available k && !s.drains k && !(s.reservedByOther ctx k) && !decide (k ∈ keep)
  let wanted := order.take (c.reserve - here)
  let got := if was then (order.filter fun k => decide ((s.core k).context = none)).take (c.reserve - here)
             else wanted.filter fun k => !(s.heldByOther ctx k)
  -- a falling RESERVE releases each core once it holds no block of the context
  let extra := here - c.reserve
  let released := ((keep.filter fun k => decide (channelOfCore k = ch) && decide ((s.core k).context = none)).reverse).take extra
  let all := (keep ++ got).filter fun k => !decide (k ∈ released)
  let n := (all.filter fun k => decide (channelOfCore k = ch)).length
  let now := decide (c.reserve ≤ n)
  let s1 := s.setCtx ctx { c with
    reserved := all, complete := if now then c.complete ||| BitVec.ofNat 32 (2 ^ ch) else c.complete &&& ~~~ BitVec.ofNat 32 (2 ^ ch) }
  if c.reserve ≠ 0 && now && !was then s1.contextNotice ctx (BitVec.ofNat 8 ch) 4 0
  else if was && !now then s1.contextNotice ctx (BitVec.ofNat 8 ch) 5 0
  else s1

/-- Bring the reservations of a channel up to date, in ascending context number. -/
def State.rebuild (s : State) (ch : Nat) : State :=
  (s.ctxs.filter fun c => decide (c.2.state ≠ .absent) && c.2.chset.getLsbD ch
    && (decide (c.2.reserve ≠ 0) || c.2.reserved.any fun k => decide (channelOfCore k = ch))).foldl
    (fun acc c => acc.rebuildOne ch c.1) s

/-! ## Reconvergence (R45, R50 to R52) -/

def EntryKind.isJoin : EntryKind → Bool
  | .join => true
  | _ => false

/-- A deferred entry, or a parked entry that has been woken, is runnable before any yielded entry (R51). -/
def EntryKind.runsFirst : EntryKind → Bool
  | .deferred => true
  | .parked _ woken _ => woken
  | _ => false

def EntryKind.isYielded : EntryKind → Bool
  | .yielded => true
  | _ => false

/-- Remove the first entry that meets a predicate. -/
def dropFirst (p : StackEntry → Bool) : List StackEntry → List StackEntry
  | [] => []
  | e :: t => if p e then t else e :: dropFirst p t

/-- Let the group go on after its running path has moved, parked, yielded or exited: stop at the nearest
join, take the topmost runnable entry above it, pop the join when none remains (R45, R51, R52). -/
def settleLoop : Nat → Group → Group
  | 0, g => g
  | n + 1, g =>
    let above := g.stack.takeWhile fun e => !e.kind.isJoin
    let rest := g.stack.drop above.length
    let atJoin := match rest with
      | j :: _ => decide (j.addr = g.pc)
      | [] => false
    if g.mask ≠ 0 && !atJoin then { g with waiting := .no }
    else
      match above.find? fun e => e.kind.runsFirst with
      | some e =>
        settleLoop n { g with pc := e.addr, mask := e.mask, stack := dropFirst (fun x => x.kind.runsFirst) g.stack }
      | none =>
        if above.any fun e => e.kind.isYielded then { g with mask := 0, waiting := .backoff }
        else if above ≠ [] then { g with mask := 0, waiting := .parked }
        else
          match rest with
          | j :: t => settleLoop n { g with pc := j.addr, mask := j.mask, stack := t }
          | [] => g

/-- 34 rounds cover the 32 entries. -/
def Group.settle (g : Group) : Group := settleLoop 34 g

/-- Lanes leave every mask for good; entries whose masks become empty are discarded (R45). -/
def Group.leave (g : Group) (m : Mask) : Group :=
  { g with
    mask := g.mask &&& ~~~m
    stack := (g.stack.map fun e => { e with mask := e.mask &&& ~~~m }).filter fun e => e.mask ≠ 0 }

/-- Go to the next instruction. -/
def Group.advance (g : Group) : Group := ({ g with pc := g.pc + 8 }).settle

/-- A waiting group goes on from where it stands. -/
def Group.wake (g : Group) : Group := ({ g with waiting := .no }).settle

/-! ## Readiness (R39, R41) -/

/-- Loads and queued QDRAINs have still to write registers of a group. Its next instruction is taken to depend on them
(notes/assumptions/20.md). -/
def Core.owing (c : Core) (slot : Nat) : Bool :=
  (c.loads.any fun l => l.live && decide (l.slot.val = slot))
    || c.quern.queue.any fun q => q.live && decide (q.slot.val = slot) && (match q.op with | .drain .. => true | _ => false)

/-- The lanes whose accesses a load entry makes. -/
def LoadEntry.laneMask (e : LoadEntry) : Mask :=
  match e.kind with
  | .ld _ _ => maskOf fun l => e.lanes.any fun x => decide (x.lane.val = l)
  | .atom ops | .fe ops _ => maskOf fun l => ops.any fun o => decide (o.laneNo = l)

/-- The accesses that lanes of a group issued before `upto` have met the condition of a FENCE scope (R169). -/
def State.fenceMet (s : State) (core slot : Nat) (scope : Nat) (lanes : Mask) (upto : Nat) : Bool :=
  let c := s.core core
  let mine (e : StoreEntry) : Bool := e.live && decide (e.slot.val = slot) && decide (e.stamp < upto) && decide (e.lanes &&& lanes ≠ 0)
  let loads := c.loads.any fun l => l.live && decide (l.slot.val = slot) && decide (l.stamp < upto) && decide (l.laneMask &&& lanes ≠ 0)
  let waiting := (c.stores.drop 32).any mine
  let held := c.stores.any fun e => mine e && (decide (scope = 3) || s.isLocal e.line)
  !loads && !waiting && (decide (scope < 2) || !held)

/-- A fence of the group still holds back memory instructions of lanes of a mask (R47, R168). -/
def State.fenced (s : State) (core slot : Nat) (lanes : Mask) : Bool :=
  (s.groupAt core slot).fences.any fun f => decide (f.lanes &&& lanes ≠ 0) && !s.fenceMet core slot f.scope.val f.lanes f.upto

/-- How a group stands at an issue slot (R39): ready or stalled, waiting, or neither, as a group that an exception or a fault has stopped, or
whose instruction or fetch waits for a translation. -/
inductive Standing where
  | ready | waiting | neither
  deriving DecidableEq, Repr

/-- A MOVEQ of the slot waits for its translations (R262). -/
def State.movesAt (s : State) (core slot : Nat) : Bool :=
  (s.cluster (clusterOfCore core)).forming.any fun d => decide (d.core = core) && decide (d.slot.val = slot)

/-- How a group stands (R39; notes/assumptions/20.md). Its next instruction is taken to depend on registers that are owed to the group, and to be
one that its fences hold back. -/
def State.standing (s : State) (core slot : Nat) : Standing :=
  let g := s.groupAt core slot
  if !g.live then .neither
  else match g.waiting with
    | .no => if (s.core core).owing slot || s.fenced core slot g.mask then .waiting else .ready
    | .backoff => .ready
    | .walk => if s.movesAt core slot then .waiting else .neither
    | .stopped _ | .faulted _ | .ending => .neither
    | _ => .waiting

/-- The group is ready, or stalled, which counts as ready (R39). -/
def State.readyAt (s : State) (core slot : Nat) : Bool := decide (s.standing core slot = .ready)

/-- The pending groups of some slots are looked at after one event: those that have become ready take one stamp, so that equals
fall to the lower slot; one that is not ready loses its stamp (R41). -/
def State.noteReadies (s : State) (core : Nat) (slots : List Nat) : State :=
  let f := s.stamp
  slots.foldl (fun acc i =>
    acc.modGroupAt core i fun g =>
      if g.active || !acc.readyAt core i then { g with readySince := none }
      else if g.readySince.isSome then g else { g with readySince := some f.1 }) f.2

/-- The same for one group. -/
def State.noteReady (s : State) (core slot : Nat) : State := s.noteReadies core [slot]

/-! ## The end of a group and of a block -/

/-- Live groups of a block: those that still have a lane that has not exited (R48). -/
def State.liveCount (s : State) (core blk : Nat) : Nat := ((s.core core).groupsOf blk).length

/-- Complete the phases of a block's barriers whose arrivals match the live groups (R48). -/
def State.settleBarriers (s : State) (core blk : Nat) : State :=
  (List.range 4).foldl (fun acc b =>
    let bar := tget Barrier.fresh ((acc.core core).block blk).bars b
    if bar.arrived ≠ [] && decide (acc.liveCount core blk ≤ bar.arrived.length) then
      let acc := acc.modBlockAt core blk fun x => { x with bars := tset Barrier.fresh x.bars b Barrier.fresh }
      let held := (bar.arrived.map Fin.val).filter fun i => decide ((acc.groupAt core i).waiting = .barrier (BitVec.ofNat 2 b).toFin)
      (held.foldl (fun a i => a.modGroupAt core i Group.wake) acc).noteReadies core held
    else acc) s

/-- Free a block's slot, registers, local memory, and the Quern once its queue is empty (R110). -/
def Core.freeBlock (c : Core) (blk : Nat) : Core :=
  { c with
    blocks := tset Block.absent c.blocks blk Block.absent
    groups := c.groups.filter fun g => !decide (g.2.block.val = blk)
    quern := if c.quern.block = some ⟨blk % 4, Nat.mod_lt _ (by decide)⟩ then
        (if c.quern.queue = [] then Quern.idle else { c.quern with block := none })
      else c.quern }

/-- A block ends (R148): its counts are posted, its resources freed, its launch and the reservations of
the channel brought up to date. -/
def State.endBlock (s : State) (core blk : Nat) : State :=
  let b := (s.core core).block blk
  let s1 := (s.postMonitors core b .ends).modCore core fun c => c.freeBlock blk
  (s1.dropBlockOf b.launch id).rebuild (channelOfCore core)

/-- The place of a lost request in a launch: by the order in which groups ended, then by issue (R321). -/
def lostPlace (ended stamp : Nat) : Nat := 2 ^ 64 * ended + stamp

/-- Add lost line requests to a launch: the count, and the first lost address of the earliest group (R181, R321). -/
def Launch.addLost (l : Launch) (n stamp : Nat) (va : DWord) : Launch :=
  if n = 0 then l
  else if l.lost = 0 || decide (stamp < l.lostStamp) then { l with lost := l.lost + n, lostAddr := va, lostStamp := stamp }
  else { l with lost := l.lost + n }

/-- The same for a group's tally (R181). -/
def Group.addLost (g : Group) (stamp : Nat) (va : DWord) : Group :=
  if g.lost = 0 || decide (stamp < g.lostStamp) then { g with lost := g.lost + 1, lostAddr := va, lostStamp := stamp }
  else { g with lost := g.lost + 1 }

/-- What a core still holds for a slot belongs to no live group any more. -/
def Core.orphan (c : Core) (slot ended : Nat) : Core :=
  { c with
    stores := c.stores.map fun e => if e.live && decide (e.slot.val = slot) then { e with live := false, ended := ended } else e
    loads := c.loads.map fun e => if e.live && decide (e.slot.val = slot) then { e with live := false, ended := ended } else e
    quern := { c.quern with queue := c.quern.queue.map fun e => if e.slot.val = slot then { e with live := false } else e } }

/-- A group ends: FLAGS to the context and the launch (R86), the lost tally to the launch (R181), its slot
freed (R45), the barriers of its block settled (R48), the block ended with its last group. -/
def State.endGroup (s : State) (core slot : Nat) : State :=
  let g := s.groupAt core slot
  let blk := g.block.val
  let b := (s.core core).block blk
  let f := s.stamp
  let s1 := f.2.orSticky b.ctx.val g.flags
  let s2 := s1.modLaunch b.launch fun l =>
    { (l.addLost g.lost (lostPlace f.1 g.lostStamp) g.lostAddr) with flags := l.flags ||| g.flags }
  let s3 := s2.modCore core fun c => (c.orphan slot f.1).setGroup slot Group.absent
  let s4 := s3.settleBarriers core blk
  if s4.liveCount core blk = 0 then s4.endBlock core blk else s4

/-! ## Discards -/

/-- The waits that a core's groups have queued at objects, its pending wakes, its waits for walks and its descriptors
not yet queued go with its blocks. -/
def State.dropWaits (s : State) (core : Nat) : State :=
  let s1 : State := { s with objs := tmapIf SyncObj.free s.objs (fun _ => true) (fun o =>
    { o with waits := o.waits.filter fun w => !decide (w.core = core) }) }
  let s2 := s1.modChan (channelOfCore core) fun c =>
    { c with
      wakes := c.wakes.filter fun w => !decide (w.core = core)
      walks := c.walks.map fun w => { w with waiters := w.waiters.filter fun x => !decide (x.core = core) } }
  s2.modCluster (clusterOfCore core) fun c => { c with forming := c.forming.filter fun d => !decide (d.core = core) }

/-- What waits for groups of a core outside it goes with them: waits at objects, wakes, walks, descriptors not yet queued. -/
def State.dropSlots (s : State) (core : Nat) (slots : List Nat) : State :=
  let mine (i : Fin 16) : Bool := decide (i.val ∈ slots)
  let s1 : State := { s with objs := tmapIf SyncObj.free s.objs (fun _ => true) (fun o =>
    { o with waits := o.waits.filter fun w => !(decide (w.core = core) && mine w.slot) }) }
  let s2 := s1.modChan (channelOfCore core) fun c =>
    { c with
      wakes := (c.wakes.map fun w => if w.core = core then { w with slots := w.slots.filter fun i => !mine i } else w).filter
        fun w => decide (w.slots ≠ []) || w.line.isSome
      walks := c.walks.map fun w => { w with waiters := w.waiters.filter fun x => !(decide (x.core = core) && mine x.slot) } }
  s2.modCluster (clusterOfCore core) fun c =>
    { c with forming := c.forming.filter fun d => !(decide (d.core = core) && mine d.slot) }

/-- The groups of a block that goes give their lost tallies to its launch (R181), and their FLAGS where they end (R86). -/
def State.takeGroups (s : State) (b : Block) (gs : List Group) (how : BlockEnd) : State :=
  gs.foldl (fun acc g =>
    let f := acc.stamp
    let s1 := f.2.modLaunch b.launch fun l => l.addLost g.lost (lostPlace f.1 g.lostStamp) g.lostAddr
    if how = .ends then (s1.orSticky b.ctx.val g.flags).modLaunch b.launch fun l => { l with flags := l.flags ||| g.flags } else s1) s

/-- A block of a core goes without its groups' EXIT: it ends with its launch, or is discarded (R61, R123, R318, R348, R350); its
launch takes `f`. -/
def State.discardBlock (s : State) (core blk : Nat) (how : BlockEnd) (f : Launch → Launch) : State :=
  let c := s.core core
  let b := c.block blk
  let gs := c.groupsOf blk
  let slots := gs.map Prod.fst
  let mine (i : Fin 16) : Bool := decide (i.val ∈ slots)
  let s0 := ((s.dropSlots core slots).takeGroups b (gs.map Prod.snd) how).postMonitors core b how
  let end_ := s0.stamp
  let s2 := end_.2.modCore core fun c =>
    let c1 : Core := { c with
      stores := c.stores.map (fun e : StoreEntry => if mine e.slot && e.live then { e with live := false, ended := end_.1 } else e)
      loads := c.loads.map (fun e : LoadEntry => if mine e.slot && e.live then { e with live := false, ended := end_.1 } else e)
      tagged := c.tagged.filter (fun t => !mine t.slot)
      quern := if c.quern.block = some (BitVec.ofNat 2 blk).toFin then Quern.idle else c.quern }
    let c2 := c1.freeBlock blk
    { c2 with saving := c2.saving && decide (c2.liveBlocks ≠ []) }
  (s2.dropBlockOf b.launch f).rebuild (channelOfCore core)

/-- Every resident block of a core goes. -/
def State.discardCore (s : State) (core : Nat) (how : BlockEnd) (f : Launch → Launch) : State :=
  let s1 := (s.core core).liveBlocks.foldl (fun acc b => acc.discardBlock core b.1 how f) (s.dropWaits core)
  s1.modCore core fun c => { c with groups := [], blocks := [], quern := .idle, tagged := none, saving := false }

/-! ## Gangs, saves due, errors of a core's words (R28, R54, R58, R61, R122, R123) -/

/-- The gang of which a core holds a block: its launch and its number. -/
def State.gangOf (s : State) (core : Nat) : Option (Nat × Nat) :=
  ((s.core core).liveBlocks.find? fun b => b.2.gang).map fun b => (b.2.launch, b.2.index / 256)

/-- The 256 presented cores of a core's cluster. -/
def clusterCores (core : Nat) : List Nat := (List.range 256).map fun i => core / 256 * 256 + i

/-- The cores that hold blocks of the gang of a core, else the core alone (R122, R123). -/
def State.gangCores (s : State) (core : Nat) : List Nat :=
  match s.gangOf core with
  | none => [core]
  | some q => (clusterCores core).filter fun k => decide (s.gangOf k = some q)

/-- A cluster holds a block of effective class C0 (R347). -/
def State.clusterC0 (s : State) (k : Nat) : Bool := (List.range 256).any fun i => (s.core (256 * k + i)).holdsC0

/-- A swap waits for blocks of class C0: of the core, or with a gang of any core of its cluster (R58, R122). -/
def State.swapHeld (s : State) (core : Nat) : Bool :=
  match s.gangOf core with
  | none => (s.core core).holdsC0
  | some _ => s.clusterC0 (clusterOfCore core)

/-- The core has a reason to save its blocks: a switch-out has begun, or it is draining for a swap and holds no C0 block, or
its cluster is to be reset and holds none (R58, R268, R347). -/
def State.mustSave (s : State) (core : Nat) : Bool :=
  let c := s.core core
  let cl := clusterOfCore core
  c.saving || (c.draining && decide (c.swap = .none) && !s.swapHeld core)
    || ((s.cluster cl).resetPending && !s.clusterC0 cl)

/-- A save of the core, or of its gang, has stopped its issue (R54 step 1, R122). -/
def State.stopsForSave (s : State) (core : Nat) : Bool := (s.gangCores core).any fun k => s.mustSave k

/-- The instruction that read a word in error, and its group, which may have ended since (R61). -/
structure Reader where
  core : Nat
  ctx : Nat
  group : Word
  seq : Word
  tag : BitVec 16
  lanes : Mask
  pc : DWord
  deriving DecidableEq, Repr

/-- LAUNCH_TAG of a launch: its TAG and its stream (R324). -/
def Launch.tagField (l : Launch) : BitVec 16 := BitVec.ofNat 16 (l.tag.toNat + 512 * l.stream.val)

/-- A live group as a reader. -/
def State.readerAt (s : State) (core slot : Nat) (lanes : Mask) (pc : DWord) : Reader :=
  let g := s.groupAt core slot
  let b := (s.core core).block g.block.val
  let l := s.launchOf b.launch
  ⟨core, b.ctx.val, g.id, l.seq, l.tagField, lanes, pc⟩

/-- The one event of a CORE_DATA_ERROR (R61): it names the presented core in error and the reading group, where an instruction read
the word. -/
def State.postDataError (s : State) (core : Nat) (r : Option Reader) : State :=
  let detail : DWord := BitVec.ofNat 64 core
  let rec0 : EventRec := { EventRec.blank 1 (BitVec.ofNat 8 (channelOfCore core)) with code := 0x07, detail := detail }
  match r with
  | some r =>
    (s.countCore r.core 0x0C 1 r.ctx).postEvent (s.ctx r.ctx).fn.val
      { rec0 with ctx := BitVec.ofNat 16 r.ctx, lanes := r.lanes, group := r.group, pc := r.pc, launchSeq := r.seq, launchTag := r.tag }
  | none =>
    match (s.core core).context with
    | some c => s.postEvent (s.ctx c.val).fn.val
        { rec0 with ctx := BitVec.ofNat 16 c.val, launchSeq := 0xFFFFFFFF, launchTag := 0xFFFF }
    | none => s

/-- A core is draining from now on, so that it leaves the C0 reservation (R58 step 1, R60). -/
def State.drainCore (s : State) (core : Nat) : State :=
  if (s.core core).draining then s
  else (s.modCore core fun c => { c with draining := true }).rebuild (channelOfCore core)

/-- A double-bit error in a core's words (R61, R109, R123): reported once; all blocks of the core, and those of its gang on other cores, are
discarded, and the core drains for its swap. -/
def State.coreDataError (s : State) (core : Nat) (r : Option Reader) : State :=
  let lose (l : Launch) : Launch := { l with dataError := true }
  let gang := s.gangOf core
  let others := (s.gangCores core).filter fun k => decide (k ≠ core)
  let s1 := others.foldl (fun acc k =>
    ((acc.core k).liveBlocks.filter fun b => b.2.gang && decide (some (b.2.launch, b.2.index / 256) = gang)).foldl
      (fun a b => a.discardBlock k b.1 .dataError lose) acc) (s.postDataError core r)
  (s1.discardCore core .dataError lose).drainCore core

/-- `n` corrected single-bit errors count against the core (R28): 16 within 2^39 ticks ask for a swap, so the core drains (R58). -/
def State.correctedError (s : State) (core n : Nat) : State :=
  let now := (s.chan (channelOfCore core)).refcnt
  let kept := noteEvents now (s.core core).corrected n
  let s1 := s.modCore core fun c => { c with corrected := kept }
  if 16 ≤ kept.length then s1.drainCore core else s1

end Sys2Proof.Machine
end

