-- ==== Sys2Proof/WellFormed.lean ====
section
/-! DEFINITION. Which commands are well-formed: an instruction word that names its row, a message of its
row's kind, operands in the ranges that the spec gives. -/

namespace Sys2Proof

/-- The group and the word of a Drarak instruction. -/
def Instr.word : Instr → Option (GRef × DWord)
  | .illegal g w => some (g, w)
  | .nop g w => some (g, w)
  | .bra g w => some (g, w)
  | .brx g w => some (g, w)
  | .jmpl g w => some (g, w)
  | .jmpr g w => some (g, w)
  | .exit g w => some (g, w)
  | .trap g w => some (g, w)
  | .mov g w => some (g, w)
  | .add g w => some (g, w)
  | .sub g w => some (g, w)
  | .mul g w => some (g, w)
  | .mulhi g w => some (g, w)
  | .mad g w => some (g, w)
  | .min g w => some (g, w)
  | .max g w => some (g, w)
  | .and g w => some (g, w)
  | .or g w => some (g, w)
  | .xor g w => some (g, w)
  | .shl g w => some (g, w)
  | .shr g w => some (g, w)
  | .sar g w => some (g, w)
  | .sel g w => some (g, w)
  | .popc g w => some (g, w)
  | .clz g w => some (g, w)
  | .fadd g w => some (g, w)
  | .fsub g w => some (g, w)
  | .fmul g w => some (g, w)
  | .ffma g w => some (g, w)
  | .fmin g w => some (g, w)
  | .fmax g w => some (g, w)
  | .frcp g w => some (g, w)
  | .frsq g w => some (g, w)
  | .fsqrt g w => some (g, w)
  | .fexp2 g w => some (g, w)
  | .flog2 g w => some (g, w)
  | .hzadd g w => some (g, w)
  | .cvt g w => some (g, w)
  | .cmp g w => some (g, w)
  | .plop g w => some (g, w)
  | .ptos g w => some (g, w)
  | .stop g w => some (g, w)
  | .pcnt g w => some (g, w)
  | .shfl g w => some (g, w)
  | .rdlane g w => some (g, w)
  | .ld g w => some (g, w)
  | .st g w => some (g, w)
  | .pref g w => some (g, w)
  | .ldl g w => some (g, w)
  | .stl g w => some (g, w)
  | .atom g w => some (g, w)
  | .red g w => some (g, w)
  | .ldfe g w => some (g, w)
  | .stfe g w => some (g, w)
  | .waitfe g w => some (g, w)
  | .syncSet g w => some (g, w)
  | .syncClear g w => some (g, w)
  | .syncWaitSet g w => some (g, w)
  | .syncWaitClear g w => some (g, w)
  | .syncPut g w => some (g, w)
  | .syncTake g w => some (g, w)
  | .syncTest g w => some (g, w)
  | .syncAdd g w => some (g, w)
  | .signal g w => some (g, w)
  | .waitsig g w => some (g, w)
  | .qload g w => some (g, w)
  | .qswap g w => some (g, w)
  | .qstream g w => some (g, w)
  | .qdrain g w => some (g, w)
  | .qzero g w => some (g, w)
  | .fence g w => some (g, w)
  | .complete g w => some (g, w)
  | .barGroup g w => some (g, w)
  | .barBlock g w => some (g, w)
  | .waithint g w => some (g, w)
  | .getsr g w => some (g, w)
  | .getsr64 g w _ => some (g, w)
  | .clrflags g w => some (g, w)
  | .gettid g w => some (g, w)
  | .moveq g w => some (g, w)
  | _ => .none

/-- The message of a coherence row, with the kind that the row names. -/
def Instr.message : Instr → Option (Msg × MsgKind)
  | .readS m _ => some (m, .readS)
  | .readU m _ => some (m, .readU)
  | .own m _ => some (m, .own)
  | .wb m _ => some (m, .wb)
  | .rdSnap m _ => some (m, .rdSnap)
  | .wrMerge m _ => some (m, .wrMerge)
  | .atomic m _ => some (m, .atomic)
  | .feOp m _ => some (m, .feOp)
  | .snpFwd m _ => some (m, .snpFwd)
  | .snpFwdU m _ => some (m, .snpFwdU)
  | .snpInv m _ => some (m, .snpInv)
  | .snpPeek m _ => some (m, .snpPeek)
  | .snpRecall m _ => some (m, .snpRecall)
  | .data m _ => some (m, .data)
  | .grant m _ => some (m, .grant)
  | .ack m => some (m, .ack)
  | .none m => some (m, .none)
  | .inFlight m => some (m, .inFlight)
  | .poisoned m => some (m, .poisoned)
  | .wbAck m => some (m, .wbAck)
  | .result m => some (m, .result)
  | .lost m => some (m, .lost)
  | .feWake m => some (m, .feWake)
  | _ => .none

/-- The row that a Drarak instruction's word names, with the lag of a GETSR64 kept. -/
def Instr.sameRow (i : Instr) (g : GRef) (w : DWord) : Bool :=
  match i with
  | .getsr64 _ _ l => decide (fClass w = 13 ∧ fOp w = 1) && decide (i = .getsr64 g w l)
  | _ => decide (decodeDrarak g w = i)

/-- The lane counts that a port can train with (R290). -/
def lanesOk (port : Fin 6) (lanes : Fin 5) : Bool :=
  decide (lanes.val = 1 ∨ lanes.val = 2 ∨ (lanes.val = 4 ∧ port.val < 2))

/-- A command is well-formed. -/
def Instr.wellFormed (i : Instr) : Bool :=
  match i.word with
  | some (g, w) => i.sameRow g w
  | .none =>
    match i.message with
    | some (m, k) => decide (m.kind = k)
    | .none =>
      match i with
      | .trainingComplete _ p l => lanesOk p l
      | .retrainComplete _ p l _ => lanesOk p l
      | .flitReceive _ _ b => decide (b.bytes.length = 272) && decide (b.flit.credits.length ≤ 4)
        && decide ((b.flit.parts.map fun p => p.count).sum ≤ 15)
      | .paceReport _ p _ => decide (p.toNat ≤ 0xFFFF)
      | .commandSubmit _ o _ _ _ => decide (o.toNat < 0x100000)
      | .registerWrite fn b4 o wide _ => decide (o.toNat % (if wide then 8 else 4) = 0)
        && (if b4 then decide (fn.val = 0) && decide (o.toNat < 2 ^ 20) else decide (fn.val = 0) || decide (o.toNat < 2 ^ 16))
      | .areaEnable _ a _ => (match a with | .ctxCq _ => false | _ => true)
      | _ => true

end Sys2Proof
end

