-- ==== Sys2Proof/Machine/Issue.lean ====
section
/-! DEFINITION. The issue of one instruction (R38, R66 to R69, R89 to R91): eligibility, fetch, the checks in
the order of R91, and the step to the next instruction. -/

namespace Sys2Proof.Machine

/-- What an instruction sees when it issues. -/
structure Issued where
  s : State
  g : GRef
  w : DWord
  core : Nat
  ch : Nat
  grp : Group
  blk : Block
  mask : Mask
  deriving DecidableEq, Repr

/-- The shape of an instruction: its encodings, what R67 checks, what it reads, and what R38 and R91 ask. `srcs` are the operands that it consumes
(R65); `waits` are further registers that it reads. -/
structure Form where
  encs : List (Nat × Nat)
  valid : Block → DWord → Bool
  uniform : Bool
  srcs : Issued → List (Opnd × Mask)
  waits : Issued → List Opnd
  dsts : DWord → List Opnd
  memory : Bool
  check : Issued → Option Exc
  ready : Issued → Bool

/-- The registers of two operands overlap. -/
def Opnd.overlaps (a b : Opnd) : Bool :=
  match a, b with
  | .reg sa ra na, .reg sb rb nb => decide (sa = sb) && decide (ra < rb + nb) && decide (rb < ra + na)
  | _, _ => false

/-- The registers that outstanding loads and queued QDRAINs have still to write for a group (R39). -/
def Core.awaited (c : Core) (slot : Nat) : List Opnd :=
  (c.loads.filter fun l => l.live && decide (l.slot.val = slot)).flatMap (fun l =>
      match l.kind with
      | .ld _ _ => l.lanes.map fun x => .reg false x.reg ((x.size + 3) / 4)
      | .atom ops => [.reg false l.dst (if ops.any fun o => match o with | .atom _ _ w _ _ _ => w | _ => true then 2 else 1)]
      | .fe _ _ => [.reg false l.dst 2])
    ++ (c.quern.queue.filter fun q => decide (q.slot.val = slot)).filterMap fun q =>
      match q.op with
      | .drain dst ot _ _ _ _ _ => some (.reg false dst (if ot = 4 then 2 else 1))
      | _ => none

/-- The instruction may read or write predicate `p`: its guard names it, or it is of a kind that names predicates
(class 0x5, SEL, class 0x9). -/
def namesPred (w : DWord) (p : Nat) : Bool :=
  (decide (fPg w = p) && !(decide (fPg w = 0) && fPgn w)) || decide (fClass w = 5) || decide (fClass w = 9)
    || (decide (fOp w = 14) && (decide (fClass w = 1) || decide (fClass w = 2)))

/-- The instruction depends on a predicate that an outstanding LDFE READ has still to write. -/
def Core.awaitsPred (c : Core) (slot : Nat) (w : DWord) : Bool :=
  c.loads.any fun l => l.live && decide (l.slot.val = slot)
    && (match l.kind with | .fe _ (some p) => namesPred w p.val | _ => false)

/-- The group holds entries beyond the 64 load slots or the 32 store-buffer entries, so its next
instruction waits (R38, R79). -/
def Core.overflowing (c : Core) (slot : Nat) : Bool :=
  ((c.loads.drop 64).any fun l => l.live && decide (l.slot.val = slot))
    || ((c.stores.drop 32).any fun e => e.live && decide (e.slot.val = slot))

/-- The next instruction of another group is eligible whatever it is, if the latency of its last instruction has passed (R38): nothing
is owed to the group, no fence of it is open, and the units accept any instruction. -/
def State.surelyEligible (s : State) (core slot : Nat) : Bool :=
  let c := s.core core
  let g := c.group slot
  g.live && g.active && decide (g.waiting = .no) && decide (g.mask ≠ 0) && !c.owing slot && decide (g.fences = [])
    && s.fenceMet core slot 2 0xFFFF s.tickets && decide (c.stores.length < 32) && decide (c.loads.length < 64) && decide (c.quern.queue = [])
    && decide ((s.cluster (clusterOfCore core)).queue.length + (s.cluster (clusterOfCore core)).forming.length < 64)

/-- It is the group's turn (R38): of the active groups that follow the one that issued last, in slot order, those before it are not eligible.
How long the latencies of R38 hold a group back is left open (notes/assumptions/50.md). -/
def State.hasTurn (s : State) (core slot : Nat) : Bool :=
  let c := s.core core
  let place (i : Nat) : Nat := (i + 15 - c.lastIssued.val) % 16
  !((c.groups.map Prod.fst).any fun i => decide (place i < place slot) && s.surelyEligible core i
    && !Config.latencyHolds core c.hs.toNat i)

/-- The quantum in force at a core (R42, R43): values below 0x0100 act as 0x0100. -/
def Core.rotationQuantum (c : Core) : Nat := Nat.max 0x100 c.quantum.toNat

/-- The group may be considered for issue: live, active, waiting for nothing, its turn, its core issuing and not at a rotation check
or a save (R17, R26, R38, R39, R42, R54, R398). -/
def State.mayIssue (s : State) (g : GRef) : Bool :=
  let x := s.group g
  let k := coreId g.core
  let c := s.core k
  x.live && x.active && decide (x.waiting = .no) && decide (x.mask ≠ 0)
    && s.issuing (channelOfCore k) && !s.stopsForSave k && decide (c.rotation < c.rotationQuantum)
    && !c.overflowing g.slot.val && s.hasTurn k g.slot.val

/-- The access of an instruction fetch. -/
def fetchAccess (pc : DWord) : Access := ⟨pc, false, true, false, false⟩

/-- The line of an instruction fetch: poisoned where its node is lost, poisoned and counted outside memory (R236), free where its newest
value is with another device (notes/assumptions/8.md), and else as the caches or the stacks hold it, with what a read of the stacks
finds (R241). -/
def State.fetchLine (s : State) (l : LineAddr) : BitVec 2 × State :=
  if s.lostNode l then (3, s)
  else if s.isLocal l && !s.inMemory l then (3, s.outOfRange l)
  else if s.valueAway l then
    let f := s.takeFree
    (f.1.extractLsb' 0 2, f.2)
  else ((s.newest l).poison, if (s.slice l).present then s else s.readMem l)

/-- An instruction is fetched through a TLB hit (R258, R261): whether the half that holds it is poisoned, and the state after it. -/
def State.fetch (s : State) (cl ctx : Nat) (pc : DWord) (pa : Nat) : Bool × State :=
  let r := (s.tlbTouch cl ctx pc).fetchLine (lineOfPa pa)
  (r.1.getLsbD ((pa % 128) / 64), r.2)

/-- The group waits for a translation (R257, R260, R261). -/
def State.waitWalk (s : State) (core slot : Nat) (ctx : Nat) (cls : Fin 4) (a : Access) : State :=
  (s.startWalk (channelOfCore core) ctx cls ⟨core, ⟨slot % 16, Nat.mod_lt _ (by decide)⟩, a⟩).modGroupAt core slot
    fun g => { g with waiting := .walk }

/-- The core tags the instruction it issues (R428): while EN, one at a time, with probability 2^−PERIOD
taken from a free value, whose sequence the spec does not define. -/
def State.tagIssue (s : State) (i : Issued) : State :=
  let c := s.chan i.ch
  if c.tagCfg.getLsbD 31 && decide ((s.core i.core).tagged = none)
      && (!c.tagCfg.getLsbD 19 || decide ((c.tagCfg.toNat >>> 20) % 2048 = i.blk.ctx.val)) then
    let f := s.takeFree
    let period := Nat.max 16 ((c.tagCfg.toNat >>> 9) % 32)
    if f.1.toNat % 2 ^ period = 0 then
      let s1 := f.2.elapse i.ch
      let t : Tagged :=
        { slot := i.g.slot, ref := (s1.chan i.ch).refcnt, pc := i.grp.pc, instrHi := i.w.extractLsb' 32 32,
          ctx := i.blk.ctx, eff := i.blk.eff, flags := 0, lines := 0, left := 0,
          fresh := true, fault := false, done := false }
      s1.modCore i.core fun k => { k with tagged := some t }
    else f.2
  else s

/-- One instruction issues: it is counted (R418, R423), the slot becomes the one that issued last (R38). An
instruction that issued before and waited for its translations is not counted again. -/
def State.noteIssue (s : State) (i : Issued) : State :=
  if i.grp.missed then s.modGroup i.g fun g => { g with missed := false }
  else
    (((s.countCore i.core 0x01 1 i.blk.ctx.val).modCore i.core fun c =>
      { c with hs := c.hs + 1, rotation := c.rotation + 1, lastIssued := i.g.slot }).modGroup i.g fun g =>
        { g with quietSince := (i.s.core i.core).hs + 1 }).tagIssue i

/-- The tagged instruction of a core meets an exception or the fault path (R428, R429). -/
def State.tagFault (s : State) (core slot : Nat) : State :=
  s.modCore core fun c => match c.tagged with
    | some t => if t.slot.val = slot && t.fresh then { c with tagged := some { t with fault := true, done := true, fresh := false } } else c
    | none => c

/-- The tagged instruction of a core ends at its issue. -/
def State.tagDone (s : State) (core slot : Nat) : State :=
  s.modCore core fun c => match c.tagged with
    | some t => if t.slot.val = slot && t.fresh then { c with tagged := some { t with done := true, fresh := false } } else c
    | none => c

/-- The group's instruction that issues now is the tagged one. -/
def Core.tagging (c : Core) (slot : Nat) : Bool :=
  match c.tagged with
  | some t => decide (t.slot.val = slot) && t.fresh
  | none => false

/-- The tagged instruction has formed its line requests; `left` of them are still outstanding (R429). -/
def State.tagLines (s : State) (core slot lines left : Nat) (flags : BitVec 5) : State :=
  s.modCore core fun c => match c.tagged with
    | some t =>
      if t.slot.val = slot && t.fresh then
        { c with tagged := some { t with lines := lines, left := left, flags := t.flags ||| flags, fresh := false,
                                         done := decide (left = 0) } }
      else c
    | none => c

/-- One line request of the tagged instruction has returned or been acknowledged. -/
def State.tagReturn (s : State) (core : Nat) : State :=
  s.modCore core fun c => match c.tagged with
    | some t => { c with tagged := some { t with left := t.left - 1, done := t.done || decide (t.left ≤ 1) } }
    | none => c

/-- An exception found at issue: the group stops before the instruction (R89). -/
def Issued.stop (i : Issued) (x : Exc) : State := (i.s.raise i.core i.g.slot.val x).tagFault i.core i.g.slot.val

/-- An exception at the instruction. -/
def Issued.exc (i : Issued) (code : Byte) (lanes : Mask) (detail : DWord) : Exc := ⟨code, i.grp.pc, lanes, detail⟩

/-- ILLEGAL_INSTRUCTION with instruction bits [63:32] (R89). -/
def Issued.illegal (i : Issued) : Exc := i.exc 0x01 i.mask (i.w >>> 32)

/-- The instruction waits for the translation of an access (R260). -/
def Issued.waitAccess (i : Issued) (a : Access) : State :=
  (i.s.waitWalk i.core i.g.slot.val i.blk.ctx.val i.blk.eff a).modGroup i.g fun g => { g with missed := true }

/-- The instruction has had its effect: the group goes on with the changed registers `f`. -/
def Issued.done (i : Issued) (s : State) (f : Group → Group) : Out :=
  .next ((s.modGroup i.g fun g => (f g).advance).tagDone i.core i.g.slot.val)

/-- As `done`, for an instruction that has stages after issue: it stays tagged. -/
def Issued.doneLater (i : Issued) (s : State) (f : Group → Group) : Out :=
  .next (s.modGroup i.g fun g => (f g).advance)

/-- As `done`, for an instruction that makes the group wait: the group stands at the next instruction, and
reconverges when it is woken. -/
def Issued.hold (i : Issued) (s : State) (f : Group → Group) (wt : Waiting) : State :=
  (s.modGroup i.g fun g => { (f g) with pc := g.pc + 8, waiting := wt }).tagDone i.core i.g.slot.val

/-- As `done`, for an instruction that sets the program address itself. -/
def Issued.jump (i : Issued) (s : State) (f : Group → Group) : Out :=
  .next ((s.modGroup i.g fun g => (f g).settle).tagDone i.core i.g.slot.val)

/-- What the issue of the word sees. -/
def State.issued (s : State) (g : GRef) (w : DWord) : Issued :=
  let grp := s.group g
  { s := s, g := g, w := w, core := coreId g.core, ch := channelOfCore (coreId g.core), grp := grp,
    blk := s.blockOf g, mask := execMask grp w }

/-- The registers that the instruction reads or writes, or its guard, are still to be written (R39). -/
def Form.blocked (f : Form) (i : Issued) : Bool :=
  let c := i.s.core i.core
  let regs := ((f.srcs i).map Prod.fst) ++ f.waits i ++ f.dsts i.w
  let aw := c.awaited i.g.slot.val
  (regs.any fun r => aw.any fun a => r.overlaps a) || c.awaitsPred i.g.slot.val i.w

/-- The order of R91 after the fetch: ILLEGAL_INSTRUCTION, an empty mask on a group-uniform instruction
(R69), errors of the words read (R28, R61; their place in the order is the model's choice, notes/assumptions/73.md), POISON, the conditions found at issue, then the effect. -/
def Form.checks (f : Form) (i : Issued) (run : Issued → Out) : Out :=
  if !f.valid i.blk i.w then .next (i.stop i.illegal)
  else if f.uniform && decide (i.mask = 0) then i.done i.s id
  else
    match i.g.ecc with
    | .double lanes => .next (i.s.coreDataError i.core (some (i.s.readerAt i.core i.g.slot.val lanes i.grp.pc)))
    | e =>
      let i := match e with
        | .corrected n => { i with s := i.s.correctedError i.core n }
        | _ => i
      match i.grp.firstPoison (f.srcs i) with
      | some d => .next (i.stop (i.exc 0x09 (d.extractLsb' 0 16) d))
      | none =>
        match f.check i with
        | some x => .next (i.stop x)
        | none => run i

/-- No fence that the group issued before holds back an instruction of these lanes that accesses memory (R47, R168, R169). -/
def Form.fenceOk (f : Form) (i : Issued) : Bool := !f.memory || !i.s.fenced i.core i.g.slot.val i.mask

/-- The issue of one instruction word by a group. -/
def Form.issue (f : Form) (g : GRef) (w : DWord) (s : State) (run : Issued → Out) : Out :=
  if (fClass w, fOp w) ∉ f.encs then .refused .illFormed
  else
    enabled (s.mayIssue g) "the group does not issue" <|
      let i := s.issued g w
      match s.tlbHit (clusterOfCore i.core) i.blk.ctx.val (fetchAccess i.grp.pc) with
      | none => .next (s.waitWalk i.core g.slot.val i.blk.ctx.val i.blk.eff (fetchAccess i.grp.pc))
      | some pa =>
        let r := s.fetch (clusterOfCore i.core) i.blk.ctx.val i.grp.pc pa
        if r.1 then
          .next ({ i with s := r.2 }.stop (if f.valid i.blk w then i.exc 0x09 0xFFFF 0xFFFFFFFF else i.illegal))
        else
          enabled (!f.blocked i && f.ready i && f.fenceOk i) "the instruction is not eligible" <|
            f.checks { i with s := r.2.noteIssue i } run

/-- What the fetch of a group's instruction gives, where it translates. -/
def State.fetched (s : State) (i : Issued) : Option (Bool × State) :=
  (s.tlbHit (clusterOfCore i.core) i.blk.ctx.val (fetchAccess i.grp.pc)).map fun pa =>
    s.fetch (clusterOfCore i.core) i.blk.ctx.val i.grp.pc pa

/-- The state after the fetch of a group's instruction. -/
def State.afterFetch (s : State) (i : Issued) : State :=
  match s.fetched i with
  | some r => r.2
  | none => s

/-- The state in which a group's instruction is executed: it has been fetched, and its issue is noted. -/
def State.atIssue (s : State) (i : Issued) : State := (s.afterFetch i).noteIssue i

/-- The instruction issues: its word is of the form's row, its group may issue and nothing that the form waits for holds it back
(R38, R39, R169), and its fetch is translated and not poisoned (R257, R261). -/
def Form.issues (f : Form) (g : GRef) (w : DWord) (s : State) : Bool :=
  let i := s.issued g w
  decide ((fClass w, fOp w) ∈ f.encs) && s.mayIssue g
    && decide ((s.fetched i).map Prod.fst = some false)
    && !f.blocked i && f.ready i && f.fenceOk i

/-- The instruction reaches its effect: it issues, and nothing that R91 checks before the effect stops it. -/
def Form.clear (f : Form) (g : GRef) (w : DWord) (s : State) : Bool :=
  let i := s.issued g w
  let j := { i with s := s.atIssue i }
  f.issues g w s && f.valid i.blk w && !(f.uniform && decide (i.mask = 0))
    && decide (g.ecc = .ok) && (i.grp.firstPoison (f.srcs j)).isNone && (f.check j).isNone

/-- A form that consumes nothing and has no condition of its own. -/
def Form.plain (encs : List (Nat × Nat)) (valid : Block → DWord → Bool) (uniform : Bool) : Form :=
  { encs := encs, valid := valid, uniform := uniform, srcs := fun _ => [], waits := fun _ => [], dsts := fun _ => [], memory := false,
    check := fun _ => none, ready := fun _ => true }

/-- The fields of form R that a class leaves unused must be zero (R67). -/
def unusedR (w : DWord) (d a b c : Bool) : Bool :=
  (!d || decide (fD w = 0)) && (!a || (decide (fA w = 0) && !fAs w)) && (!b || (decide (fB w = 0) && !fBs w))
    && (!c || (decide (fC w = 0) && !fCs w))

end Sys2Proof.Machine
end

