-- ==== Sys2Proof/Machine/Alu.lean ====
section
/-! DEFINITION. Classes 0x1 and 0x2: scalar and vector integer and logic (R74, R452). -/

namespace Sys2Proof.Machine

/-- The integer types, and the types of MOV and SEL (R71). -/
def intTypes : List Nat := [0, 1, 2, 3]
def movTypes : List Nat := [0, 1, 2, 3, 4]

/-- The types of 64 bits, and the signed types. -/
def isWide (t : Nat) : Bool := decide (typeWords t = 2)
def isSigned (t : Nat) : Bool := t = 1 || t = 3

/-- The value of a type's operand as an integer. -/
def asInt (t : Nat) (x : DWord) : Int :=
  if isWide t then (if isSigned t then x.toInt else x.toNat)
  else if isSigned t then (loWord x).toInt else ((loWord x).toNat : Int)

/-- The class-0x1 rule that AS, BS and CS are 0 (R74). -/
def scalarBits (w : DWord) : Bool := !decide (fClass w = 1) || (!fAs w && (fFmt w || (!fBs w && !fCs w)))

/-- What R67 and R452 ask of an operation of classes 0x1 to 0x3 with `k` sources whose types are `types` and
whose modifiers in X are `xbits`: defined types, registers that the group has, unused fields zero. -/
def arithValid (k : Nat) (types : List Nat) (xbits : Nat) (b : Block) (w : DWord) : Bool :=
  let n := typeWords (fType w)
  let sc := decide (fClass w = 1)
  decide (fType w ∈ types) && scalarBits w && regOk b.regs sc (fD w) n
    && (opndA w n).ok b.regs
    && (if fFmt w then decide (2 ≤ k)
        else xOnly w xbits && unusedR w false false (decide (k < 2)) (decide (k < 3))
          && (decide (k < 2) || (opndB w n).ok b.regs))
    && (decide (k < 3) || (opndC w n).ok b.regs)

/-- The sources of such an operation, in the order of R451. -/
def arithSrcs (k : Nat) (i : Issued) : List (Opnd × Mask) :=
  let n := typeWords (fType i.w)
  ([(opndA i.w n, i.mask)] ++ (if 2 ≤ k then [(opndB i.w n, i.mask)] else [])
    ++ if 3 ≤ k then [(opndC i.w n, i.mask)] else [])

/-- The form of an operation of classes 0x1 and 0x2. -/
def aluForm (op k : Nat) (types : List Nat) (xbits : Nat) : Form :=
  { encs := [(1, op), (2, op)], valid := arithValid k types xbits, uniform := false
    srcs := arithSrcs k, waits := fun _ => []
    dsts := fun w => [.reg (decide (fClass w = 1)) (fD w) (typeWords (fType w))]
    memory := false, check := fun _ => none, ready := fun _ => true }

/-- Class 0x1 is group-uniform (R69). -/
def Form.byClass (f : Form) (w : DWord) : Form := { f with uniform := decide (fClass w = 1) }

/-- Write the result: one scalar register, or the lanes of the execution mask (R68, R69). -/
def Issued.write (i : Issued) (f : Nat → DWord) (g : Group) : Group :=
  let wide := isWide (fType i.w)
  if fClass i.w = 1 then g.putS (fD i.w) wide (f (lowLane i.mask)) else g.putV (fD i.w) wide i.mask f

/-- The operands of a lane. -/
def Issued.a (i : Issued) (lane : Nat) : DWord := i.grp.opVal (opndA i.w (typeWords (fType i.w))) lane
def Issued.b (i : Issued) (lane : Nat) : DWord := i.grp.opVal (opndB i.w (typeWords (fType i.w))) lane
def Issued.c (i : Issued) (lane : Nat) : DWord := i.grp.opVal (opndC i.w (typeWords (fType i.w))) lane

/-- The shift amount: the low 5 or 6 bits of B (R74). -/
def shiftAmount (t : Nat) (b : DWord) : Nat := b.toNat % (if isWide t then 64 else 32)

/-- An operation on integers of the instruction's type, narrowed by wrapping. -/
def Issued.int (i : Issued) (f : Int → Int → Int → Int) (lane : Nat) : DWord :=
  let t := fType i.w
  BitVec.ofInt 64 (f (asInt t (i.a lane)) (asInt t (i.b lane)) (asInt t (i.c lane)))

/-- The number of leading zeros of a `n`-bit value. -/
def clzNat (n x : Nat) : Nat := if x = 0 then n else n - 1 - Nat.log2 x

/-- Issue an operation of classes 0x1 and 0x2 whose result in a lane is `f`. -/
def execAlu (op k : Nat) (types : List Nat) (f : Issued → Nat → DWord) (g : GRef) (w : DWord) (s : State) : Out :=
  ((aluForm op k types 0).byClass w).issue g w s fun i => i.done i.s (i.write (f i))

/-- MOV's form I takes IMM, and A is unused (R452). -/
def movValid (b : Block) (w : DWord) : Bool :=
  if fFmt w then decide (fType w ∈ movTypes) && scalarBits w && unusedR w false true false false
      && regOk b.regs (decide (fClass w = 1)) (fD w) (typeWords (fType w))
  else arithValid 1 movTypes 0 b w

/-- The shape of MOV. -/
def movForm (w : DWord) : Form :=
  { (aluForm 0 1 movTypes 0).byClass w with
      valid := movValid, srcs := fun i => if fFmt i.w then [] else arithSrcs 1 i }

/-- MOV. -/
def execMov (g : GRef) (w : DWord) (s : State) : Out :=
  (movForm w).issue g w s
    fun i => i.done i.s (i.write fun l => if fFmt w then immOf w else i.a l)

/-- ADD. -/
def execAdd (g : GRef) (w : DWord) (s : State) : Out :=
  execAlu 1 2 intTypes (fun i => i.int fun a b _ => a + b) g w s

/-- SUB. -/
def execSub (g : GRef) (w : DWord) (s : State) : Out :=
  execAlu 2 2 intTypes (fun i => i.int fun a b _ => a - b) g w s

/-- MUL: the low half. -/
def execMul (g : GRef) (w : DWord) (s : State) : Out :=
  execAlu 3 2 intTypes (fun i => i.int fun a b _ => a * b) g w s

/-- MULHI: the high 32 bits of the 64-bit product. -/
def execMulhi (g : GRef) (w : DWord) (s : State) : Out :=
  execAlu 4 2 [0, 1] (fun i => i.int fun a b _ => (a * b) / 2 ^ 32) g w s

/-- MAD. -/
def execMad (g : GRef) (w : DWord) (s : State) : Out :=
  execAlu 5 3 intTypes (fun i => i.int fun a b c => a * b + c) g w s

/-- MIN, signed or unsigned by TYPE. -/
def execMin (g : GRef) (w : DWord) (s : State) : Out :=
  execAlu 6 2 intTypes (fun i => i.int fun a b _ => if a ≤ b then a else b) g w s

/-- MAX. -/
def execMax (g : GRef) (w : DWord) (s : State) : Out :=
  execAlu 7 2 intTypes (fun i => i.int fun a b _ => if a ≤ b then b else a) g w s

/-- AND. -/
def execAnd (g : GRef) (w : DWord) (s : State) : Out :=
  execAlu 8 2 intTypes (fun i l => i.a l &&& i.b l) g w s

/-- OR. -/
def execOr (g : GRef) (w : DWord) (s : State) : Out :=
  execAlu 9 2 intTypes (fun i l => i.a l ||| i.b l) g w s

/-- XOR. -/
def execXor (g : GRef) (w : DWord) (s : State) : Out :=
  execAlu 10 2 intTypes (fun i l => i.a l ^^^ i.b l) g w s

/-- SHL. -/
def execShl (g : GRef) (w : DWord) (s : State) : Out :=
  execAlu 11 2 intTypes (fun i l => i.a l <<< shiftAmount (fType w) (i.b l)) g w s

/-- SHR, logical. -/
def execShr (g : GRef) (w : DWord) (s : State) : Out :=
  execAlu 12 2 intTypes (fun i l => i.a l >>> shiftAmount (fType w) (i.b l)) g w s

/-- SAR, arithmetic: the sign is bit 31 or bit 63 whatever the type's own sign. -/
def execSar (g : GRef) (w : DWord) (s : State) : Out :=
  execAlu 13 2 intTypes (fun i l =>
    let k := shiftAmount (fType w) (i.b l)
    if isWide (fType w) then (i.a l).sshiftRight k else ((loWord (i.a l)).sshiftRight k).setWidth 64) g w s

/-- The shape of SEL. -/
def selForm (w : DWord) : Form :=
  (aluForm 14 2 movTypes 0x38000).byClass w

/-- SEL: p(X[17:15]) chooses A or B in each lane; in class 0x1 its bit of the lowest lane of the execution
mask (R74). -/
def execSel (g : GRef) (w : DWord) (s : State) : Out :=
  (selForm w).issue g w s fun i =>
    let p := i.grp.pmask (xOf w / 2 ^ 15)
    i.done i.s (i.write fun l => if p.getLsbD l then i.a l else i.b l)

/-- POPC. -/
def execPopc (g : GRef) (w : DWord) (s : State) : Out :=
  execAlu 15 1 [0, 2] (fun i l => BitVec.ofNat 64 (popcount (i.a l))) g w s

/-- CLZ. -/
def execClz (g : GRef) (w : DWord) (s : State) : Out :=
  execAlu 16 1 [0, 2] (fun i l => BitVec.ofNat 64 (clzNat (if isWide (fType w) then 64 else 32) (i.a l).toNat)) g w s

end Sys2Proof.Machine
end

