-- ==== Sys2Proof/Machine/Control.lean ====
section
/-! DEFINITION. Class 0x0, control (R44 to R46, R66, R67, R73): ILLEGAL, NOP, BRA, BRX, JMPL, JMPR, EXIT, TRAP. -/

namespace Sys2Proof.Machine

/-- TYPE, D, A, FMT and AS of bits [63:32] are zero. -/
def headClear (w : DWord) : Bool := decide (fieldOf w 49 32 = 0)
/-- Bits [31:0] are zero. -/
def bodyClear (w : DWord) : Bool := decide (fieldOf w 31 0 = 0)

/-- Go on at an address; the caller has set the mask and the stack. -/
def Group.goTo (g : Group) (pc : DWord) : Group := { g with pc := pc }

/-- The address of the next instruction. -/
def Group.next (g : Group) : DWord := g.pc + 8

/-- The distinct targets that the active lanes name, with their lanes, in the ascending order of the lowest
lane that names each (R44). -/
def pathsOf (target : Nat → DWord) : List Nat → List (DWord × Mask)
  | [] => []
  | i :: t =>
    let rest := pathsOf target t
    let here : Mask := BitVec.ofNat 16 (2 ^ i)
    let same := rest.find? fun p => decide (p.1 = target i)
    (target i, here ||| ((same.map Prod.snd).getD 0)) :: rest.filter fun p => !decide (p.1 = target i)

/-- Take a branch whose active lanes name the given paths (R44): one path changes no stack entry; more push a
join and one deferred entry for each path but the first. -/
def Group.branch (g : Group) (join : DWord) (paths : List (DWord × Mask)) : Group :=
  match paths with
  | [] => g.goTo g.next
  | [p] => g.goTo p.1
  | p :: t =>
    { g with pc := p.1, mask := p.2,
             stack := t.map (fun x => ⟨.deferred, x.1, x.2⟩) ++ (⟨.join, join, g.mask⟩ :: g.stack) }

/-- The branch would make the stack exceed its 32 entries (R46). -/
def Group.tooDeep (g : Group) (paths : List (DWord × Mask)) : Bool :=
  decide (2 ≤ paths.length) && decide (32 < g.stack.length + paths.length)

/-- The paths of a BRA: the taken lanes first, then the lanes outside the guard (R44). -/
def braPaths (i : Issued) : List (DWord × Mask) :=
  let taken := i.mask
  let not := i.grp.mask &&& ~~~taken
  if taken = 0 then [(i.grp.next, not)]
  else if not = 0 then [(i.grp.pc + brTarget i.w, taken)]
  else [(i.grp.pc + brTarget i.w, taken), (i.grp.next, not)]

/-- The address that an active lane of a BRX names: its v(A), v(A+1) in the execution mask, else the next
instruction (R44). -/
def brxTarget (i : Issued) (lane : Nat) : DWord :=
  if i.mask.getLsbD lane then i.grp.opVal (.reg false (fA i.w) 2) lane else i.grp.next

def brxPaths (i : Issued) : List (DWord × Mask) := pathsOf (brxTarget i) (lanesOf i.grp.mask)

/-- DIVERGENCE_DEPTH at the branch, with the stack depth (R46, R89). -/
def Issued.depthExc (i : Issued) : Exc := i.exc 0x05 i.mask (BitVec.ofNat 64 i.grp.stack.length)

/-- A divergent branch counts DIVERGE (R423). -/
def Issued.countPaths (i : Issued) (paths : List (DWord × Mask)) : State :=
  if 2 ≤ paths.length then i.s.countCore i.core 0x09 1 i.blk.ctx.val else i.s

/-- The lowest of the addresses that the lanes name. -/
def lowestOf (lanes : List Nat) (addr : Nat → DWord) : DWord :=
  BitVec.ofNat 64 (lanes.foldl (fun m i => Nat.min m (addr i).toNat) (2 ^ 64 - 1))

/-- ILLEGAL and every word whose CLASS or OP is not defined (R67). -/
def execIllegal (g : GRef) (w : DWord) (s : State) : Out :=
  if decodeDrarak g w = .illegal g w then
    (Form.plain [(fClass w, fOp w)] (fun _ _ => false) false).issue g w s fun i => i.done i.s id
  else .refused .illFormed

/-- The shape of NOP. -/
def nopForm : Form :=
  Form.plain [(0, 1)] (fun _ w => headClear w && bodyClear w) false

/-- NOP (R70). -/
def execNop (g : GRef) (w : DWord) (s : State) : Out :=
  nopForm.issue g w s fun i => i.done i.s id

/-- The shape of BRA. -/
def braForm : Form :=
  { Form.plain [(0, 2)] (fun _ w => headClear w) false with
      check := fun i => if i.grp.tooDeep (braPaths i) then some i.depthExc else none }

/-- BRA (R44, R73). -/
def execBra (g : GRef) (w : DWord) (s : State) : Out :=
  braForm.issue g w s
    fun i => i.jump (i.countPaths (braPaths i)) fun g => g.branch (i.grp.pc + brJoin w) (braPaths i)

/-- The shape of BRX. -/
def brxForm : Form :=
  { Form.plain [(0, 3)] (fun b w => decide (fType w = 0) && decide (fD w = 0) && !fFmt w && !fAs w
        && decide (fieldOf w 31 16 = 0) && regOk b.regs false (fA w) 2) false with
      srcs := fun i => [(.reg false (fA i.w) 2, i.mask)]
      check := fun i =>
        let bad := (lanesOf i.mask).filter fun l => decide ((brxTarget i l).toNat % 8 ≠ 0)
        if bad ≠ [] then
          some (i.exc 0x02 (maskOf fun l => decide (l ∈ bad)) (lowestOf bad (brxTarget i)))
        else if i.grp.tooDeep (brxPaths i) then some i.depthExc else none }

/-- BRX (R44, R73): a target that is no multiple of 8 raises MISALIGNED (R66), before the depth is looked
at (R91). -/
def execBrx (g : GRef) (w : DWord) (s : State) : Out :=
  brxForm.issue g w s
    fun i => i.jump (i.countPaths (brxPaths i)) fun g => g.branch (i.grp.pc + brJoin w) (brxPaths i)

/-- The shape of JMPL. -/
def jmplForm : Form :=
  { Form.plain [(0, 4)] (fun b w => decide (fType w = 0) && decide (fA w = 0) && !fFmt w && !fAs w
        && decide (fieldOf w 15 0 = 0) && regOk b.regs true (fD w) 2) true with
      dsts := fun w => [.reg true (fD w) 2] }

/-- JMPL (R73): the whole group moves and keeps its mask; s(D), s(D+1) receive the next instruction. -/
def execJmpl (g : GRef) (w : DWord) (s : State) : Out :=
  jmplForm.issue g w s
    fun i => i.jump i.s fun g => (g.putS (fD w) true i.grp.next).goTo (i.grp.pc + brTarget w)

/-- The shape of JMPR. -/
def jmprForm : Form :=
  { Form.plain [(0, 5)] (fun b w => decide (fType w = 0) && decide (fD w = 0) && !fFmt w && fAs w
        && bodyClear w && regOk b.regs true (fA w) 2) true with
      srcs := fun i => [(.reg true (fA i.w) 2, i.mask)]
      check := fun i =>
        let a := i.grp.opVal (.reg true (fA i.w) 2) 0
        if a.toNat % 8 ≠ 0 then some (i.exc 0x02 i.mask a) else none }

/-- JMPR (R73): to the address in s(A), s(A+1). -/
def execJmpr (g : GRef) (w : DWord) (s : State) : Out :=
  jmprForm.issue g w s
    fun i => i.jump i.s fun g => g.goTo (i.grp.opVal (.reg true (fA w) 2) 0)

/-- A QDRAIN that the group issued has not written its registers (R110). -/
def Core.draining110 (c : Core) (slot : Nat) : Bool :=
  c.quern.queue.any fun q => decide (q.slot.val = slot) && (match q.op with | .drain .. => true | _ => false)

/-- Every lane of the group that has not exited: its running lanes and those of its stack. -/
def Group.lanesLeft (g : Group) : Mask := g.stack.foldl (fun m e => m ||| e.mask) g.mask

/-- The shape of EXIT. -/
def exitForm : Form :=
  { Form.plain [(0, 6)] (fun _ w => headClear w && bodyClear w) false with
      ready := fun i => !(decide (i.grp.lanesLeft &&& ~~~i.mask = 0)
        && (i.s.core i.core).draining110 i.g.slot.val) }

/-- EXIT (R45): the lanes leave every mask; with the last lane the group ends. -/
def execExit (g : GRef) (w : DWord) (s : State) : Out :=
  exitForm.issue g w s
    fun i =>
      let left := i.grp.lanesLeft &&& ~~~i.mask
      let s1 := i.s.tagDone i.core i.g.slot.val
      if left = 0 then .next (s1.endGroup i.core i.g.slot.val)
      else .next (s1.modGroup i.g fun g => (g.leave i.mask).advance)

/-- The shape of TRAP. -/
def trapForm : Form :=
  { Form.plain [(0, 7)] (fun _ w => decide (fType w = 0) && decide (fD w = 0) && decide (fA w = 0) && fFmt w && !fAs w
        && decide (fieldOf w 31 16 = 0)) false with
      check := fun i => if i.mask = 0 then none
        else some (i.exc 0x0A i.mask (BitVec.ofNat 64 (fieldOf i.w 15 0))) }

/-- TRAP (R89): form I, IMM[15:0] is the trap code. With an empty execution mask it has no effect
(DEDUCED, notes/assumptions/11.md). -/
def execTrap (g : GRef) (w : DWord) (s : State) : Out :=
  trapForm.issue g w s
    fun i => i.done i.s id

end Sys2Proof.Machine
end

