-- ==== Sys2Proof/Machine/Fences.lean ====
section
/-! DEFINITION. Class 0xC: FENCE, COMPLETE, the core barriers and WAITHINT (R47, R48, R51, R168 to R171). -/

namespace Sys2Proof.Machine

/-- Class 0xC uses form R with only the bits `x` of X; everything else is zero (R67). -/
def fenceValid (x : Nat) (_ : Block) (w : DWord) : Bool :=
  headClear w && decide (fieldOf w 31 18 = 0) && xOnly w x

/-- The scope or barrier number, X[17:16]. -/
def fenceSel (w : DWord) : Fin 4 := ⟨fieldOf w 17 16, by simp only [fieldOf]; omega⟩

/-- A fence stands before the next memory instructions of some lanes: everything that these lanes have issued so far is covered (R47, R168). Fences
whose conditions hold are gone. -/
def State.addFence (s : State) (g : GRef) (sc : Fin 4) (lanes : Mask) : State :=
  let k := coreId g.core
  let f := s.stamp
  f.2.modGroup g fun x =>
    { x with fences := (x.fences.filter fun p => !s.fenceMet k g.slot.val p.scope.val p.lanes p.upto)
        ++ if lanes = 0 then [] else [⟨sc, lanes, f.1⟩] }

/-- The shape of FENCE. -/
def fenceForm : Form :=
  Form.plain [(12, 0)] (fenceValid 0x30000) true

/-- FENCE: later instructions that access memory wait for its condition; others go on. -/
def execFence (g : GRef) (w : DWord) (s : State) : Out :=
  fenceForm.issue g w s fun i =>
    i.done (i.s.addFence g (fenceSel w) 0xFFFF) id

/-- The end of a COMPLETE's wait (R181): a non-zero lost tally raises DEST_LOST, recorded at the next
instruction, and is cleared; otherwise the group goes on. -/
def State.completeCheck (s : State) (core slot : Nat) : State :=
  let g := s.groupAt core slot
  if g.lost = 0 then (s.modGroupAt core slot Group.wake).noteReady core slot
  else
    let s1 := s.modGroupAt core slot fun x => { x with lost := 0, lostAddr := 0, lostStamp := 0 }
    s1.raise core slot ⟨0x08, g.pc, g.mask,
      BitVec.ofNat 64 (Nat.min g.lost 127 * 2 ^ 57 + g.lostAddr.toNat % 2 ^ 57)⟩

/-- The condition of a COMPLETE (R159, R170): at group and block scope that of the FENCE; at device scope the accesses whose home is on
this device have been performed, at system scope all have. -/
def State.completeMet (s : State) (core slot : Nat) (scope : Nat) (upto : Nat) : Bool :=
  if scope = 2 then
    let c := s.core core
    !(c.loads.any fun l => l.live && decide (l.slot.val = slot) && decide (l.stamp < upto) && s.isLocal l.line)
      && !(c.stores.any fun e => e.live && decide (e.slot.val = slot) && decide (e.stamp < upto) && s.isLocal e.line)
  else s.fenceMet core slot scope 0xFFFF upto

/-- The shape of COMPLETE. -/
def completeForm : Form :=
  Form.plain [(12, 1)] (fenceValid 0x30000) true

/-- COMPLETE: the group waits until the condition of its scope holds (R170);
where it holds already, the wait ends at once. -/
def execComplete (g : GRef) (w : DWord) (s : State) : Out :=
  completeForm.issue g w s fun i =>
    let sc := fenceSel w
    let f := i.s.stamp
    let s1 := i.hold f.2 id (.complete sc f.1)
    .next (if s1.completeMet i.core g.slot.val sc.val f.1 then s1.completeCheck i.core g.slot.val else s1)

/-- The accesses of a core have moved on: groups that wait in a COMPLETE are looked at again (R170, R178). -/
def State.recheckCompletes (s : State) (core : Nat) : State :=
  (List.range 16).foldl (fun acc slot =>
    let g := acc.groupAt core slot
    match g.waiting with
    | .complete sc upto =>
      if g.live && acc.completeMet core slot sc.val upto then acc.completeCheck core slot else acc
    | _ => acc) s

/-- The shape of BARGROUP. -/
def barGroupForm : Form :=
  Form.plain [(12, 2)] (fenceValid 0) false

/-- BAR.group completes when issued, with the effect of FENCE.group for the lanes that execute it (R47). -/
def execBarGroup (g : GRef) (w : DWord) (s : State) : Out :=
  barGroupForm.issue g w s fun i => i.done (i.s.addFence g 0 i.mask) id

/-- Arrive at a block barrier (R48): the count of its stall restarts under the limit in force; a phase raises once (R49, R204). -/
def Block.arrive (b : Block) (bar : Nat) (slot : Fin 16) (limit : Word) : Block :=
  { b with bars := tmod Barrier.fresh b.bars bar fun x => { x with arrived := x.arrived ++ [slot], stall := 0, limit := limit } }

/-- The shape of BARBLOCK. -/
def barBlockForm : Form :=
  { Form.plain [(12, 3)] (fenceValid 0x30000) false with
      ready := fun i => decide (i.mask = 0) || i.s.fenceMet i.core i.g.slot.val 1 0xFFFF i.s.tickets }

/-- BAR.block: with any lanes active the group arrives and waits until the phase completes, with the effect
of FENCE.block on both sides (R48). It is not eligible before the condition of that fence holds. -/
def execBarBlock (g : GRef) (w : DWord) (s : State) : Out :=
  barBlockForm.issue g w s fun i =>
    if i.mask = 0 then i.done i.s id
    else
      let bar := fenceSel w
      let s1 := i.hold (i.s.addFence g 1 0xFFFF) id (.barrier bar)
      let s2 := s1.modBlockAt i.core i.grp.block.val fun b => b.arrive bar.val g.slot (i.s.chan i.ch).stallLimit
      .next (s2.settleBarriers i.core i.grp.block.val)

/-- The shape of WAITHINT. -/
def waithintForm : Form :=
  { Form.plain [(12, 4)] (fenceValid 0) false with
      check := fun i => if i.mask ≠ 0 && decide (32 ≤ i.grp.stack.length) then some i.depthExc else none }

/-- WAITHINT (R51): the lanes leave the running path and a yielded entry is pushed at the next instruction. -/
def execWaithint (g : GRef) (w : DWord) (s : State) : Out :=
  waithintForm.issue g w s
    fun i =>
      if i.mask = 0 then i.done i.s id
      else
        i.jump i.s fun x =>
          { x with pc := x.next, mask := x.mask &&& ~~~i.mask, stack := ⟨.yielded, x.next, i.mask⟩ :: x.stack }

end Sys2Proof.Machine
end

