-- ==== Sys2Proof/Machine/Sluice.lean ====
section
/-! DEFINITION. Class 0xA and the Sluice (R83, R182 to R196, R202 to R208): sync objects and their queues,
signals, the wake ramp, stalls. -/

namespace Sys2Proof.Machine

/-! ## Handles (R183) -/

def handleNum (h : Word) : Nat := h.toNat % 2 ^ 18
def handleGen (h : Word) : BitVec 12 := h.extractLsb' 18 12
def handleKind (h : Word) : Nat := h.toNat >>> 30
/-- The handle of an object as it stands. -/
def handleOf (n : Nat) (o : SyncObj) : Word := BitVec.ofNat 32 (n + o.gen.toNat * 2 ^ 18)
/-- The channel of an object, and its flat cluster (R182). -/
def objChan (n : Nat) : Nat := n / 8192
def objCluster (n : Nat) : Nat := n / 64

/-! ## The wake ramp (R194 to R196) -/

/-- A wake becomes pending at the ramp of its core's channel. -/
def State.addWake (s : State) (w : Wake) : State :=
  let f := s.stamp
  f.2.modChan (channelOfCore w.core) fun c => { c with wakes := c.wakes ++ [{ w with since := f.1 }] }

/-- A wake for one waiting group. -/
def groupWake (core : Nat) (slot : Fin 16) (signal : Bool) : Wake :=
  { core := core, slots := [slot], line := none, signal := signal, since := 0 }

/-- A parked entry that awaits a line. -/
def StackEntry.awaits (e : StackEntry) (l : LineAddr) : Bool :=
  match e.kind with
  | .parked lines _ _ => lines.any fun x => decide (x.line = l)
  | _ => false

/-- A line of the full/empty instruction whose answers the group awaits has been answered "parked": the answer is among the group's lines, or in hand in its
load entry (R50, R198). -/
def Core.feParked (c : Core) (slot : Nat) (l : LineAddr) : Bool :=
  match (c.group slot).waiting with
  | .fe _ _ ls _ _ => (ls.any fun x => decide (x.line = l))
      || c.loads.any fun e => e.live && decide (e.slot.val = slot) && decide (e.line = l) && e.ready && e.results.any fun r => r.parked
  | _ => false

/-- Make the parked entries on a line runnable; an instruction whose answers are still coming parks as runnable (R198). -/
def Group.wakeParked (g : Group) (l : LineAddr) (answered : Bool) : Group :=
  let st := g.stack.map fun e => match e.kind with
    | .parked lines _ reg => if lines.any fun x => decide (x.line = l) then { e with kind := .parked lines true reg } else e
    | _ => e
  let g' := { g with stack := st }
  match g.waiting with
  | .parked | .backoff => g'.settle
  | .fe m u ls reg woken => { g' with waiting := .fe m u ls reg (woken || answered) }
  | _ => g'

/-- The group has entries parked on a line, or will have (R198). -/
def Core.parkedOn (c : Core) (slot : Nat) (l : LineAddr) : Bool :=
  (c.group slot).live && ((c.group slot).stack.any (fun e => e.awaits l) || c.feParked slot l)

/-- Wake everything on a core that is parked on a line. -/
def State.wakeLine (s : State) (core : Nat) (l : LineAddr) : State :=
  let hit := (List.range 16).filter fun i => (s.core core).parkedOn i l
  (hit.foldl (fun acc i => acc.modGroupAt core i fun g => g.wakeParked l ((s.core core).feParked i l)) s).noteReadies core hit

/-- Deliver one wake to its core. -/
def State.deliverWake (s : State) (w : Wake) : State :=
  let s1 := match w.line with
    | none => s
    | some l => s.wakeLine w.core l
  (w.slots.foldl (fun acc slot =>
    match (acc.groupAt w.core slot.val).waiting with
    | .wake => acc.modGroupAt w.core slot.val fun g => { g with latch := g.latch && !w.signal }.wake
    | .withdrawn x => acc.raise w.core slot.val x
    | _ => acc) s1).noteReadies w.core (w.slots.map Fin.val)

/-- The rank of a core's pending wakes (R195). -/
def State.wakeRank (s : State) (ws : List Wake) (core : Nat) : Nat :=
  if (s.core core).holdsC0 then 0 else if ws.any fun w => decide (w.core = core) && w.signal then 1 else 2

/-- The cores with pending wakes, in the order in which the ramp chooses them. -/
def State.rampOrder (s : State) (ws : List Wake) : List Nat :=
  let cores := (ws.map fun w => w.core).eraseDups
  ((List.range 3).map fun r => cores.filter fun k => decide (s.wakeRank ws k = r)).flatten

/-- Cores per step: RAMP_UNITS, 0 acting as 1 and above 0x80 as 0x80, times 256 (R194). -/
def rampCores (units : Byte) : Nat := 256 * Nat.max 1 (Nat.min units.toNat 0x80)

/-- The counter stands at or past a tick; it runs only while its reference is present (R20, R22). -/
def Channel.reach (c : Channel) (tick : Nat) : Channel :=
  if c.refRunning then { c with refcnt := BitVec.ofNat 64 (Nat.max c.refcnt.toNat (Nat.min tick (2 ^ 64 - 1))) } else c

/-- WAKE_RAMP_RELEASE: a release starts when a wake is pending and none runs (R194). -/
def execWakeRampRelease (ch : Fin 32) (s : State) : Out :=
  let c := s.chan ch.val
  enabled (decide (c.wakes ≠ []) && decide (c.releaseStep = none)) "no wake is pending, or a release runs" <|
    let s1 := s.elapse ch.val
    .next (s1.modChan ch.val fun c => { c with releaseStep := some (1, c.rampUnits), releaseStart := c.refcnt })

/-- RAMP_STEP_END: step k ends at tick t0 + ceil(15.625 k); the chosen cores receive every wake pending for
them; the release ends when none remains (R194). -/
def execRampStepEnd (ch : Fin 32) (s : State) : Out :=
  let c := s.chan ch.val
  match c.releaseStep with
  | none => enabled false "no release runs" (.next s)
  | some (k, units) =>
    let chosen := (s.rampOrder c.wakes).take (rampCores units)
    let now := c.wakes.filter fun w => decide (w.core ∈ chosen)
    let rest := c.wakes.filter fun w => !decide (w.core ∈ chosen)
    let s1 := s.modChan ch.val fun c =>
      { (c.reach (c.releaseStart.toNat + (125 * k + 7) / 8)) with
        wakes := rest, releaseStep := if rest = [] then none else some (k + 1, units) }
    let s2 := chosen.foldl (fun acc k => acc.countChan ch.val 0x0A 1 (acc.core k).cls) s1
    .next (now.foldl (fun acc w => (acc.histogram ch.val 6 (acc.core w.core).cls).deliverWake w) s2)

/-! ## Objects and their queues (R187 to R189) -/

/-- The result of WAIT_SET, TAKE, TEST and ADD as a register pair (R83). -/
def SyncObj.result (o : SyncObj) : DWord := o.payload.setWidth 64 ||| (if o.flag then 0x8000000000000000 else 0)

/-- The condition of a waiting operation. -/
def SyncOp.holds (op : SyncOp) (o : SyncObj) : Bool :=
  match op with
  | .waitSet | .take => o.flag
  | .waitClear | .put => !o.flag

/-- The effect of a satisfied wait. -/
def SyncWait.effect (w : SyncWait) (o : SyncObj) : SyncObj :=
  match w.op with
  | .take => { o with flag := false }
  | .put => { o with payload := w.payload, flag := true }
  | _ => o

def SyncOp.changesFlag : SyncOp → Bool
  | .put | .take => true
  | _ => false

/-- One pass from the head of the queue (R188): the satisfied waits with their results, the waits left, and
the object. `seen` lists the operations of the earlier waits that are still queued. -/
def passQueue : List SyncWait → List SyncOp → SyncObj → List (SyncWait × DWord) × List SyncWait × SyncObj
  | [], _, o => ([], [], o)
  | w :: t, seen, o =>
    if w.op.holds o && !decide (w.op ∈ seen) then
      let r := passQueue t seen (w.effect o)
      ((w, o.result) :: r.1, r.2.1, r.2.2)
    else
      let r := passQueue t (w.op :: seen) o
      (r.1, w :: r.2.1, r.2.2)

/-- Passes until one satisfies no PUT and no TAKE. -/
def passAll : Nat → SyncObj → List (SyncWait × DWord) × SyncObj
  | 0, o => ([], o)
  | n + 1, o =>
    let r := passQueue o.waits [] o
    let o1 := { r.2.2 with waits := r.2.1 }
    if r.1.any fun x => x.1.op.changesFlag then
      let rest := passAll n o1
      (r.1 ++ rest.1, rest.2)
    else (r.1, o1)

/-- A satisfied wait: its result is written, and its wake is pending (R187). -/
def State.satisfy (s : State) (w : SyncWait) (r : DWord) : State :=
  let s1 := s.modGroupAt w.core w.slot.val fun g =>
    let g := match w.op with
      | .waitSet | .take => g.putS w.dst true r
      | _ => g
    { g with waiting := .wake, stall := 0 }
  s1.addWake (groupWake w.core w.slot false)

/-- The count of a group's wait starts at zero, under the limit in force (R202, R204). -/
def State.startStall (s : State) (core slot : Nat) : State :=
  s.modGroupAt core slot fun g => { g with stall := 0, stallLimit := (s.chan (channelOfCore core)).stallLimit }

/-- A change of FLAG or PAYLOAD restarts the stall counts of the waits on the object (R202). -/
def State.restartStalls (s : State) (o : SyncObj) : State :=
  o.waits.foldl (fun acc w => acc.startStall w.core w.slot.val) s

/-- An operation takes effect at an object and the node passes over its queue. -/
def State.applyObj (s : State) (n : Nat) (f : SyncObj → SyncObj) : State :=
  let o := s.obj n
  let o1 := f o
  let r := passAll (o1.waits.length + 1) o1
  let s1 := s.setObj n r.2
  let s2 := r.1.foldl (fun acc x => acc.satisfy x.1 x.2) s1
  if o1.flag != o.flag || o1.payload != o.payload || r.1.any (fun x => x.1.op.changesFlag) then s2.restartStalls r.2 else s2

/-- SYNC_ACCESS of a wait, recorded at its instruction, which precedes where its group stands. -/
def syncExc (g : Group) (detail : DWord) : Exc := ⟨0x0C, g.pc - 8, g.mask, detail⟩

/-- Detail of SYNC_ACCESS (R185): the handle, and bit 32 for a broken object of the context. -/
def syncDetail (h : Word) (broken : Bool) : DWord := h.setWidth 64 ||| (if broken then 0x100000000 else 0)

/-- Withdraw every wait of an object with SYNC_ACCESS (R186, R206, R207). -/
def State.withdrawAll (s : State) (n : Nat) (broken : Bool) : State :=
  let o := s.obj n
  let h := handleOf n o
  let s1 := s.setObj n { o with waits := [] }
  o.waits.foldl (fun acc w =>
    (acc.modGroupAt w.core w.slot.val fun g => { g with waiting := .withdrawn (syncExc g (syncDetail h broken)) }).addWake
      (groupWake w.core w.slot false)) s1

/-- A double-bit error breaks the object and withdraws its waits; a single-bit error is counted (R207). -/
def State.objEcc (s : State) (n : Nat) (e : Ecc) : State :=
  match e with
  | .objCorrected => s.modChan (objChan n) fun c => { c with sluEcc := satAdd c.sluEcc 1 }
  | .objDouble => (s.withdrawAll n true).modObj n fun o => { o with broken := true }
  | _ => s

/-- The node accepts an operation of a context under a handle (R185). -/
def SyncObj.accepts (o : SyncObj) (ctx : Nat) (h : Word) : Bool :=
  o.alloc && decide (o.owner.val = ctx) && decide (o.gen = handleGen h) && !o.broken

/-! ## The instructions -/

/-- The handle or target in s(A). -/
def Issued.handle (i : Issued) : Word := (i.grp.sword (fA i.w)).val

/-- The payload source: s(B), s(B+1) (R83). -/
def Issued.payload (i : Issued) : BitVec 62 := (i.grp.opVal (.reg true (fB i.w) 2) 0).extractLsb' 0 62

/-- The register fields of R83: `pay` where a payload source is read, `res` where a result pair is written. -/
def syncValid (pay : DWord → Bool) (res : Bool) (x : Nat) (b : Block) (w : DWord) : Bool :=
  decide (fType w = 0) && !fFmt w && fAs w && regOk b.regs true (fA w) 1
    && (if res then regOk b.regs true (fD w) 2 else decide (fD w = 0))
    && (if pay w then fBs w && regOk b.regs true (fB w) 2 else decide (fB w = 0) && !fBs w)
    && unusedR w false false false true && xOnly w x

/-- The form of a Sluice operation: the implied FENCE.device before it (R171), KIND checked at issue (R185). -/
def syncForm (op : Nat) (pay : DWord → Bool) (res : Bool) (x : Nat) : Form :=
  { encs := [(10, op)], valid := syncValid pay res x, uniform := true, waits := fun _ => []
    srcs := fun i => (Opnd.reg true (fA i.w) 1, i.mask) :: if pay i.w then [(Opnd.reg true (fB i.w) 2, i.mask)] else []
    dsts := fun w => if res then [.reg true (fD w) 2] else []
    memory := true
    check := fun i => if handleKind i.handle ≠ 0 then some (i.exc 0x0C i.mask (i.handle.setWidth 64)) else none
    ready := fun i => i.s.fenceMet i.core i.g.slot.val 2 0xFFFF i.s.tickets }

/-- The operation arrives at its object's node: counted, its state checked, accepted or refused (R185). -/
def Issued.atNode (i : Issued) (run : State → Nat → Out) : Out :=
  let h := i.handle
  let n := handleNum h
  let s1 := i.s.objEcc n i.g.ecc
  let o := s1.obj n
  if o.accepts i.blk.ctx.val h then run (s1.countCluster (objCluster n) 0x07 1 i.blk.eff.val) n
  else
    let mine := o.alloc && decide (o.owner = i.blk.ctx) && o.broken
    .next ({ i with s := s1 }.stop (i.exc 0x0C i.mask (syncDetail h mine)))

/-- An operation that does not wait; `res` writes the object's state before it to s(D), s(D+1). -/
def Issued.syncNow (i : Issued) (res : Bool) (f : SyncObj → SyncObj) : Out :=
  i.atNode fun s n =>
    let r := (s.obj n).result
    i.done ((s.applyObj n f).histogram i.ch 4 i.blk.eff.val) fun g => if res then g.putS (fD i.w) true r else g

/-- An operation that waits: queued at the object, and satisfied at once where its condition holds. -/
def Issued.syncWait (i : Issued) (op : SyncOp) : Out :=
  i.atNode fun s n =>
    let w : SyncWait :=
      { core := i.core, slot := i.g.slot, op := op, payload := i.payload, dst := fD i.w }
    .next (((i.hold s id (.sync n)).startStall i.core i.g.slot.val).applyObj n fun o => { o with waits := o.waits ++ [w] })

def noPay (_ : DWord) : Bool := false
def hasPay (_ : DWord) : Bool := true
/-- X[17] of SYNC.SET. -/
def setPay (w : DWord) : Bool := w.getLsbD 17

/-- The shape of SYNCSET. -/
def syncSetForm : Form :=
  syncForm 0 setPay false 0x20000

/-- SYNC.SET. -/
def execSyncSet (g : GRef) (w : DWord) (s : State) : Out :=
  syncSetForm.issue g w s fun i =>
    i.syncNow false fun o => { o with flag := true, payload := if setPay w then i.payload else o.payload }

/-- The shape of SYNCCLEAR. -/
def syncClearForm : Form :=
  syncForm 1 noPay false 0

/-- SYNC.CLEAR. -/
def execSyncClear (g : GRef) (w : DWord) (s : State) : Out :=
  syncClearForm.issue g w s fun i => i.syncNow false fun o => { o with flag := false }

/-- The shape of SYNCWAITSET. -/
def syncWaitSetForm : Form :=
  syncForm 2 noPay true 0

/-- SYNC.WAIT_SET. -/
def execSyncWaitSet (g : GRef) (w : DWord) (s : State) : Out :=
  syncWaitSetForm.issue g w s fun i => i.syncWait .waitSet

/-- The shape of SYNCWAITCLEAR. -/
def syncWaitClearForm : Form :=
  syncForm 3 noPay false 0

/-- SYNC.WAIT_CLEAR. -/
def execSyncWaitClear (g : GRef) (w : DWord) (s : State) : Out :=
  syncWaitClearForm.issue g w s fun i => i.syncWait .waitClear

/-- The shape of SYNCPUT. -/
def syncPutForm : Form :=
  syncForm 4 hasPay false 0

/-- SYNC.PUT. -/
def execSyncPut (g : GRef) (w : DWord) (s : State) : Out :=
  syncPutForm.issue g w s fun i => i.syncWait .put

/-- The shape of SYNCTAKE. -/
def syncTakeForm : Form :=
  syncForm 5 noPay true 0

/-- SYNC.TAKE. -/
def execSyncTake (g : GRef) (w : DWord) (s : State) : Out :=
  syncTakeForm.issue g w s fun i => i.syncWait .take

/-- The shape of SYNCTEST. -/
def syncTestForm : Form :=
  syncForm 6 noPay true 0

/-- SYNC.TEST. -/
def execSyncTest (g : GRef) (w : DWord) (s : State) : Out :=
  syncTestForm.issue g w s fun i => i.syncNow true id

/-- The shape of SYNCADD. -/
def syncAddForm : Form :=
  syncForm 7 hasPay true 0

/-- SYNC.ADD: modulo 2^62. -/
def execSyncAdd (g : GRef) (w : DWord) (s : State) : Out :=
  syncAddForm.issue g w s fun i => i.syncNow true fun o => { o with payload := o.payload + i.payload }

/-! ## Signals (R191, R192) -/

/-- The target's KIND is a core with TARGET[23:20] = 0, or a group; the reserved bits are 0. -/
def targetOk (t : Word) : Bool :=
  decide (t.toNat / 2 ^ 24 % 64 = 0)
    && (decide (handleKind t = 2) || (decide (handleKind t = 1) && decide (t.toNat / 2 ^ 20 % 16 = 0)))

/-- The shape of SIGNAL. -/
def signalForm : Form :=
  { syncForm 8 noPay false 0 with
      check := fun i => if targetOk i.handle then none else some (i.exc 0x0C i.mask (i.handle.setWidth 64)) }

/-- SIGNAL: sent to its target; SIGNAL_DELIVERY delivers it. -/
def execSignal (g : GRef) (w : DWord) (s : State) : Out :=
  signalForm.issue g w s
    fun i => i.done { i.s with signals := i.s.signals ++ [(i.blk.ctx, i.handle)] } id

/-- The resident groups of a context that a target names, as (core, slot). -/
def State.signalTargets (s : State) (ctx : Nat) (t : Word) : List (Nat × Nat) :=
  let id := t.toNat % 2 ^ 24
  s.cores.flatMap fun c =>
    (c.2.groups.filter fun g => g.2.live && decide ((c.2.block g.2.block.val).ctx.val = ctx)
        && (if handleKind t = 1 then decide (c.1 = id % 2 ^ 20) else decide (g.2.ident = id))).map fun g => (c.1, g.1)

/-- Set a group's latch; a group in WAITSIG is woken through the ramp (R192, R194). -/
def State.latchGroup (s : State) (core slot : Nat) : State :=
  let g := s.groupAt core slot
  if g.waiting = .signal then
    (s.modGroupAt core slot fun g => { g with latch := true, waiting := .wake }).addWake
      (groupWake core ⟨slot % 16, Nat.mod_lt _ (by decide)⟩ true)
  else s.modGroupAt core slot fun g => { g with latch := true }

/-- SIGNAL_DELIVERY: the latches of the targets are set, or the signal is discarded and counted (R192). -/
def execSignalDelivery (ctx : Fin 2048) (target : Word) (s : State) : Out :=
  enabled (decide ((ctx, target) ∈ s.signals)) "no such signal is on its way" <|
    let s1 := { s with signals := s.signals.erase (ctx, target) }
    let ts := s1.signalTargets ctx.val target
    let ch := target.toNat % 2 ^ 24 / (if handleKind target = 1 then 32768 else 524288)
    if ts = [] then .next (s1.modChan ch fun c => { c with sigDiscard := satAdd c.sigDiscard 1 })
    else .next (ts.foldl (fun acc t => acc.latchGroup t.1 t.2) s1)

/-- The shape of WAITSIG. -/
def waitsigForm : Form :=
  { Form.plain [(10, 9)] (fun _ w => headClear w && bodyClear w) true with
      memory := true
      ready := fun i => i.s.fenceMet i.core i.g.slot.val 2 0xFFFF i.s.tickets }

/-- WAITSIG: ends at once if the latch is set, clearing it; otherwise the group waits (R192). -/
def execWaitsig (g : GRef) (w : DWord) (s : State) : Out :=
  waitsigForm.issue g w s fun i =>
    if i.grp.latch then i.done i.s fun g => { g with latch := false }
    else .next (i.hold i.s id .signal)

/-! ## Stalls (R49, R202 to R204) -/

/-- BARRIER_STALL_LIMIT of a LIMIT in pace-monitor cycles; 0 disables (R204). -/
def stallCycles (limit : Word) : Nat := 65536 * limit.toNat

/-- SYNC_WAIT_STALL: a wait on a watched object has counted BARRIER_STALL_LIMIT cycles with no change; it
raises BARRIER_STALL once for the interval, and the group stays waiting (R202, R203). -/
def execSyncWaitStall (g : GRef) (s : State) : Out :=
  let core := coreId g.core
  let grp := s.group g
  match grp.waiting with
  | .sync n =>
    let o := s.obj n
    let lim := stallCycles grp.stallLimit
    enabled (o.watch && decide (lim ≠ 0) && decide (grp.stall = 0)) "the wait has no stall to raise" <|
      let detail : DWord := 0x8000000000000000 ||| BitVec.ofNat 64 ((handleOf n o).toNat % 2 ^ 30 * 2 ^ 32 + o.payload.toNat % 2 ^ 32)
      .next ((s.modGroup g fun x => { x with stall := lim }).postException core g.slot.val ⟨0x06, grp.pc - 8, grp.mask, detail⟩)
  | _ => enabled false "the group waits on no object" (.next s)

/-- BARRIER_STALL: a phase with an arrival has counted the limit with no arrival and no completion; it is
raised once, for the group that arrived last with its active lanes, and the groups stay waiting (R49, R203; notes/assumptions/14.md). -/
def execBarrierStall (c : CoreRef) (blk : Fin 4) (bar : Fin 4) (s : State) : Out :=
  let core := coreId c
  let b := tget Barrier.fresh ((s.core core).block blk.val).bars bar.val
  let lim := stallCycles b.limit
  match b.arrived.getLast? with
  | none => enabled false "the phase has no arrival" (.next s)
  | some slot =>
    enabled (decide (lim ≠ 0) && !b.stallRaised) "the phase has no stall to raise" <|
      let grp := s.groupAt core slot.val
      let detail := BitVec.ofNat 64 (bar.val * 2 ^ 32 + b.arrived.length)
      let s1 := s.modBlockAt core blk.val fun x =>
        { x with bars := tset Barrier.fresh x.bars bar.val { b with stall := lim, stallRaised := true } }
      .next (s1.postException core slot.val ⟨0x06, grp.pc - 8, grp.mask, detail⟩)

end Sys2Proof.Machine
end

