-- ==== Sys2Proof/Machine/Cluster.lean ====
section
/-! DEFINITION. A cluster's cache (R209, R212, R215, R217, R219, R220, R226, R230): lookups, transactions, fills,
snoops, and what a core's loads and stores do there (R161, R164 to R166). -/

namespace Sys2Proof.Machine

/-! ## Agents -/

def clusterAgent (k : Nat) : Agent := .cluster (BitVec.ofNat 12 k).toFin
def coreAgent (k : Nat) : Agent := .core (BitVec.ofNat 20 k).toFin

/-! ## Lines of a cluster -/

def Cluster.line (c : Cluster) (l : LineAddr) : CacheLine := tget CacheLine.absent c.lines l.toNat
def Cluster.setLine (c : Cluster) (l : LineAddr) (x : CacheLine) : Cluster :=
  { c with lines := tset CacheLine.absent c.lines l.toNat x }
def State.setCopy (s : State) (k : Nat) (l : LineAddr) (x : CacheLine) : State := s.modCluster k fun c => c.setLine l x

def WayState.dirty (x : WayState) : Bool := x = .m || x = .o
def WayState.readable (x : WayState) : Bool := x = .m || x = .o || x = .e || x = .s
def WayState.writable (x : WayState) : Bool := x = .m || x = .e

/-- The lines of a cluster that stand in a set, with their ways. -/
def Cluster.setLines (c : Cluster) (set : Nat) : List (LineAddr × CacheLine) :=
  (c.lines.map fun e => ((BitVec.ofNat 50 e.1 : LineAddr), e.2)).filter fun e => decide (clusterSet e.1 = set)

/-- An I way of the set: the ways that lines hold and the LOST ways of the set are taken. -/
def Cluster.freeWay (c : Cluster) (set : Nat) : Option Nat :=
  let used := c.setLines set
  let lost := (c.lostSets.filter fun x => decide (x = set)).length
  if used.length + lost < 16 then (List.range 16).find? fun w => !(used.any fun e => decide (e.2.way = w)) else none

def Cluster.plruOf (c : Cluster) (set : Nat) : BitVec 15 := tget 0 c.plru set

/-- A use of a way sets the pseudo-LRU bits away from it. -/
def Cluster.touch (c : Cluster) (l : LineAddr) : Cluster :=
  let set := clusterSet l
  { c with plru := tset 0 c.plru set (plruTouch (c.plruOf set) 4 0 (c.line l).way) }

/-- A streaming fill stands at the LRU position: the bits point at its way (R78, R209). -/
def Cluster.touchLast (c : Cluster) (l : LineAddr) : Cluster :=
  let set := clusterSet l
  let way := (c.line l).way
  { c with plru := tset 0 c.plru set (~~~(plruTouch (~~~(c.plruOf set)) 4 0 way)) }

/-- The victim of a set: the pseudo-LRU way, or the next line that has no transaction and no write-back. -/
def Cluster.victim (c : Cluster) (set : Nat) : Option (LineAddr × CacheLine) :=
  let ok := (c.setLines set).filter fun e => !(c.txns.any fun t => decide (t.line = e.1)) && !decide (e.2.state = .wb)
  let w := plruVictim (c.plruOf set) 4 0 0
  (ok.find? fun e => decide (e.2.way = w)).orElse fun _ => ok.head?

/-- An S or E way of the set that can be dropped for a stashed line: the pseudo-LRU way where it is one (R223). -/
def Cluster.droppable (c : Cluster) (set : Nat) : Option (LineAddr × CacheLine) :=
  let ok := (c.setLines set).filter fun e =>
    !(c.txns.any fun t => decide (t.line = e.1)) && (decide (e.2.state = .s) || decide (e.2.state = .e))
  let w := plruVictim (c.plruOf set) 4 0 0
  (ok.find? fun e => decide (e.2.way = w)).orElse fun _ => ok.head?

/-! ## Errors (R230) -/

/-- A line is poisoned: POISONED counts it, CC_ERRLOG keeps the first, the owner function gets MEMORY_ERROR. -/
def State.cachePoison (s : State) (ch kind : Nat) (l : LineAddr) : State :=
  let v : DWord := BitVec.ofNat 64 (kind * 2 ^ 60 + paOfLine l)
  (s.modChan ch fun c =>
    { c with ccPoisoned := satAdd c.ccPoisoned 1, ccErrlog := if c.ccErrlog = 0 then v else c.ccErrlog }).ownerEvent
    2 (BitVec.ofNat 8 ch) 1 v

/-- A poisoning in a cluster's cache; 16 within 2^39 ticks start a cluster reset (R343). -/
def State.clusterPoison (s : State) (k kind : Nat) (l : LineAddr) : State :=
  let ch := k / 128
  let now := (s.chan ch).refcnt
  (s.cachePoison ch kind l).modCluster k fun c =>
    let kept := noteEvents now c.poisonings 1
    { c with poisonings := kept, resetPending := c.resetPending || decide (16 ≤ kept.length) }

/-- What the cache finds as a load, a store, a snoop or an eviction looks the line up in a cluster (R230). A dirty line
whose tag has failed is poisoned and written back, unless it is `leaving` anyway. -/
def State.clusterEcc (s : State) (k : Nat) (l : LineAddr) (e : CacheEcc) (leaving : Bool := false) : State :=
  let x := s.copyOf k l
  let drop (s : State) : State :=
    (s.setCopy k l .absent).modChan (k / 128) fun c => { c with ccDropped := satAdd c.ccDropped 1 }
  if !x.state.readable then s
  else
    match e with
    | .dataSingle => s.modChan (k / 128) fun c => { c with ccCorrCluster := satAdd c.ccCorrCluster 1 }
    | .dataDouble half =>
      if x.state.dirty then
        (s.setCopy k l { x with poison := x.poison ||| BitVec.ofNat 2 (2 ^ half.val) }).clusterPoison k 1 l
      else drop s
    | .tagParity =>
      if !x.state.dirty then drop s
      else if leaving then (s.setCopy k l { x with poison := 3 }).clusterPoison k 2 l
      else
        let s1 := (s.setCopy k l { x with poison := 3, state := .wb }).clusterPoison k 2 l
        (s1.countCluster k 0x03 1 3).post { Msg.blank .wb l (clusterAgent k) (sliceAgent l) with
          data := x.data, poison := 3, hasData := true, cls := x.cls }
    | .tagHeader =>
      if x.state.dirty then
        (s.setCopy k l .absent).modCluster k fun c => { c with lostSets := clusterSet l :: c.lostSets }
      else drop s
    | _ => s

/-- What the cache finds in the lines that an instruction's accesses look up. -/
def State.accessEcc (s : State) (k : Nat) (lines : List LineAddr) (found : List FoundAt) : State :=
  (found.filter fun x => decide (x.1 ∈ lines)).foldl (fun acc x => acc.clusterEcc k x.1 x.2) s

/-! ## Transactions of a cluster (R215) -/

/-- Send a request for a line of this cluster. -/
def State.startTxn (s : State) (k : Nat) (l : LineAddr) (kind : MsgKind) (lru : Bool) (ctx : Fin 2048) (cls : Fin 4) :
    State :=
  let s1 := s.modCluster k fun c => { c with txns := c.txns ++ [⟨l, kind, lru, none, .none, false, none, [], ctx, cls, none⟩] }
  (s1.countCluster k 0x02 1 cls.val).post
    { Msg.blank kind l (clusterAgent k) (sliceAgent l) with context := ctx, cls := cls }

def Cluster.txn (c : Cluster) (l : LineAddr) : Option CacheTxn := c.txns.find? fun t => decide (t.line = l)
def Cluster.modTxn (c : Cluster) (l : LineAddr) (f : CacheTxn → CacheTxn) : Cluster :=
  { c with txns := c.txns.map fun t => if t.line = l then f t else t }

/-! ## Loads of a core (R165, R166, R215) -/

/-- The bytes of a line that `n` bytes at a physical address touch. -/
def bytesIn (l : LineAddr) (pa n : Nat) : BitVec 128 :=
  maskOf fun i => decide (pa ≤ paOfLine l + i) && decide (paOfLine l + i < pa + n)

def opBytes (op : LaneOp) : BitVec 128 :=
  match op with
  | .atom _ off wide _ _ _ => maskOf fun i => decide (off.val ≤ i) && decide (i < off.val + if wide then 8 else 4)
  | .fe _ off _ _ => maskOf fun i => decide (off.val ≤ i) && decide (i < off.val + 8)

/-- The bytes of its line that a load entry reads. -/
def LoadEntry.bytes (e : LoadEntry) : BitVec 128 :=
  match e.kind with
  | .ld _ _ => e.lanes.foldl (fun m x => m ||| bytesIn e.line x.pa x.len) 0
  | .atom ops => ops.foldl (fun m o => m ||| opBytes o) 0
  | .fe ops _ => ops.foldl (fun m o => m ||| opBytes o) 0

def LoadEntry.plain (e : LoadEntry) : Bool :=
  match e.kind with
  | .ld _ cp => decide (cp ≠ 2)
  | _ => false

/-- The entry waits: for held store-buffer entries that overlap the lanes' bytes (R166), or for an earlier
access of its group to the line (R161). -/
def Core.loadBlocked (c : Core) (e : LoadEntry) : Bool :=
  let own : List Nat := e.lanes.map fun x => x.lane.val
  let whole := (c.loads.filter fun x => decide (x.stamp = e.stamp)).flatMap fun x =>
    x.lanes.filter fun y => decide (y.lane.val ∈ own)
  let lanesOverlap (st : StoreEntry) : Bool :=
    match e.kind with
    | .ld _ _ => whole.any fun x => decide (bytesIn st.line x.pa x.len &&& st.mask ≠ 0)
    | _ => decide (st.line = e.line) && decide (e.bytes &&& st.mask ≠ 0)
  ((c.stores.take 32).any fun st => decide (st.stamp < e.stamp) && lanesOverlap st)
    || (c.loads.any fun x => decide (x.stamp < e.stamp) && decide (x.slot = e.slot) && decide (x.line = e.line)
        && !x.ready && !(x.plain && e.plain && x.sent))

def State.modLoad (s : State) (core id : Nat) (f : LoadEntry → LoadEntry) : State :=
  s.modCore core fun c => { c with loads := c.loads.map fun x => if x.id = id then f x else x }
def State.modStore (s : State) (core id : Nat) (f : StoreEntry → StoreEntry) : State :=
  s.modCore core fun c => { c with stores := c.stores.map fun x => if x.id = id then f x else x }

/-- The line's data has come for a load entry (R219). -/
def LoadEntry.fill (e : LoadEntry) (d : Line) (p : BitVec 2) : LoadEntry := { e with sent := true, ready := true, data := d, poison := p }

/-- The entry completes lost (R178, R179). -/
def LoadEntry.lose (e : LoadEntry) : LoadEntry := { e with sent := true, ready := true, lost := true, poison := 3 }

/-- A request of a core at the tracking slice (R215). -/
def coreRequest (core : Nat) (kind : MsgKind) (e : LoadEntry) (ops : List LaneOp) : Msg :=
  { Msg.blank kind e.line (coreAgent core) (sliceAgent e.line) with
    tag := e.id, ops := ops, hasData := decide (kind ≠ .rdSnap), flush := e.flush, context := e.ctx, cls := e.cls }

/-- Go on with a load entry that holds a slot: serve it from the cluster, join or start the line's
transaction, or send its request to the slice. -/
def State.tryLoad (s : State) (core : Nat) (e : LoadEntry) : State :=
  let k := clusterOfCore core
  if e.sent || e.ready || (s.core core).loadBlocked e then s
  else if s.lostNode e.line then s.modLoad core e.id LoadEntry.lose
  else
    match e.kind with
    | .atom ops => (s.modLoad core e.id fun x => { x with sent := true }).post (coreRequest core .atomic e ops)
    | .fe ops _ => (s.modLoad core e.id fun x => { x with sent := true }).post (coreRequest core .feOp e ops)
    | .ld _ cp =>
      if cp = 2 then (s.modLoad core e.id fun x => { x with sent := true }).post (coreRequest core .rdSnap e [])
      else
        let x := s.copyOf k e.line
        let s1 := if x.state = .wb then s else s.countCluster k 0x01 1 e.cls.val
        if x.state.readable then
          (s1.modCluster k fun c => c.touch e.line).modLoad core e.id fun y => y.fill x.data x.poison
        else if x.state = .wb then s
        else
          let s2 := s1.modLoad core e.id fun y => { y with sent := true, missed := true }
          match (s.cluster k).txn e.line with
          | some _ => s2
          | none => s2.startTxn k e.line .readS (decide (cp = 1)) e.ctx e.cls

/-- Look again at every load of a core that holds one of the 64 entries. -/
def State.pumpLoads (s : State) (core : Nat) : State :=
  (((s.core core).loads.take 64).map fun e => e.id).foldl (fun acc id =>
    match (acc.core core).loads.find? fun e => decide (e.id = id) with
    | some e => acc.tryLoad core e
    | none => acc) s

/-! ## Stores of a core (R219) -/

/-- A store performed in the cluster's copy: the way becomes M (R212). -/
def State.storeHit (s : State) (core : Nat) (e : StoreEntry) : State :=
  let k := clusterOfCore core
  let x := s.copyOf k e.line
  let y : CacheLine :=
    { x with state := .m, data := mergeLine x.data e.data e.mask, poison := mergePoison x.poison e.poison e.mask, cls := e.cls }
  ((s.setCopy k e.line y).modCluster k fun c => c.touch e.line).modStore core e.id fun z => { z with acked := true }

/-- The request that a store needs for its line (R215). -/
def storeKind (x : CacheLine) (e : StoreEntry) : MsgKind :=
  if x.state.readable || e.mask = BitVec.allOnes 128 then .own else .readU

/-- Go on with an issued store: performed in M or E, joined to the line's transaction, or requested. -/
def State.tryStore (s : State) (core : Nat) (e : StoreEntry) : State :=
  let k := clusterOfCore core
  let x := s.copyOf k e.line
  if x.state.writable then s.storeHit core e
  else if x.state = .wb then s
  else
    match (s.cluster k).txn e.line with
    | some _ => s
    | none =>
      s.startTxn k e.line (storeKind x e) (match e.kind with | .st cp => decide (cp = 1) | _ => false) e.ctx e.cls

/-- The issued stores of a core that await their line in the cluster, oldest first. -/
def Core.waitingStores (c : Core) (l : LineAddr) : List StoreEntry :=
  c.stores.filter fun e => e.issued && !e.acked && decide (e.line = l) && (match e.kind with | .st cp => decide (cp ≠ 2) | _ => false)

/-- The cores of a cluster. -/
def coresOf (k : Nat) : List Nat := (List.range 256).map fun i => 256 * k + i

/-- The cores of a cluster that hold anything. -/
def State.activeCores (s : State) (k : Nat) : List Nat := (s.cores.filter fun c => decide (clusterOfCore c.1 = k)).map Prod.fst

/-! ## Snoops (R217) -/

/-- Answer a snoop from the cluster's state; none where the table says that it is not sent. -/
def State.clusterSnoop (s : State) (k : Nat) (m : Msg) : Option State :=
  let l := m.line
  let x := s.copyOf k l
  let me := clusterAgent k
  let answer (kind : MsgKind) (s : State) (shared : Bool) : Option State :=
    some (s.post { Msg.blank kind l me m.src with requester := m.requester, tag := m.tag, txn := m.txn, ownerNowShared := shared, cls := m.cls })
  let send (kind : MsgKind) (dst : Agent) (g : Grant) (s : State) : State :=
    s.post { Msg.blank kind l me dst with
      requester := m.requester, tag := m.tag, txn := if dst = m.src then m.txn else m.tag, data := x.data,
      poison := x.poison, hasData := true, grant := g, cls := if kind = .wb then x.cls else m.cls }
  let become (st : WayState) (s : State) : State :=
    if st = .i then s.setCopy k l .absent else s.setCopy k l { x with state := st }
  let none_ : Option State :=
    if decide (clusterSet l ∈ (s.cluster k).lostSets) && decide ((s.slice l).owner = some me) then
      answer .poisoned (s.modCluster k fun c => { c with lostSets := c.lostSets.erase (clusterSet l) }) false
    else answer .none s false
  match m.kind, x.state with
  | .snpFwd, .m | .snpFwd, .o => answer .ack (become .o (send .data m.requester .shared s)) false
  | .snpFwd, .e => answer .ack (become .s (send .data m.requester .shared s)) true
  | .snpFwd, .i => none_
  | .snpFwd, .wb => answer .inFlight s false
  | .snpFwdU, .m | .snpFwdU, .o | .snpFwdU, .e => answer .ack (become .i (send .data m.requester .none s)) false
  | .snpFwdU, .i => none_
  | .snpFwdU, .wb => answer .inFlight s false
  | .snpInv, .s => answer .ack (become .i s) false
  | .snpInv, .i | .snpInv, .wb => answer .ack s false
  | .snpPeek, .m | .snpPeek, .o | .snpPeek, .e => some (send .data m.src .none s)
  | .snpPeek, .i => none_
  | .snpPeek, .wb => answer .inFlight s false
  | .snpRecall, .m | .snpRecall, .o => some (become .i (send .wb m.src .none s))
  | .snpRecall, .e => answer .none (become .i s) false
  | .snpRecall, .s => answer .ack (become .i s) false
  | .snpRecall, .i => none_
  | .snpRecall, .wb => answer .inFlight s false
  | _, _ => none

/-- The cluster awaits the fill of a line (R217): the data or the grant of its transaction has been sent. While its
request still waits at the slice it answers snoops at once, since the slice serves the snoop's transaction first and
each would wait for the other (DEDUCED, notes/assumptions/18.md). -/
def State.awaitsFill (s : State) (k : Nat) (l : LineAddr) : Bool :=
  match (s.cluster k).txn l with
  | none => false
  | some t =>
    t.data.isSome || decide (t.grant ≠ .none)
      || (s.msgs.any fun m => decide (m.line = l) && decide (m.dst = clusterAgent k) && (decide (m.kind = .data) || decide (m.kind = .grant)))
      || s.answerComing l (clusterAgent k)

/-! ## Installation (R219, R220) -/

/-- The state that a grant installs. -/
def grantWay : Grant → WayState
  | .exclusive => .e
  | .modified => .m
  | _ => .s

/-- Serve the loads that joined the line's transaction. -/
def State.serveLoads (s : State) (k : Nat) (l : LineAddr) : State :=
  let x := s.copyOf k l
  (s.activeCores k).foldl (fun acc c => acc.modCore c fun co =>
    { co with loads := co.loads.map fun e =>
        if decide (e.line = l) && e.sent && !e.ready && e.plain then e.fill x.data x.poison else e }) s

/-- Serve the stores that await the line, in order; a store that the state does not let write starts a request of its own. -/
def State.serveStores (s : State) (k : Nat) (l : LineAddr) : State :=
  (s.activeCores k).foldl (fun acc c => ((acc.core c).waitingStores l).foldl (fun a e => a.tryStore c e) acc) s

/-- The line is installed and its transaction ends: its loads, stores and snoops are served. Without data, the store
of all 128 bytes that asked for the line comes first. -/
def State.installed (s : State) (k : Nat) (l : LineAddr) (t : CacheTxn) (x : CacheLine) (storesFirst : Bool) : State :=
  let s1 := s.modCluster k fun c =>
    let c := ({ c with txns := c.txns.filter fun y => !decide (y.line = l) }).setLine l x
    if t.lru then c.touchLast l else c.touch l
  let s2 := if storesFirst then (s1.serveStores k l).serveLoads k l else (s1.serveLoads k l).serveStores k l
  let s3 := t.snoops.foldl (fun acc m => (acc.clusterSnoop k m).getD acc) s2
  s3.serveStores k l

/-- What the cache finds in the victim of a set that has no free way. -/
def State.victimFound (s : State) (k set : Nat) (found : CacheEcc) : State :=
  match (s.cluster k).freeWay set, (s.cluster k).victim set with
  | none, some (v, _) => s.clusterEcc k v found true
  | _, _ => s

/-- Go on with a transaction whose data and grant have arrived: upgrade the line it holds, take an I way, or
take the victim, whose write-back comes first where it is dirty (R220). -/
def State.tryInstall (s : State) (k : Nat) (l : LineAddr) (found : CacheEcc := .ok) : State :=
  match (s.cluster k).txn l with
  | none => s
  | some t =>
    let x := (s.cluster k).line l
    if t.grant = .none || t.victim ≠ none || (t.dataDue && decide (t.data = none)) then s
    else
      let d := t.data.getD (x.data, x.poison)
      if x.state ≠ .i then s.installed k l t { x with state := grantWay t.grant, data := d.1, poison := d.2 } false
      else if t.data = none && t.kind ≠ .own then s
      else
        let new (w : Nat) : CacheLine := { state := grantWay t.grant, way := w, data := d.1, poison := d.2, cls := x.cls }
        let s := s.victimFound k (clusterSet l) found
        let c := s.cluster k
        match c.freeWay (clusterSet l) with
        | some w => s.installed k l t (new w) (decide (t.data = none))
        | none =>
          match c.victim (clusterSet l) with
          | none => s
          | some (v, y) =>
            if y.state.dirty then
              let s1 := (s.setCopy k v { y with state := .wb }).modCluster k fun c => c.modTxn l fun t => { t with victim := some v }
              (s1.countCluster k 0x03 1 3).post { Msg.blank .wb v (clusterAgent k) (sliceAgent v) with
                data := y.data, poison := y.poison, hasData := true, cls := y.cls }
            else (s.setCopy k v .absent).installed k l t (new y.way) (decide (t.data = none))

/-- Look again at everything a cluster has waiting: transactions ready to install, and its cores' loads and
stores. -/
def State.pumpCluster (s : State) (k : Nat) : State :=
  let s1 := (s.cluster k).txns.foldl (fun acc t => acc.tryInstall k t.line) s
  (s1.activeCores k).foldl (fun acc c =>
    let acc := ((acc.core c).stores.filter fun e => e.issued && !e.acked).foldl (fun a e =>
      match e.kind with
      | .st cp => if cp = 2 then a else a.tryStore c e
      | _ => a) acc
    acc.pumpLoads c) s1

end Sys2Proof.Machine
end

