-- ==== Sys2Proof/Machine/Tiles.lean ====
section
/-! DEFINITION. The shapes of Quern tiles and step vectors (R92, R116, R117), and the bytes of local memory that
queued Quern instructions have still to read (R100, R118). -/

namespace Sys2Proof.Machine

/-- The element type of a Quern format code; PRIVET8 stands in for a code that is refused at issue. -/
def quernTy (fmt : BitVec 4) : ElTy := (ElTy.ofCode fmt).getD .privet8

/-- IFMT and WFMT take the short formats 0x8 to 0xC (R93). -/
def isQuernFmt (fmt : Nat) : Bool := 8 ≤ fmt && fmt ≤ 12

/-- Elements that a cell holds: two in SLOE4 and HAW6, one in a gang launch in every format (R92, R116). -/
def cellElems (fmt : BitVec 4) (gang : Bool) : Nat := if !gang && (fmt = 11 || fmt = 12) then 2 else 1

/-- The tile depth kd. -/
def tileDepth (fmt : BitVec 4) (gang : Bool) : Nat := 8 * cellElems fmt gang

/-- Words that hold `n` elements. -/
def wordsFor (fmt : BitVec 4) (n : Nat) : Nat :=
  let e := (quernTy fmt).perWord
  (n + e - 1) / e

/-- Words of a stationary tile. -/
def tileWords (fmt : BitVec 4) (gang : Bool) : Nat := wordsFor fmt (4 * tileDepth fmt gang)

/-- Bytes of a step vector: vb, or gb of each top-edge core in a gang (R92, R117). -/
def stepBytes (fmt : BitVec 4) (gang : Bool) : Nat := 4 * wordsFor fmt (tileDepth fmt gang)

/-- The byte ranges of local memory that a queued Quern instruction reads when it runs. -/
def QuernOp.reads : QuernOp → List (Nat × Nat)
  | .load true gang addr _ fmt _ _ => [(addr, 4 * tileWords fmt gang)]
  | .stream addr steps scales fmt _ _ scaled gang _ _ _ =>
    (addr, steps * stepBytes fmt gang) :: if scaled then [(scales, 4 + steps)] else []
  | _ => []

/-- An STL of a block, of `n` bytes at offset `o`, overlaps bytes that a queued Quern instruction of that block has still to read. -/
def Core.quernReads (c : Core) (blk : Fin 4) (o n : Nat) : Bool :=
  decide (c.quern.block = some blk) && c.quern.queue.any fun q => !q.started && q.op.reads.any fun r => decide (o < r.1 + r.2) && decide (r.1 < o + n)

end Sys2Proof.Machine
end

