-- ==== Sys2Proof/Machine/LocalMem.lean ====
section
/-! DEFINITION. Class 0x7, local memory: LDL and STL (R80, R100, R167). -/

namespace Sys2Proof.Machine

/-- Bytes and register words of an access size code (R78). -/
def sizeBytes (sz : Nat) : Nat := 2 ^ sz
def sizeWords (sz : Nat) : Nat := (sizeBytes sz + 3) / 4

/-- The fields that forms M of local and global memory share: TYPE 0, FMT 0, a defined size, the offset
register only with a scalar base, SX only on 1- and 2-byte loads (R78). With BV = 0 the fields B, BU and SCALE must be 0 (DEDUCED,
notes/assumptions/66.md). -/
def formMValid (load : Bool) (b : Block) (w : DWord) : Bool :=
  decide (fType w = 0) && !fFmt w && decide (mSz w ≤ 4)
    && (!mSx w || (load && decide (mSz w < 2)))
    && (if mBv w then fAs w && regOk b.regs false (fB w) 1 else decide (fB w = 0) && !mBu w && decide (mScale w = 0))
    && regOk b.regs false (fD w) (sizeWords (mSz w))

/-- The offset operand of a lane: ext(v(B)) << SCALE (R78). -/
def Issued.scaled (i : Issued) (lane : Nat) : DWord :=
  if mBv i.w then
    let v := (i.grp.vword (fB i.w) lane).val
    (if mBu i.w then v.setWidth 64 else v.signExtend 64) <<< mScale i.w
  else 0

/-- The local offset of a lane, modulo 2^32 as its registers are (DEDUCED, notes/assumptions/13.md). -/
def Issued.localOffset (i : Issued) (lane : Nat) : Nat :=
  let base := i.grp.opWord (.reg (fAs i.w) (fA i.w) 1) lane 0
  (loWord (base.setWidth 64 + i.scaled lane + mOffs i.w)).toNat

/-- The sources of an address with a base of `n` words. -/
def Issued.addrSrcs (i : Issued) (n : Nat) : List (Opnd × Mask) :=
  (Opnd.reg (fAs i.w) (fA i.w) n, i.mask) :: if mBv i.w then [(.reg false (fB i.w) 1, i.mask)] else []

/-- MISALIGNED or LOCAL_BOUNDS of a local access (R80). -/
def Issued.localCheck (i : Issued) : Option Exc :=
  let n := sizeBytes (mSz i.w)
  let bad := (lanesOf i.mask).filter fun l => decide (i.localOffset l % n ≠ 0)
  let beyond := (lanesOf i.mask).filter fun l => decide (i.blk.lmSize < i.localOffset l + n)
  let addr (l : Nat) : DWord := BitVec.ofNat 64 (i.localOffset l)
  if bad ≠ [] then some (i.exc 0x02 (maskOf fun l => decide (l ∈ bad)) (lowestOf bad addr))
  else if beyond ≠ [] then some (i.exc 0x04 (maskOf fun l => decide (l ∈ beyond)) (lowestOf beyond addr))
  else none

/-- The extra handshakes of bank conflicts: the distinct words of the most-loaded bank, less one (R80). -/
def Issued.conflicts (i : Issued) : Nat :=
  let ws := ((lanesOf i.mask).flatMap fun l =>
    (List.range (sizeWords (mSz i.w))).map fun k => i.localOffset l / 4 + k).eraseDups
  (List.range 32).foldl (fun m b => Nat.max m ((ws.filter fun x => decide (x % 32 = b)).length - 1)) 0

def Issued.countConflicts (i : Issued) : State :=
  if i.conflicts = 0 then i.s else i.s.countCore i.core 0x08 i.conflicts i.blk.ctx.val

/-- `n` bytes of a block's local memory as a number. -/
def lmRead (lm : Table Byte) (o n : Nat) : Nat := leNat ((List.range n).map fun k => tget 0 lm (o + k))

/-- Write `n` bytes of a number into local memory. -/
def lmWrite (lm : Table Byte) (o n x : Nat) : Table Byte :=
  (List.range n).foldl (fun m k => tset 0 m (o + k) (byteOf x k)) lm

/-- Word `k` of a loaded value, sign-extended for SX. -/
def loadWord (signed : Bool) (size x k : Nat) : Word :=
  if signed && size = 1 then (BitVec.ofNat 8 x).signExtend 32
  else if signed && size = 2 then (BitVec.ofNat 16 x).signExtend 32
  else BitVec.ofNat 32 (x >>> (32 * k))

/-- LDL and STL bits of form M beyond the shared ones: CP is 0. -/
def localValid (load : Bool) (b : Block) (w : DWord) : Bool :=
  formMValid load b w && decide (mCp w = 0) && regOk b.regs (fAs w) (fA w) 1

/-- The shape of LDL. -/
def ldlForm : Form :=
  { Form.plain [(7, 0)] (localValid true) false with
      srcs := fun i => i.addrSrcs 1
      dsts := fun w => [.reg false (fD w) (sizeWords (mSz w))]
      memory := true
      check := Issued.localCheck }

/-- LDL: performed when it issues (R167). -/
def execLdl (g : GRef) (w : DWord) (s : State) : Out :=
  ldlForm.issue g w s fun i =>
    let n := sizeBytes (mSz w)
    let value (l : Nat) : Nat := lmRead i.blk.lm (i.localOffset l) n
    i.done i.countConflicts fun g =>
      (List.range (sizeWords (mSz w))).foldl
        (fun g k => g.setLanes (fD w + k) i.mask fun l => clean (loadWord (mSx w) n (value l) k)) g

/-- The data of a store: the words of v(D) of a lane as a number. -/
def Issued.storeData (i : Issued) (lane : Nat) : Nat :=
  (List.range (sizeWords (mSz i.w))).foldl
    (fun a k => a + (i.grp.vword (fD i.w + k) lane).val.toNat * 2 ^ (32 * k)) 0 % 2 ^ (8 * sizeBytes (mSz i.w))

/-- The shape of STL. -/
def stlForm : Form :=
  { Form.plain [(7, 1)] (localValid false) false with
      srcs := fun i => i.addrSrcs 1 ++ [(Opnd.reg false (fD i.w) (sizeWords (mSz i.w)), i.mask)]
      memory := true
      check := Issued.localCheck
      ready := fun i => !((lanesOf i.mask).any fun l =>
        (i.s.core i.core).quernReads i.grp.block (i.localOffset l) (sizeBytes (mSz i.w))) }

/-- STL: performed when it issues; the higher-numbered lane wins; held back while it overlaps a queued Quern
read (R80, R100, R167). -/
def execStl (g : GRef) (w : DWord) (s : State) : Out :=
  stlForm.issue g w s fun i =>
    let n := sizeBytes (mSz w)
    let s1 := i.countConflicts.modBlockAt i.core i.grp.block.val fun b =>
      { b with lm := (lanesOf i.mask).foldl (fun m l => lmWrite m (i.localOffset l) n (i.storeData l)) b.lm }
    i.done s1 id

end Sys2Proof.Machine
end

