-- ==== Sys2Proof/Machine/GlobalMem.lean ====
section
/-! DEFINITION. Class 0x6, global memory: LD, ST, PREF (R78, R79, R165, R260), and what global accesses of every
class share: addresses, translation before any line request, line requests and their entries. -/

namespace Sys2Proof.Machine

/-! ## Addresses and pieces (R78, R79) -/

/-- The address of a lane from base, scaled offset register and displacement, modulo 2^64. -/
def Issued.vaOf (i : Issued) (scaled : Nat → DWord) (offs : DWord) (lane : Nat) : DWord :=
  i.grp.opVal (.reg (fAs i.w) (fA i.w) 2) lane + scaled lane + offs

/-- Bytes of one lane within one line; `off` is the place of its first byte in the lane's value. -/
structure Piece where
  lane : Nat
  va : Nat
  pa : Nat
  off : Nat
  len : Nat
  deriving DecidableEq, Repr

/-- The pieces of `n` bytes, at most 16, from a virtual address. -/
def splitAccess (lane va n : Nat) : List Piece :=
  let first := Nat.min n (128 - va % 128)
  ⟨lane, va, 0, 0, first⟩ :: if first < n then [⟨lane, va + first, 0, first, n - first⟩] else []

/-- ADDRESS: bits [63:57] of a lane's address (R78). -/
def Issued.addressCheck (i : Issued) (va : Nat → DWord) : Option Exc :=
  let bad := (lanesOf i.mask).filter fun l => decide (2 ^ 57 ≤ (va l).toNat)
  if bad = [] then none else some (i.exc 0x03 (maskOf fun l => decide (l ∈ bad)) (lowestOf bad va))

/-- MISALIGNED of an atomic or full/empty access. -/
def Issued.alignCheck (i : Issued) (va : Nat → DWord) (n : Nat) : Option Exc :=
  let bad := (lanesOf i.mask).filter fun l => decide ((va l).toNat % n ≠ 0)
  if bad = [] then none else some (i.exc 0x02 (maskOf fun l => decide (l ∈ bad)) (lowestOf bad va))

/-- The pieces of the active lanes' accesses, not yet translated. -/
def Issued.virtualPieces (i : Issued) (va : Nat → DWord) (n : Nat) : List Piece :=
  (lanesOf i.mask).flatMap fun l => splitAccess l (va l).toNat n

/-- Translate every piece before any line request is formed (R260), then go on with the physical addresses; where
one misses, the group waits for the walk of the access of lowest address. Every hit updates the TLB's pseudo-LRU
bits (R258). -/
def Issued.translated (i : Issued) (va : Nat → DWord) (n : Nat) (write pref : Bool)
    (run : Issued → List Piece → Out) : Out :=
  let cl := clusterOfCore i.core
  let acc (p : Piece) : Access := ⟨BitVec.ofNat 64 p.va, write, false, false, pref⟩
  let pa (p : Piece) : Option Nat := i.s.tlbHit cl i.blk.ctx.val (acc p)
  let ps : List Piece := i.virtualPieces va n
  match ps.filter fun p => decide (pa p = none) with
  | p :: t => .next (i.waitAccess (acc (t.foldl (fun m q => if q.va < m.va then q else m) p)))
  | [] =>
    let s1 : State := ps.foldl (fun s p => s.tlbTouch cl i.blk.ctx.val (BitVec.ofNat 64 p.va)) i.s
    run { i with s := s1 } (ps.map fun p => { p with pa := (pa p).getD 0 })

/-- The distinct lines of some pieces, in the order in which the lanes name them. -/
def linesOfPieces (ps : List Piece) : List LineAddr := (ps.map fun p => lineOfPa p.pa).eraseDups

/-- The pieces that lie in a line. -/
def piecesIn (ps : List Piece) (l : LineAddr) : List Piece := ps.filter fun p => decide (lineOfPa p.pa = l)

def Piece.covers (p : Piece) (k : Nat) : Bool := decide (p.pa % 128 ≤ k) && decide (k < p.pa % 128 + p.len)

/-- The bytes that pieces of one line write, and their values: the higher-numbered lane wins (R79). -/
def piecesMask (ps : List Piece) : BitVec 128 := maskOf fun k => ps.any fun p => p.covers k
def piecesData (ps : List Piece) (value : Nat → Nat) : Line :=
  BitVec.ofNat 1024 (leNat ((List.range 128).map fun k =>
    match ps.reverse.find? fun p => p.covers k with
    | some p => byteOf (value p.lane) (p.off + (k - p.pa % 128))
    | none => 0))

/-- The lowest virtual address that pieces name. -/
def lowestVa (ps : List Piece) : DWord := BitVec.ofNat 64 (ps.foldl (fun m p => Nat.min m p.va) (2 ^ 64 - 1))

/-! ## Entries (R27, R79) -/

/-- A store-buffer entry of an instruction. -/
def Issued.storeEntry (i : Issued) (id : Nat) (l : LineAddr) (va : DWord) (kind : StoreKind) (data : Line)
    (mask : BitVec 128) (tagged : Bool) : StoreEntry :=
  { id := id, stamp := i.s.tickets, slot := i.g.slot, lanes := i.mask, live := true, ended := 0, launch := i.blk.launch, tagged := tagged,
    flush := i.blk.flush, cls := i.blk.eff, ctx := i.blk.ctx, line := l, va := va, kind := kind, data := data,
    mask := mask, poison := 0, issued := false, acked := false }

/-- An outstanding-load entry of an instruction. -/
def Issued.loadEntry (i : Issued) (id : Nat) (l : LineAddr) (kind : LoadKind) (lanes : List LaneLoad) (dst : Nat)
    (tagged : Bool) : LoadEntry :=
  { id := id, stamp := i.s.tickets, slot := i.g.slot, live := true, ended := 0, launch := i.blk.launch, tagged := tagged,
    flush := i.blk.flush, cls := i.blk.eff, ctx := i.blk.ctx, line := l, kind := kind, lanes := lanes, dst := dst,
    pc := i.grp.pc, sent := false, missed := false, ready := false, data := 0, poison := 0, results := [], flushed := false,
    lost := false }

/-- FLAGS[6:2] of a stage record, as far as the issue knows them (R429). -/
def Issued.tagFlags (i : Issued) (lines : List LineAddr) (forwarded : Bool) : BitVec 5 :=
  let k := clusterOfCore i.core
  let missing := lines.filter fun l => !(i.s.copyOf k l).state.readable
  let b (x : Bool) (n : Nat) : BitVec 5 := if x then BitVec.ofNat 5 (2 ^ n) else 0
  b (missing = []) 0 ||| b (missing.all fun l => (i.s.slice l).present) 1
    ||| b (lines.any fun l => !i.s.isLocal l) 2 ||| b i.grp.missed 3 ||| b forwarded 4

/-- LD_LINES counts the line requests of LD, ATOM and LDFE, not of STFE PUT and WAITFE (R423). -/
def LoadEntry.counted (e : LoadEntry) : Bool :=
  match e.kind with
  | .fe ops _ => ops.any fun o => match o with
    | .fe _ _ op _ => decide (op = .read) || decide (op = .copy) || decide (op = .take)
    | _ => true
  | _ => true

/-- The entries of an instruction are taken: the counters and the tagged instruction see them, and the core's loads
are looked at, with what the cluster's cache finds in their lines (R230). -/
def Issued.enter (i : Issued) (s : State) (loads : List LoadEntry) (stores : List StoreEntry) (lines : Nat)
    (flags : BitVec 5) : State :=
  let n := loads.length + stores.length
  let s1 := { s with tickets := s.tickets + n + 1 }
  let counted := (loads.filter LoadEntry.counted).length
  let s2 := if counted = 0 then s1 else s1.countCore i.core 0x05 counted i.blk.ctx.val
  let s3 := if stores = [] then s2 else s2.countCore i.core 0x06 stores.length i.blk.ctx.val
  let s4 := s3.modCore i.core fun c => { c with loads := c.loads ++ loads, stores := c.stores ++ stores }
  let looked := (loads.filter fun e => match e.kind with | .ld _ cp => decide (cp ≠ 2) | _ => false).map fun e => e.line
  ((s4.tagLines i.core i.g.slot.val lines n flags).accessEcc (clusterOfCore i.core) looked i.g.cache).pumpLoads i.core

/-! ## LD, ST, PREF -/

/-- Form M of global memory: CP is not 3 (R78), the base is a pair; ST and LD name registers that exist; PREF writes
nothing, so D is 0 and SX is 0. -/
def globalValid (load data : Bool) (b : Block) (w : DWord) : Bool :=
  formMValid load b w && decide (mCp w ≠ 3) && regOk b.regs (fAs w) (fA w) 2 && (data || decide (fD w = 0))

/-- The address of a lane of form M. -/
def Issued.globalVa (i : Issued) (lane : Nat) : DWord := i.vaOf i.scaled (mOffs i.w) lane

/-- Store-buffer forwarding (R165): the value of a lane whose every byte lies in held forwarding entries, none
of them in a RED entry, each byte from the youngest entry. -/
def Core.forward (c : Core) (ps : List Piece) : Option Nat :=
  let held := c.stores.take 32
  let at_ (pa : Nat) : List StoreEntry := held.filter fun e => decide (e.line = lineOfPa pa) && e.mask.getLsbD (pa % 128)
  let one (pa : Nat) : Option Byte :=
    if (at_ pa).any fun e => match e.kind with | .red _ => true | _ => false then none
    else ((at_ pa).getLast?).map fun e => lineByte e.data (pa % 128)
  let bytes := ps.flatMap fun p => (List.range p.len).map fun k => one (p.pa + k)
  if bytes.all fun b => decide (b ≠ none) then some (leNat (bytes.filterMap id)) else none

/-- Write a loaded value to a lane's registers. -/
def Group.putLoaded (g : Group) (d lane size value : Nat) (signed : Bool) : Group :=
  (List.range ((size + 3) / 4)).foldl (fun g k => g.setV (d + k) lane (clean (loadWord signed size value k))) g

/-- The outstanding-load entry of LD for one line. -/
def Issued.ldEntry (i : Issued) (tagged : Bool) (rest : List Piece) (k : Nat) (l : LineAddr) : LoadEntry :=
  i.loadEntry (i.s.tickets + k) l (.ld (mSx i.w) (mCp i.w))
    ((piecesIn rest l).map fun p =>
      { lane := (BitVec.ofNat 4 p.lane).toFin, reg := fD i.w, va := BitVec.ofNat 64 p.va, pa := p.pa,
        len := p.len, off := p.off, size := sizeBytes (mSz i.w) })
    (fD i.w) tagged

/-- LD after translation: lanes that the store buffer serves are written at once; the others await their lines. Their
registers read 0 until then, and nothing reads them (R39). -/
def Issued.runLd (i : Issued) (ps : List Piece) : Out :=
  let n := sizeBytes (mSz i.w)
  let c := i.s.core i.core
  let value (l : Nat) : Option Nat := c.forward (ps.filter fun p => decide (p.lane = l))
  let served := (lanesOf i.mask).filter fun l => decide (value l ≠ none)
  let rest := ps.filter fun p => !decide (p.lane ∈ served)
  let s2 := if served = [] then i.s else i.s.countCore i.core 0x07 served.length i.blk.ctx.val
  let s3 := s2.modGroup i.g fun x =>
    (lanesOf i.mask).foldl (fun x l => x.putLoaded (fD i.w) l n ((value l).getD 0) (mSx i.w)) x
  let lines := linesOfPieces ps
  let entries := (linesOfPieces rest).mapIdx fun k l => i.ldEntry (c.tagging i.g.slot.val) rest k l
  i.doneLater (i.enter s3 entries [] lines.length (i.tagFlags lines (decide (served ≠ [])))) id

/-- The shape of LD. -/
def ldForm : Form :=
  { Form.plain [(6, 0)] (globalValid true true) false with
      srcs := fun i => i.addrSrcs 2
      dsts := fun w => [.reg false (fD w) (sizeWords (mSz w))]
      memory := true
      check := fun i => i.addressCheck i.globalVa
      ready := fun i => decide ((i.s.core i.core).loads.length < 64) }

/-- LD (R78, R79). -/
def execLd (g : GRef) (w : DWord) (s : State) : Out :=
  ldForm.issue g w s fun i =>
    if i.mask = 0 then i.done i.s id else i.translated i.globalVa (sizeBytes (mSz w)) false false Issued.runLd

/-- ST after translation: one store-buffer entry for each line. -/
def Issued.runSt (i : Issued) (ps : List Piece) : Out :=
  let tagged := (i.s.core i.core).tagging i.g.slot.val
  let lines := linesOfPieces ps
  let entry (k : Nat) (l : LineAddr) : StoreEntry :=
    let q := piecesIn ps l
    i.storeEntry (i.s.tickets + k) l (lowestVa q) (.st (mCp i.w)) (piecesData q i.storeData) (piecesMask q) tagged
  i.doneLater (i.enter i.s [] (lines.mapIdx entry) lines.length (i.tagFlags lines false)) id

/-- The shape of ST. -/
def stForm : Form :=
  { Form.plain [(6, 1)] (globalValid false true) false with
      srcs := fun i => i.addrSrcs 2 ++ [(Opnd.reg false (fD i.w) (sizeWords (mSz i.w)), i.mask)]
      memory := true
      check := fun i => i.addressCheck i.globalVa
      ready := fun i => decide ((i.s.core i.core).stores.length < 32) }

/-- ST (R78, R79). -/
def execSt (g : GRef) (w : DWord) (s : State) : Out :=
  stForm.issue g w s fun i =>
    if i.mask = 0 then i.done i.s id else i.translated i.globalVa (sizeBytes (mSz w)) true false Issued.runSt

/-- One prefetch: the line is requested into the cluster cache unless it is there, under way, bypassed or
out of reach (R78, R179, R209). -/
def State.prefetch (s : State) (core : Nat) (l : LineAddr) (va : DWord) (cp : Nat) (ctx : Fin 2048) (cls : Fin 4) : State :=
  let k := clusterOfCore core
  if !(s.chan (k / 128)).prefEn || decide (cp = 2) || s.lostNode l then s
  else
    let x := s.copyOf k l
    let s1 := s.countCluster k 0x01 1 cls.val
    if x.state ≠ .i ∨ ((s.cluster k).txn l).isSome then s1
    else (s1.startTxn k l .readS (decide (cp = 1)) ctx cls).modCluster k fun c => c.modTxn l fun t => { t with pref := some (va, s.tickets) }

/-- PREF after translation. -/
def Issued.runPref (i : Issued) (ps : List Piece) : Out :=
  let lines := linesOfPieces ps
  let s1 : State := if mCp i.w = 2 then i.s else i.s.accessEcc (clusterOfCore i.core) lines i.g.cache
  let s2 : State := lines.foldl (fun acc l => acc.prefetch i.core l (lowestVa (piecesIn ps l)) (mCp i.w) i.blk.ctx i.blk.eff) s1
  i.doneLater (s2.tagLines i.core i.g.slot.val lines.length 0 (i.tagFlags lines false)) id

/-- The shape of PREF. -/
def prefForm : Form :=
  { Form.plain [(6, 2)] (globalValid false false) false with
      memory := true
      waits := fun i => (i.addrSrcs 2).map Prod.fst }

/-- PREF (R78, R260): it raises nothing of its own, writes nothing, and is dropped where an address or a translation would
fault; a translation that misses is awaited as any other, and so are its address registers. It consumes no poison, and an illegal
encoding is ILLEGAL_INSTRUCTION as any other (notes/assumptions/31.md). -/
def execPref (g : GRef) (w : DWord) (s : State) : Out :=
  prefForm.issue g w s fun i =>
    if i.mask = 0 ∨ (i.addressCheck i.globalVa).isSome then i.done i.s id
    else i.translated i.globalVa (sizeBytes (mSz w)) false true Issued.runPref

end Sys2Proof.Machine
end

