-- ==== Sys2Proof/Machine/Atomics.lean ====
section
/-! DEFINITION. Classes 0x8 and 0x9: ATOM, RED, LDFE, STFE, WAITFE (R81, R82), and what the home slice does for each
lane of them (R81, R197, R224, R226). -/

namespace Sys2Proof.Machine

/-! ## One lane's operation at the home slice -/

/-- The value that an atomic stores, and whether FLUSH acted (R81). A four-byte operation uses the low words. -/
def atomApply (flush wide : Bool) (op : AtomOp) (old x y : DWord) : DWord × Bool :=
  let n := if wide then 64 else 32
  let o := old.toNat % 2 ^ n
  let a := x.toNat % 2 ^ n
  let sg (v : Nat) : Int := if v < 2 ^ (n - 1) then v else (v : Int) - 2 ^ n
  let num (v : Nat) : DWord × Bool := (BitVec.ofNat 64 (v % 2 ^ n), false)
  let f (r : FResult) : DWord × Bool := (r.1.setWidth 64, decide (r.2 ≠ 0))
  match op with
  | .add => num (o + a)
  | .fadd => f (f32Add flush (loWord old) (loWord x))
  | .umin => num (Nat.min o a)
  | .umax => num (Nat.max o a)
  | .smin => num (if sg a < sg o then a else o)
  | .smax => num (if sg o < sg a then a else o)
  | .fmin => f (f32MinMax flush false (loWord old) (loWord x))
  | .fmax => f (f32MinMax flush true (loWord old) (loWord x))
  | .and => num (o &&& a)
  | .or => num (o ||| a)
  | .xor => num (o ^^^ a)
  | .swap => num a
  | .cas => num (if o = a then y.toNat else o)

/-- The number in `n` bytes of a line from byte `off`. -/
def lineGet (d : Line) (off n : Nat) : Nat := (d.toNat >>> (8 * off)) % 2 ^ (8 * n)

/-- Write `n` bytes of a line from byte `off`. -/
def linePut (d : Line) (off n v : Nat) : Line :=
  mergeLine d (BitVec.ofNat 1024 (v <<< (8 * off))) (maskOf fun i => decide (off ≤ i) && decide (i < off + n))

/-- A line as the home applies operations to it. -/
structure HomeLine where
  data : Line
  fe : BitVec 16
  flushed : Bool
  deriving DecidableEq, Repr

/-- Set or clear the full/empty bit of word `k`. -/
def setFe (fe : BitVec 16) (k : Nat) (full : Bool) : BitVec 16 :=
  if full then fe ||| BitVec.ofNat 16 (2 ^ k) else fe &&& ~~~BitVec.ofNat 16 (2 ^ k)

/-- The condition that a waiting full/empty operation needs; none for one that does not wait (R82). -/
def feWants : FeOp → Option Bool
  | .copy | .take | .waitFull => some true
  | .put | .waitEmpty => some false
  | _ => none

/-- Apply one lane's operation (R81, R82): the line, and what the lane receives. A lane whose condition is
unmet parks and changes nothing (R50). -/
def laneApply (flush : Bool) (o : LaneOp) (h : HomeLine) : HomeLine × LaneResult :=
  match o with
  | .atom lane off wide op x y =>
    let n := if wide then 8 else 4
    let old : DWord := BitVec.ofNat 64 (lineGet h.data off.val n)
    let r := atomApply flush wide op old x y
    ({ h with data := linePut h.data off.val n r.1.toNat, flushed := h.flushed || r.2 }, ⟨lane, old, false, false, false⟩)
  | .fe lane off op x =>
    let k := off.val / 8
    let full := h.fe.getLsbD k
    let old : DWord := BitVec.ofNat 64 (lineGet h.data off.val 8)
    match (feWants op) with
    | some w =>
      if full != w then (h, ⟨lane, 0, full, true, false⟩)
      else
        match op with
        | .take => ({ h with fe := setFe h.fe k false }, ⟨lane, old, full, false, false⟩)
        | .put => ({ h with data := linePut h.data off.val 8 x.toNat, fe := setFe h.fe k true }, ⟨lane, 0, full, false, false⟩)
        | .copy => (h, ⟨lane, old, full, false, false⟩)
        | _ => (h, ⟨lane, 0, full, false, false⟩)
    | none =>
      match op with
      | .read => (h, ⟨lane, old, full, false, false⟩)
      | .fill => ({ h with data := linePut h.data off.val 8 x.toNat, fe := setFe h.fe k true }, ⟨lane, 0, full, false, false⟩)
      | _ => ({ h with data := linePut h.data off.val 8 x.toNat, fe := setFe h.fe k false }, ⟨lane, 0, full, false, false⟩)

/-- All lanes of a line request, in ascending lane order (R81). -/
def applyOps (flush : Bool) : List LaneOp → HomeLine → HomeLine × List LaneResult
  | [], h => (h, [])
  | o :: t, h =>
    let r := laneApply flush o h
    let rest := applyOps flush t r.1
    (rest.1, r.2 :: rest.2)

/-! ## Form A (R66, R81) -/

/-- The fields that form A shares: TYPE 0, FMT 0, the offset register only with a scalar base, the base a pair. -/
def formAValid (b : Block) (w : DWord) : Bool :=
  decide (fType w = 0) && !fFmt w && regOk b.regs (fAs w) (fA w) 2
    && (if aBv w then fAs w && regOk b.regs false (fB w) 1 else decide (fB w = 0) && !aBu w)

/-- Bytes and words of the access. -/
def aBytes (w : DWord) : Nat := if aSz8 w then 8 else 4
def aWords (w : DWord) : Nat := if aSz8 w then 2 else 1

/-- The address of a lane: SCALE is implied by the access size (R81). -/
def Issued.atomVa (i : Issued) (lane : Nat) : DWord :=
  let scaled (lane : Nat) : DWord :=
    if aBv i.w then
      let v := (i.grp.vword (fB i.w) lane).val
      (if aBu i.w then v.setWidth 64 else v.signExtend 64) <<< (if aSz8 i.w then 3 else 2)
    else 0
  i.vaOf scaled (aOffs i.w) lane

/-- The sources of the address. -/
def Issued.atomAddrSrcs (i : Issued) : List (Opnd × Mask) :=
  (Opnd.reg (fAs i.w) (fA i.w) 2, i.mask) :: if aBv i.w then [(.reg false (fB i.w) 1, i.mask)] else []

/-- MISALIGNED comes before ADDRESS (R91). -/
def Issued.atomCheck (i : Issued) : Option Exc :=
  (i.alignCheck i.atomVa (aBytes i.w)).orElse fun _ => i.addressCheck i.atomVa

/-- OPX of ATOM and RED. -/
def atomOpOf : Nat → Option AtomOp
  | 0 => some .add
  | 1 => some .fadd
  | 2 => some .umin
  | 3 => some .umax
  | 4 => some .smin
  | 5 => some .smax
  | 6 => some .fmin
  | 7 => some .fmax
  | 8 => some .and
  | 9 => some .or
  | 10 => some .xor
  | 11 => some .swap
  | 12 => some .cas
  | _ => none

/-- Registers of operand C: CAS takes twice the words; the eight-byte CAS wants C a multiple of 4 (R81). -/
def atomC (w : DWord) : Nat := if aOpx w = 12 then 2 * aWords w else aWords w
def atomCOk (b : Block) (w : DWord) : Bool :=
  decide (fC w + atomC w ≤ b.regs) && decide (fC w % (if aOpx w = 12 && aSz8 w then 4 else aWords w) = 0)

/-- ATOM and RED encodings: the binary32 operations take four bytes, CAS is ATOM only, RED has D = 0. -/
def atomValid (red : Bool) (b : Block) (w : DWord) : Bool :=
  formAValid b w && decide (aOpx w ≤ (if red then 11 else 12))
    && !(aSz8 w && (decide (aOpx w = 1) || decide (aOpx w = 6) || decide (aOpx w = 7)))
    && atomCOk b w && (if red then decide (fD w = 0) else regOk b.regs false (fD w) (aWords w))

/-- Words from register `r` of a lane as one number. -/
def Issued.words (i : Issued) (r n lane : Nat) : DWord :=
  if n = 1 then (i.grp.vword r lane).val.setWidth 64 else (i.grp.vword (r + 1) lane).val ++ (i.grp.vword r lane).val

/-- The lanes' operations in a line, in ascending lane order. -/
def Issued.atomOps (i : Issued) (ps : List Piece) : List LaneOp :=
  ps.map fun p =>
    .atom (BitVec.ofNat 4 p.lane).toFin (BitVec.ofNat 7 p.pa).toFin (aSz8 i.w) ((atomOpOf (aOpx i.w)).getD .add)
      (i.words (fC i.w) (aWords i.w) p.lane)
      (if aOpx i.w = 12 then i.words (fC i.w + aWords i.w) (aWords i.w) p.lane else 0)

/-- ATOM after translation: one outstanding-load entry for each line. -/
def Issued.runAtom (i : Issued) (ps : List Piece) : Out :=
  let lines := linesOfPieces ps
  let tagged := (i.s.core i.core).tagging i.g.slot.val
  let entry (k : Nat) (l : LineAddr) : LoadEntry :=
    i.loadEntry (i.s.tickets + k) l (.atom (i.atomOps (piecesIn ps l))) [] (fD i.w) tagged
  i.doneLater (i.enter i.s (lines.mapIdx entry) [] lines.length (i.tagFlags lines false)) id

/-- The shape of ATOM. -/
def atomForm : Form :=
  { Form.plain [(8, 0)] (atomValid false) false with
      srcs := fun i => i.atomAddrSrcs ++ [(Opnd.reg false (fC i.w) (atomC i.w), i.mask)]
      dsts := fun w => [.reg false (fD w) (aWords w)]
      memory := true
      check := Issued.atomCheck
      ready := fun i => decide ((i.s.core i.core).loads.length < 64) }

/-- ATOM. -/
def execAtom (g : GRef) (w : DWord) (s : State) : Out :=
  atomForm.issue g w s fun i =>
    if i.mask = 0 then i.done i.s id else i.translated i.atomVa (aBytes w) true false Issued.runAtom

/-- RED after translation: one store-buffer entry for each line, which holds no byte value (R165). -/
def Issued.runRed (i : Issued) (ps : List Piece) : Out :=
  let lines := linesOfPieces ps
  let tagged := (i.s.core i.core).tagging i.g.slot.val
  let entry (k : Nat) (l : LineAddr) : StoreEntry :=
    let q := piecesIn ps l
    i.storeEntry (i.s.tickets + k) l (lowestVa q) (.red (i.atomOps q)) 0 (piecesMask q) tagged
  i.doneLater (i.enter i.s [] (lines.mapIdx entry) lines.length (i.tagFlags lines false)) id

/-- The shape of RED. -/
def redForm : Form :=
  { Form.plain [(8, 1)] (atomValid true) false with
      srcs := fun i => i.atomAddrSrcs ++ [(Opnd.reg false (fC i.w) (atomC i.w), i.mask)]
      memory := true
      check := Issued.atomCheck
      ready := fun i => decide ((i.s.core i.core).stores.length < 32) }

/-- RED. -/
def execRed (g : GRef) (w : DWord) (s : State) : Out :=
  redForm.issue g w s fun i =>
    if i.mask = 0 then i.done i.s id else i.translated i.atomVa (aBytes w) true false Issued.runRed

/-! ## Class 0x9 (R50, R82) -/

/-- The operation that OP and OPX select. -/
def feOpOf (op opx : Nat) : Option FeOp :=
  match op, opx with
  | 0, 0 => some .read
  | 0, 1 => some .copy
  | 0, 2 => some .take
  | 1, 0 => some .fill
  | 1, 1 => some .put
  | 1, 2 => some .empty
  | 2, 0 => some .waitFull
  | 2, 1 => some .waitEmpty
  | _, _ => none

def feOpIn (w : DWord) : FeOp := (feOpOf (fOp w) (aOpx w)).getD .read

/-- Encodings of class 0x9: SZ8 is 1; C is a predicate number for READ, else 0; WAITFE has D = 0, the others a pair. -/
def feValid (b : Block) (w : DWord) : Bool :=
  formAValid b w && aSz8 w && (feOpOf (fOp w) (aOpx w)).isSome
    && (if feOpIn w = .read then decide (fC w ≤ 7) else decide (fC w = 0))
    && (if fOp w = 2 then decide (fD w = 0) else regOk b.regs false (fD w) 2)

/-- The accesses that write a page (R256). -/
def feWrites (op : FeOp) : Bool :=
  match op with
  | .take | .fill | .put | .empty => true
  | _ => false

/-- DIVERGENCE_DEPTH of a waiting form: the core finds at issue that a parked entry would not fit (R46, R91; DEDUCED,
notes/assumptions/16.md). -/
def Issued.feCheck (i : Issued) : Option Exc :=
  i.atomCheck.orElse fun _ =>
    if i.mask ≠ 0 && (feWants (feOpIn i.w)).isSome && decide (32 ≤ i.grp.stack.length) then some i.depthExc else none

/-- The lanes' operations in a line. -/
def Issued.feOps (i : Issued) (ps : List Piece) : List LaneOp :=
  ps.map fun p =>
    .fe (BitVec.ofNat 4 p.lane).toFin (BitVec.ofNat 7 p.pa).toFin (feOpIn i.w)
      (if fOp i.w = 1 then i.words (fD i.w) 2 p.lane else 0)

/-- A full/empty instruction after translation. FILL and EMPTY take store-buffer entries; the others take
outstanding-load entries; the forms that wait make the group wait for the answers (R39, R82). -/
def Issued.runFe (i : Issued) (ps : List Piece) : Out :=
  let op := feOpIn i.w
  let lines := linesOfPieces ps
  let flags := i.tagFlags lines false
  let tagged := (i.s.core i.core).tagging i.g.slot.val
  if op = .fill ∨ op = .empty then
    let entry (k : Nat) (l : LineAddr) : StoreEntry :=
      let q := piecesIn ps l
      let value (lane : Nat) : Nat := (i.words (fD i.w) 2 lane).toNat
      i.storeEntry (i.s.tickets + k) l (lowestVa q) (.fe (i.feOps q)) (piecesData q value) (piecesMask q) tagged
    i.doneLater (i.enter i.s [] (lines.mapIdx entry) lines.length flags) id
  else
    let pred : Option (Fin 8) := if op = .read then some (BitVec.ofNat 3 (fC i.w)).toFin else none
    let entry (k : Nat) (l : LineAddr) : LoadEntry :=
      i.loadEntry (i.s.tickets + k) l (.fe (i.feOps (piecesIn ps l)) pred)
        ((piecesIn ps l).map fun p =>
          { lane := (BitVec.ofNat 4 p.lane).toFin, reg := fD i.w, va := BitVec.ofNat 64 p.va, pa := p.pa,
            len := p.len, off := p.off, size := 8 })
        (fD i.w) tagged
    let s1 := i.enter i.s (lines.mapIdx entry) [] lines.length flags
    if (feWants op).isSome then .next (s1.modGroup i.g fun g => { g with waiting := .fe i.mask 0 [] true false })
    else i.doneLater s1 id

/-- The form of a full/empty instruction. -/
def feForm (op : Nat) : Form :=
  { Form.plain [(9, op)] feValid false with
    srcs := fun i => i.atomAddrSrcs ++ if op = 1 then [(Opnd.reg false (fD i.w) 2, i.mask)] else []
    dsts := fun w => if op = 0 then [.reg false (fD w) 2] else []
    memory := true
    check := Issued.feCheck
    ready := fun i =>
      if feOpIn i.w = .fill ∨ feOpIn i.w = .empty then decide ((i.s.core i.core).stores.length < 32)
      else decide ((i.s.core i.core).loads.length < 64) }

/-- The shape of LDFE. -/
def ldfeForm : Form :=
  feForm 0

/-- LDFE: READ, COPY, TAKE. -/
def execLdfe (g : GRef) (w : DWord) (s : State) : Out :=
  ldfeForm.issue g w s fun i =>
    if i.mask = 0 then i.done i.s id else i.translated i.atomVa 8 (feWrites (feOpIn w)) false Issued.runFe

/-- The shape of STFE. -/
def stfeForm : Form :=
  feForm 1

/-- STFE: FILL, PUT, EMPTY. -/
def execStfe (g : GRef) (w : DWord) (s : State) : Out :=
  stfeForm.issue g w s fun i =>
    if i.mask = 0 then i.done i.s id else i.translated i.atomVa 8 (feWrites (feOpIn w)) false Issued.runFe

/-- The shape of WAITFE. -/
def waitfeForm : Form :=
  feForm 2

/-- WAITFE: FULL, EMPTY. -/
def execWaitfe (g : GRef) (w : DWord) (s : State) : Out :=
  waitfeForm.issue g w s fun i =>
    if i.mask = 0 then i.done i.s id else i.translated i.atomVa 8 (feWrites (feOpIn w)) false Issued.runFe

end Sys2Proof.Machine
end

