-- ==== Sys2Proof/Machine/Convert.lean ====
section
/-! DEFINITION. Class 0x4: CVT (R76, R133 to R141) and its health-monitor counts (R147). -/

namespace Sys2Proof.Machine

/-- The fields that X holds for CVT (R76). -/
def cvtStype (w : DWord) : Nat := fieldOf w 17 14
def cvtEl (w : DWord) : Nat := fieldOf w 13 11
def cvtSat (w : DWord) : Nat := fieldOf w 10 9
def cvtSc (w : DWord) : Bool := w.getLsbD 8

/-- Elements of a type in a register word: 1 for a type that is not packed. -/
def elCount (t : Nat) : Nat :=
  match ElTy.ofCode (BitVec.ofNat 4 t) with
  | some e => if e.isShort then e.perWord else 1
  | none => 1

def isShortCode (t : Nat) : Bool :=
  match ElTy.ofCode (BitVec.ofNat 4 t) with
  | some e => e.isShort
  | none => false

/-- What R67, R76 and R141 ask of a CVT. -/
def cvtValid (b : Block) (w : DWord) : Bool :=
  let st := cvtStype w
  let dt := fType w
  !fFmt w && decide (ElTy.ofCode (BitVec.ofNat 4 st) ≠ none) && decide (ElTy.ofCode (BitVec.ofNat 4 dt) ≠ none)
    && decide (fieldOf w 7 0 = 0) && unusedR w false false (!cvtSc w) true && decide (cvtSat w ≠ 3)
    && decide (cvtEl w < Nat.min (if isShortCode st then elCount st else 8) (if isShortCode dt then elCount dt else 8))
    && (isShortCode st || isShortCode dt || (decide (cvtEl w = 0) && !cvtSc w))
    && regOk b.regs false (fD w) (typeWords dt) && (opndA w (typeWords st)).ok b.regs
    && (!cvtSc w || (opndB w 1).ok b.regs)

/-- The source bits of a lane: an element's code, a word, or a pair. -/
def Issued.cvtSource (i : Issued) (st : ElTy) (lane : Nat) : DWord :=
  let x := i.grp.opVal (opndA i.w (typeWords (cvtStype i.w))) lane
  if st.isShort then BitVec.ofNat 64 (getElem_ st (loWord x) (cvtEl i.w)) else x

/-- The scale byte of a lane when SC = 1. -/
def Issued.cvtScale (i : Issued) (lane : Nat) : Option Byte :=
  if cvtSc i.w then some ((i.grp.opVal (opndB i.w 1) lane).extractLsb' 0 8) else none

/-- Overflow saturates (SAT, R76, R140). -/
def cvtSaturates (sel : Nat) (satNaR : Bool) : Bool := if sel = 0 then !satNaR else decide (sel = 1)

/-- One lane of CVT: the result bits and the flags. -/
def Issued.cvtLane (i : Issued) (st dt : ElTy) (lane : Nat) : DWord × BitVec 3 :=
  cvtValue st dt i.blk.flush (cvtSaturates (cvtSat i.w) i.blk.satNaR) (i.cvtScale lane) (i.cvtSource st lane)

/-- Count one lane of a CVT into a short format (R147). -/
def Issued.cvtCount (i : Issued) (st dt : ElTy) (c : MonCounts) (lane : Nat) : MonCounts :=
  let r := i.cvtLane st dt lane
  let code := r.1.toNat % 2 ^ dt.width
  c.add (cvtDecode st false (i.cvtSource st lane)).1 (decide (code = 0)) (decide (code = narCode dt))
    (decide (r.2 &&& flagSaturated ≠ 0))

/-- The word of v(D) that a lane receives: the element inserted into a packed word, or the low word. -/
def Issued.cvtWord (i : Issued) (st dt : ElTy) (lane : Nat) : Word :=
  let r := (i.cvtLane st dt lane).1
  if dt.isShort then setElem_ dt (i.grp.vword (fD i.w) lane).val (cvtEl i.w) (r.toNat % 2 ^ dt.width) else loWord r

/-- The effect of CVT in the lanes of the execution mask. -/
def Issued.convert (i : Issued) (st dt : ElTy) : Out :=
  let lanes := lanesOf i.mask
  let fl := lanes.foldl (fun a l => a ||| (i.cvtLane st dt l).2) 0
  let s1 := if dt.isShort then
      i.s.modBlockAt i.core i.grp.block.val fun b =>
        { b with countsCvt := lanes.foldl (fun c l => i.cvtCount st dt c l) b.countsCvt }
    else i.s
  i.done s1 fun g =>
    let g1 := g.setLanes (fD i.w) i.mask fun l => clean (i.cvtWord st dt l)
    let g2 := if typeWords (fType i.w) = 2 then
        g1.setLanes (fD i.w + 1) i.mask fun l => clean (hiWord (i.cvtLane st dt l).1)
      else g1
    g2.orFlags fl

/-- The shape of CVT. -/
def cvtForm : Form :=
  { Form.plain [(4, 0)] cvtValid false with
      srcs := fun i => (opndA i.w (typeWords (cvtStype i.w)), i.mask) ::
        if cvtSc i.w then [(opndB i.w 1, i.mask)] else []
      dsts := fun w => [.reg false (fD w) (typeWords (fType w))] }

/-- CVT. -/
def execCvt (g : GRef) (w : DWord) (s : State) : Out :=
  cvtForm.issue g w s fun i =>
    match ElTy.ofCode (BitVec.ofNat 4 (cvtStype w)), ElTy.ofCode (BitVec.ofNat 4 (fType w)) with
    | some st, some dt => i.convert st dt
    | _, _ => .next (i.stop i.illegal)

end Sys2Proof.Machine
end

