-- ==== Sys2Proof/Machine/StoreLoad.lean ====
section
/-! DEFINITION. The store buffer and the outstanding loads of a core (R161, R164, R178 to R181, R219): STORE_BUFFER_ISSUE,
STORE_ACK, LOAD_RETURN, UNREGISTERED_RETRY. -/

namespace Sys2Proof.Machine

def StoreEntry.plain (e : StoreEntry) : Bool :=
  match e.kind with
  | .st cp => decide (cp ≠ 2)
  | _ => false

/-- The entry may leave for the fabric: nothing that its group issued earlier to the line can still be performed
after it (R161). -/
def Core.mayIssueStore (c : Core) (e : StoreEntry) : Bool :=
  !(c.loads.any fun x => decide (x.slot = e.slot) && decide (x.line = e.line) && decide (x.stamp < e.stamp) && !x.ready)
    && !(c.stores.any fun x => decide (x.slot = e.slot) && decide (x.line = e.line) && decide (x.id < e.id) && !x.acked
        && !(x.plain && e.plain))

/-- The accesses of a core have moved on: waiting loads and COMPLETEs are looked at again (R166, R178). -/
def State.accessDone (s : State) (core : Nat) : State := ((s.pumpLoads core).recheckCompletes core).noteReadies core (List.range 16)

/-- Count a lost store of an entry to its group, or to its launch once the group has ended (R179, R181). -/
def State.addLostStore (s : State) (core : Nat) (live : Bool) (slot launch ended stamp : Nat) (va : DWord) : State :=
  if live then s.modGroupAt core slot fun g => g.addLost stamp va
  else s.modLaunch launch fun l => l.addLost 1 (lostPlace ended stamp) va

/-- Free a store-buffer entry. -/
def State.freeStore (s : State) (core : Nat) (e : StoreEntry) : State :=
  let s1 := s.modCore core fun c => { c with stores := c.stores.filter fun x => !decide (x.id = e.id) }
  (if e.tagged then s1.tagReturn core else s1).accessDone core

/-- An entry completes lost (R178, R179). -/
def State.loseStore (s : State) (core : Nat) (e : StoreEntry) : State :=
  (s.addLostStore core e.live e.slot.val e.launch e.ended e.id e.va).freeStore core e

/-- A request for a store-buffer entry at the tracking slice. -/
def storeRequest (core : Nat) (kind : MsgKind) (e : StoreEntry) (ops : List LaneOp) : Msg :=
  { Msg.blank kind e.line (coreAgent core) (sliceAgent e.line) with
    tag := e.id, ops := ops, flush := e.flush, context := e.ctx, cls := e.cls, data := e.data, mask := e.mask,
    poison := e.poison, hasData := decide (kind = .wrMerge) }

/-- Send an entry on its way: to its cluster's cache, with what that finds in the line, or with CP = 2, RED and full/empty to
the slice (R209, R215, R230). -/
def State.sendStore (s : State) (core : Nat) (e : StoreEntry) (found : CacheEcc) : State :=
  match e.kind with
  | .st cp =>
    if cp = 2 then s.post (storeRequest core .wrMerge e [])
    else
      let k := clusterOfCore core
      ((s.countCluster k 0x01 1 e.cls.val).clusterEcc k e.line found).tryStore core e
  | .red ops => s.post (storeRequest core .atomic e ops)
  | .fe ops => s.post (storeRequest core .feOp e ops)

/-- STORE_BUFFER_ISSUE: the oldest entry not yet issued leaves (R164); to an unreachable node it completes lost. -/
def execStoreBufferIssue (c : CoreRef) (found : CacheEcc) (s : State) : Out :=
  let k := coreId c
  match ((s.core k).stores.take 32).find? fun e => !e.issued with
  | none => enabled false "no entry awaits issue" (.next s)
  | some e =>
    enabled ((s.core k).mayIssueStore e && s.issuing (channelOfCore k)) "the entry is held back" <|
      if s.lostNode e.line then .next (s.loseStore k e)
      else
        let e' := { e with issued := true }
        .next ((s.modStore k e.id fun _ => e').sendStore k e' found)

/-- STORE_ACK: an acknowledged entry is freed (R164). -/
def execStoreAck (c : CoreRef) (id : Nat) (s : State) : Out :=
  let k := coreId c
  match (s.core k).stores.find? fun e => decide (e.id = id) && e.acked with
  | none => enabled false "no such entry is acknowledged" (.next s)
  | some e => .next (s.freeStore k e)

/-! ## Loads -/

/-- Any of `n` bytes from a line offset lies in a poisoned half (R226). -/
def poisonedAt (poison : BitVec 2) (off n : Nat) : Bool :=
  (List.range n).any fun k => poison.getLsbD ((off + k) / 64)

/-- Write what a lane of LD takes from its line into the registers that read 0 since the issue. -/
def LoadEntry.mergeLane (e : LoadEntry) (signed : Bool) (g : Group) (x : LaneLoad) : Group :=
  let o := x.pa % 128
  let v := lineGet e.data o x.len * 2 ^ (8 * x.off)
  (List.range ((x.size + 3) / 4)).foldl (fun g k =>
    -- the bytes of word k that the piece holds
    let lo := Nat.max x.off (4 * k)
    let hi := Nat.min (x.off + x.len) (4 * k + 4)
    let p := decide (lo < hi) && poisonedAt e.poison (o + (lo - x.off)) (hi - lo)
    let old := g.vword (x.reg + k) x.lane.val
    g.setV (x.reg + k) x.lane.val ⟨old.val ||| loadWord signed x.size v k, old.poison || p⟩) g

/-- Write a pair or word that a lane receives from the home, with its poison. -/
def Group.putResult (g : Group) (d : Nat) (wide : Bool) (lane : Nat) (v : DWord) (p : Bool) : Group :=
  let g' := g.setV d lane ⟨loWord v, p⟩
  if wide then g'.setV (d + 1) lane ⟨hiWord v, p⟩ else g'

def opOff (o : LaneOp) : Nat :=
  match o with
  | .atom _ off _ _ _ _ => off.val
  | .fe _ off _ _ => off.val
def opWide (o : LaneOp) : Bool :=
  match o with
  | .atom _ _ w _ _ _ => w
  | .fe _ _ _ _ => true
/-- The operation returns data to its lane. -/
def opReturns (o : LaneOp) : Bool :=
  match o with
  | .atom _ _ _ _ _ _ => true
  | .fe _ _ op _ => decide (op = .read) || decide (op = .copy) || decide (op = .take)

/-- What a lane of an entry received; a lost entry answers every lane with poisoned data (R179). -/
def LoadEntry.resultOf (e : LoadEntry) (lane : Nat) : LaneResult :=
  (e.results.find? fun r => decide (r.lane.val = lane)).getD ⟨(BitVec.ofNat 4 lane).toFin, 0, false, false, false⟩

/-- Write the data that the lanes of an atomic or full/empty entry received. -/
def LoadEntry.writeResults (e : LoadEntry) (ops : List LaneOp) (g : Group) : Group :=
  (ops.filter opReturns).foldl (fun g o =>
    let r := e.resultOf o.laneNo
    if r.parked then g
    else g.putResult e.dst (opWide o) o.laneNo r.value (e.lost || poisonedAt e.poison (opOff o) (if opWide o then 8 else 4))) g

/-- The answers to a waiting full/empty instruction have all come (R50): its unmet lanes park with the lines they
await, its other lanes go on. -/
def Group.feDone (g : Group) : Group :=
  match g.waiting with
  | .fe _ unmet lines reg woken =>
    let st := if unmet = 0 then g.stack else ⟨.parked lines woken reg, g.pc, unmet⟩ :: g.stack
    ({ g with pc := g.pc + 8, mask := g.mask &&& ~~~unmet, stack := st }).settle
  | _ => g

/-- The lowest virtual address that an entry's lanes name. -/
def LoadEntry.va (e : LoadEntry) : DWord :=
  BitVec.ofNat 64 (e.lanes.foldl (fun m x => Nat.min m x.va.toNat) (2 ^ 64 - 1))

/-- One line of a waiting full/empty instruction has answered. -/
def LoadEntry.feAnswer (e : LoadEntry) (ops : List LaneOp) (g : Group) : Group :=
  let unmetOps := if e.lost then [] else ops.filter fun o => (e.resultOf o.laneNo).parked
  let un : Mask := maskOf fun l => unmetOps.any fun o => decide (o.laneNo = l)
  let refused := e.results.any fun r => r.unregistered
  let g := e.writeResults ops g
  match g.waiting with
  | .fe m u ls reg woken =>
    { g with waiting := .fe m (u ||| un) (if un = 0 then ls else ls ++ [⟨e.line, e.id, e.va⟩]) (reg && !(refused && decide (un ≠ 0))) woken }
  | _ => g

/-- A lost entry of a full/empty instruction that returns no data counts in the lost tally (R179). -/
def LoadEntry.countsLost (e : LoadEntry) (ops : List LaneOp) : Bool := e.lost && !(ops.any opReturns)

/-- What a returning entry does to its group. -/
def State.returnLoad (s : State) (core : Nat) (e : LoadEntry) : State :=
  let slot := e.slot.val
  match e.kind with
  | .ld signed _ => s.modGroupAt core slot fun g => e.lanes.foldl (fun g x => e.mergeLane signed g x) g
  | .atom ops =>
    s.modGroupAt core slot fun g => (e.writeResults ops g).orFlags (if e.flushed then flagFlushed else 0)
  | .fe ops (some p) =>
    -- the predicate bit of a lost word has no stated value
    let f := s.takeFree
    let s1 := if e.lost then f.2 else s
    let bit (l : Nat) : Bool := if e.lost then f.1.getLsbD l else (e.resultOf l).full
    let lanes : Mask := maskOf fun l => ops.any fun o => decide (o.laneNo = l)
    s1.modGroupAt core slot fun g =>
      let g := e.writeResults ops g
      g.setP p.val ((g.pmask p.val &&& ~~~lanes) ||| (lanes &&& maskOf bit))
  | .fe ops none =>
    let s1 := if e.countsLost ops then s.addLostStore core true slot e.launch e.ended e.id e.va else s
    let s2 := s1.modGroupAt core slot fun g => e.feAnswer ops g
    let more := (s2.core core).loads.any fun x => decide (x.slot = e.slot) && decide (x.stamp = e.stamp) && !decide (x.id = e.id)
    if more then s2 else s2.modGroupAt core slot Group.feDone

/-- LOAD_RETURN: the data or result of a line request is written to the registers, and its entry is freed (R65, R79,
R160, R219, R226). -/
def execLoadReturn (c : CoreRef) (id : Nat) (s : State) : Out :=
  let k := coreId c
  match (s.core k).loads.find? fun e => decide (e.id = id) && e.ready with
  | none => enabled false "no such line request has its data" (.next s)
  | some e =>
    let s1 := if e.live then s.returnLoad k e
      else match e.kind with
        | .fe ops _ => if e.countsLost ops then s.addLostStore k false 0 e.launch e.ended e.id e.va else s
        | _ => s
    let s2 := s1.modCore k fun c => { c with loads := c.loads.filter fun x => !decide (x.id = id) }
    let s3 := if e.missed then s2.histogram (channelOfCore k) 1 e.cls.val else s2
    .next (((if e.tagged then s3.tagReturn k else s3).accessDone k).noteReady k e.slot.val)

/-- UNREGISTERED_RETRY: after the backoff, an entry that parked without registration is runnable again (R199). -/
def execUnregisteredRetry (g : GRef) (s : State) : Out :=
  let due (e : StackEntry) : Bool :=
    match e.kind with
    | .parked _ woken registered => !woken && !registered
    | _ => false
  let x := s.group g
  enabled (x.live && x.stack.any due) "no entry parked without registration" <|
    .next (s.modGroup g fun x =>
      let st := x.stack.map fun e => match e.kind with
        | .parked lines _ reg => if due e then { e with kind := .parked lines true reg } else e
        | _ => e
      let x' := { x with stack := st }
      match x.waiting with
      | .parked | .backoff => x'.settle
      | _ => x')

end Sys2Proof.Machine
end

