-- ==== Sys2Proof/Machine/Quern.lean ====
section
/-! DEFINITION. Class 0xB and the Quern (R92 to R123, R146): QLOAD, QSWAP, QSTREAM, QDRAIN, QZERO, and the queue that
runs them: QUERN_QUEUE_START, QUERN_INSTRUCTION_COMPLETE. -/

namespace Sys2Proof.Machine

/-! ## The instruction words (R84) -/

def qFmt (w : DWord) : BitVec 4 := w.extractLsb' 14 4
def qBank (w : DWord) : Bool := w.getLsbD 13
def qAccum (w : DWord) : Bool := w.getLsbD 12
def qSc (w : DWord) : Bool := w.getLsbD 11
def qGang (w : DWord) : Bool := w.getLsbD 10
def qSat (w : DWord) : BitVec 2 := w.extractLsb' 11 2
def qClr (w : DWord) : Bool := w.getLsbD 10
def qRmask (w : DWord) : BitVec 4 := w.extractLsb' 10 4
def qCmask (w : DWord) : Byte := w.extractLsb' 2 8

/-! ## Stationary sets and banks (R94) -/

/-- The set that a tile's words make (R92, R95). -/
def setOfWords (gang : Bool) (fmt rmask : BitVec 4) (cmask : Byte) (words : List Word) : QuernSet :=
  let codes := unpackWords (quernTy fmt) words (4 * tileDepth fmt gang)
  let go := codes.foldl (fun (acc : Nat × Table (BitVec 16)) c => (acc.1 + 1, tset 0 acc.2 acc.1 (BitVec.ofNat 16 c))) (0, [])
  { elems := go.2, fmt := fmt, rmask := rmask, cmask := cmask, loaded := true }

/-- Entry e of a bank. -/
def accKey (bank : Bool) (e : Nat) : Nat := (if bank then 32 else 0) + e
def Quern.entry (q : Quern) (bank : Bool) (e : Nat) : Word := tget 0 q.acc (accKey bank e)
def Quern.putEntry (q : Quern) (bank : Bool) (e : Nat) (w : Word) : Quern :=
  { q with acc := tset 0 q.acc (accKey bank e) w, written := q.written ||| BitVec.ofNat 64 (2 ^ accKey bank e) }
def Quern.bankWritten (q : Quern) (bank : Bool) : BitVec 32 := if bank then q.written.extractLsb' 32 32 else q.written.extractLsb' 0 32
/-- Every entry of a bank reads +0 and its written bit 0 (R106, R146). -/
def Quern.clearBank (q : Quern) (bank : Bool) : Quern :=
  { q with
    acc := q.acc.filter fun e => decide (32 ≤ e.1) != bank
    written := if bank then q.written &&& 0x00000000FFFFFFFF else q.written &&& 0xFFFFFFFF00000000 }

/-- Cells that a set enables (R96, R423). -/
def QuernSet.cells (x : QuernSet) : Nat := popcount x.rmask * popcount x.cmask

/-! ## Streaming (R103, R104) -/

/-- The scale that applies to a term: none without SC, NaR where one of the two is −128 (R132). -/
def scaleOf (sa sw : Byte) : Option Int := if sa = 0x80 ∨ sw = 0x80 then none else some (sa.toInt + sw.toInt)

/-- The enabled terms of row `m` in one set, and whether FLUSH took an input. -/
def rowTerms (flush gang : Bool) (wfmt : BitVec 4) (x : QuernSet) (m : Nat) (w : Nat → Nat)
    (scale : Option (Option Int)) : List Decoded :=
  let ne := cellElems x.fmt gang
  let kd := tileDepth x.fmt gang
  (lanesOf x.cmask).flatMap fun c => (List.range ne).map fun k =>
    let p := c * ne + k
    let a := decShort (quernTy x.fmt) flush (tget 0 x.elems (m * kd + p)).toNat
    let b := decShort (quernTy wfmt) flush (w p)
    let t := a.1.mul b.1
    let t' := match scale with
      | none => t
      | some none => Exact.nan
      | some (some n) => t.scale n
    (t', a.2 || b.2)

def isNaNExact (x : Exact) : Bool :=
  match x with
  | .nan => true
  | _ => false

/-- The new value of an entry from its old value and its terms, rounded once (R104), and its flush. -/
def streamEntry (flush accum : Bool) (old : Word) (terms : List Decoded) : Word × Bool :=
  let o := (dec32 false old).1
  let fl := terms.any fun t => t.2
  if (terms.any fun t => isNaNExact t.1) || (accum && isNaNExact o) then (canonNaN, fl)
  else
    match accum, o with
    | true, .inf _ => (old, fl)
    | _, _ =>
      let sum := terms.foldl (fun (a : Exact) t => a.add t.1) (if accum then o else .zero)
      let r := enc32 flush sum.posZero
      (dropNegZero r.1, fl || r.2)

/-- A row of sets that share one accumulator row: each with its step's weights and its scales. -/
structure RowPart where
  cells : QuernSet
  weights : List Nat
  sa : List Byte
  sw : Byte
  deriving DecidableEq, Repr

/-- One step into entries 8m + j of a Quern: a row is enabled when a set that enables it has an enabled column (R96,
DEDUCED for a gang, notes/assumptions/17.md). -/
def Quern.step (q : Quern) (flush gang : Bool) (wfmt : BitVec 4) (bank accum scaled : Bool) (j : Nat)
    (parts : List RowPart) : Quern × Bool :=
  (List.range 4).foldl (fun (acc : Quern × Bool) m =>
    let on := parts.filter fun p => p.cells.rmask.getLsbD m && decide (p.cells.cmask ≠ 0)
    if on = [] then acc
    else
      let terms := on.flatMap fun p =>
        rowTerms flush gang wfmt p.cells m (fun k => p.weights.getD k 0)
          (if scaled then some (scaleOf (p.sa.getD m 0) p.sw) else none)
      let r := streamEntry flush accum (acc.1.entry bank (8 * m + j)) terms
      (acc.1.putEntry bank (8 * m + j) r.1, acc.2 || r.2)) (q, false)

/-! ## Issue (R93) -/

/-- The active and shadow sets that the queued instructions will leave: whether loaded, and the format. -/
def Quern.after (q : Quern) : (Bool × BitVec 4) × (Bool × BitVec 4) :=
  q.queue.foldl (fun acc e =>
    match e.op with
    | .load _ _ _ _ fmt _ _ => (acc.1, (true, fmt))
    | .swap => if e.started then acc else (acc.2, acc.1)
    | _ => acc) ((q.active.loaded, q.active.fmt), (q.shadow.loaded, q.shadow.fmt))

def Quern.swapSeen (q : Quern) : Bool :=
  q.gangSwapped || q.queue.any fun e => match e.op with | .swap => true | _ => false

/-- The lead of a gang is presented core 0 of its cluster (R114). -/
def isLead (core : Nat) : Bool := decide (core % 256 = 0)

/-- QUERN_STATE, with instruction bits [63:32] (R89, R93). -/
def Issued.quernExc (i : Issued) : Exc := i.exc 0x0B i.mask (i.w >>> 32)

/-- Local-memory offsets of the sources A, B and C. -/
def Issued.qA (i : Issued) : Nat := (i.grp.sword (fA i.w)).val.toNat
def Issued.qB (i : Issued) : Nat := (i.grp.sword (fB i.w)).val.toNat
def Issued.qC (i : Issued) : Nat := (i.grp.sword (fC i.w)).val.toNat

/-- MISALIGNED, LOCAL_BOUNDS and QUERN_STATE, the lowest code first (R91); `reads` are the byte ranges. -/
def Issued.quernCheck (i : Issued) (reads : List (Nat × Nat)) (misaligned bad : Bool) : Option Exc :=
  let beyond := (reads.filter fun r => decide (i.blk.lmSize < r.1 + r.2)).map fun r => Nat.max r.1 i.blk.lmSize
  if misaligned then some (i.exc 0x02 i.mask (BitVec.ofNat 64 i.qA))
  else if beyond ≠ [] then some (i.exc 0x04 i.mask (BitVec.ofNat 64 (beyond.foldl Nat.min (2 ^ 64 - 1))))
  else if bad then some i.quernExc else none

/-- The instruction takes a queue entry (R97). -/
def Issued.enqueue (i : Issued) (op : QuernOp) : Out :=
  let f := i.s.stamp
  let l := i.s.launchOf i.blk.launch
  let e : QuernEntry :=
    { id := f.1, slot := i.g.slot, ident := i.grp.ident, seq := l.seq, tag := l.tagField, live := true, pc := i.grp.pc, mask := i.mask, ctx := i.blk.ctx,
      flush := i.blk.flush, satNaR := i.blk.satNaR, started := false, op := op }
  i.done (f.2.modCore i.core fun c => { c with quern := { c.quern with queue := c.quern.queue ++ [e] } }) id

/-- The form of a Quern instruction: TYPE 0, form R, the block holds the Quern (R30, R67), a queue entry free. -/
def quernForm (op : Nat) (valid : Block → DWord → Bool) : Form :=
  { Form.plain [(11, op)] (fun b w => b.quern && decide (fType w = 0) && !fFmt w && valid b w) true with
    ready := fun i => decide ((i.s.core i.core).quern.queue.length < 8) }

/-- The shape of QLOAD. -/
def qloadForm : Form :=
  { quernForm 0 (fun b w => decide (fD w = 0) && unusedR w false false true true && xOnly w 0x3FFFC
        && regOk b.regs (fAs w) (fA w) 1) with
      srcs := fun i =>
        if fAs i.w then [(.reg true (fA i.w) 1, i.mask)]
        else [(.reg false (fA i.w) 1, maskOf fun l => isQuernFmt (qFmt i.w).toNat && decide (l < tileWords (qFmt i.w) i.blk.gang))]
      check := fun i =>
        let good := isQuernFmt (qFmt i.w).toNat
        i.quernCheck (if fAs i.w && good then [(i.qA, 4 * tileWords (qFmt i.w) i.blk.gang)] else [])
          (fAs i.w && decide (i.qA % 4 ≠ 0)) (!good) }

/-- QLOAD (R95): the register form reads its words at issue whatever the execution mask. -/
def execQload (g : GRef) (w : DWord) (s : State) : Out :=
  qloadForm.issue g w s fun i =>
    i.enqueue (.load (fAs w) i.blk.gang i.qA
      (if fAs w then [] else (List.range (tileWords (qFmt w) i.blk.gang)).map fun l => (i.grp.vword (fA w) l).val)
      (qFmt w) (qRmask w) (qCmask w))

/-- The shape of QSWAP. -/
def qswapForm : Form :=
  { quernForm 1 (fun _ w => decide (fD w = 0) && unusedR w false true true true && xOnly w 0) with
      check := fun i => if i.blk.gang && !isLead i.core then some i.quernExc else none }

/-- QSWAP: in a gang launch by the lead only (R115). -/
def execQswap (g : GRef) (w : DWord) (s : State) : Out :=
  qswapForm.issue g w s fun i =>
    i.enqueue .swap

/-- The QUERN_STATE conditions of QSTREAM (R93, R115). -/
def Issued.streamBad (i : Issued) : Bool :=
  let q := (i.s.core i.core).quern
  let act := q.after.1
  !isQuernFmt (qFmt i.w).toNat || decide (i.qB = 0) || decide (8 < i.qB)
    || (if i.blk.gang then !isLead i.core || !qGang i.w || !q.swapSeen else !act.1 || decide (act.2 ≠ qFmt i.w))

/-- The bytes that a QSTREAM reads; none where its step count is outside 1 to 8, or its WFMT is no format (R93; the latter, and the size of a step that
follows the launch's mode whatever G says, are the model's choice, notes/assumptions/77.md). -/
def Issued.streamReads (i : Issued) : List (Nat × Nat) :=
  if isQuernFmt (qFmt i.w).toNat && decide (1 ≤ i.qB) && decide (i.qB ≤ 8) then
    (i.qA, i.qB * stepBytes (qFmt i.w) i.blk.gang) :: if qSc i.w then [(i.qC, 4 + i.qB)] else []
  else []

/-- The shape of QSTREAM; with SC = 0 its C and CS must be 0 (DEDUCED, notes/assumptions/77.md). -/
def qstreamForm : Form :=
  { quernForm 2 (fun b w => decide (fD w = 0) && xOnly w 0x3FC00 && fAs w && fBs w && regOk b.regs true (fA w) 1
        && regOk b.regs true (fB w) 1 && (b.gang || !qGang w)
        && (if qSc w then fCs w && regOk b.regs true (fC w) 1 else decide (fC w = 0) && !fCs w)) with
      srcs := fun i =>
        [(Opnd.reg true (fA i.w) 1, i.mask), (Opnd.reg true (fB i.w) 1, i.mask)]
          ++ if qSc i.w then [(Opnd.reg true (fC i.w) 1, i.mask)] else []
      check := fun i => i.quernCheck i.streamReads (decide (i.qA % 4 ≠ 0)) i.streamBad }

/-- QSTREAM (R103, R117). -/
def execQstream (g : GRef) (w : DWord) (s : State) : Out :=
  qstreamForm.issue g w s fun i =>
    i.enqueue (.stream i.qA i.qB i.qC (qFmt w) (qBank w) (qAccum w) (qSc w) i.blk.gang [] [] [])

/-- The shape of QDRAIN. -/
def qdrainForm : Form :=
  { quernForm 3 (fun b w => unusedR w false true true true && xOnly w 0x3FC00 && decide (qSat w ≠ 3)
        && regOk b.regs false (fD w) (if qFmt w = 4 then 2 else 1)) with
      dsts := fun w => [.reg false (fD w) (if qFmt w = 4 then 2 else 1)]
      check := fun i => if isQuernFmt (qFmt i.w).toNat || decide (qFmt i.w = 4) then none else some i.quernExc }

/-- QDRAIN (R106): OTYPE f32 writes a pair. -/
def execQdrain (g : GRef) (w : DWord) (s : State) : Out :=
  qdrainForm.issue g w s
    fun i => i.enqueue (.drain (fD w) (qFmt w) (qBank w) (qSat w) (qClr w) [] 0)

/-- The shape of QZERO. -/
def qzeroForm : Form :=
  quernForm 4 (fun _ w => decide (fD w = 0) && unusedR w false true true true && xOnly w 0x2000)

/-- QZERO. -/
def execQzero (g : GRef) (w : DWord) (s : State) : Out :=
  qzeroForm.issue g w s fun i =>
    i.enqueue (.zero (qBank w))

/-! ## The queue (R98) -/

def QuernOp.bank? (o : QuernOp) : Option Bool :=
  match o with
  | .stream _ _ _ _ b _ _ _ _ _ _ => some b
  | .drain _ _ b _ _ _ _ => some b
  | .zero b => some b
  | _ => none
def QuernOp.isStream (o : QuernOp) : Bool := match o with | .stream .. => true | _ => false
def QuernOp.isGangStream (o : QuernOp) : Bool := match o with | .stream _ _ _ _ _ _ _ g _ _ _ => g | _ => false
def QuernOp.isBankOp (o : QuernOp) : Bool := match o with | .drain .. => true | .zero _ => true | _ => false
def QuernOp.isLoad (o : QuernOp) : Bool := match o with | .load .. => true | _ => false
def QuernOp.isSwap (o : QuernOp) : Bool := match o with | .swap => true | _ => false

/-- The Querns of a core's cluster. -/
def State.querns (s : State) (core : Nat) : List Quern := (coresOf (core / 256)).map fun k => (s.core k).quern
/-- The Querns of the right edge of a cluster (R114). -/
def State.rightEdge (s : State) (core : Nat) : List Quern :=
  (List.range 16).map fun r => (s.core (core / 256 * 256 + 16 * r + 15)).quern

/-- The block of a core that holds the Quern is part of a gang. -/
def Core.gangQuern (c : Core) : Bool :=
  match c.quern.block with
  | some b => (c.block b.val).gang
  | none => false

/-- The waits of an instruction in the queue are over (R98, R119, R120). `id` orders arrivals at a bank. -/
def State.quernReady (s : State) (core : Nat) (e : QuernEntry) : Bool :=
  let c := s.core core
  let before := c.quern.queue.filter fun x => decide (x.id < e.id)
  let none_ (p : QuernEntry → Bool) : Bool := !before.any p
  let gang := c.gangQuern
  match e.op with
  | .load .. => none_ (fun x => x.op.isLoad) && none_ fun x => x.op.isSwap && !x.started
  | .swap =>
    none_ (fun x => x.op.isLoad) && none_ (fun x => x.op.isStream && !x.started)
      && (!gang || (s.querns core).all fun q => q.shadow.loaded && !(q.queue.any fun x => x.op.isLoad && x.started))
  | .stream _ _ _ _ b _ _ g _ _ _ =>
    none_ (fun x => x.op.isSwap && !x.started) && none_ (fun x => x.op.isStream && !x.started)
      && none_ (fun x => x.op.isBankOp && decide (x.op.bank? = some b) && !x.started)
      && (!g || (s.rightEdge core).all fun q => !(q.queue.any fun x =>
          x.op.isBankOp && decide (x.op.bank? = some b) && decide (x.id < e.id) && !x.started))
  | .drain .. | .zero _ =>
    none_ (fun x => x.op.isStream && decide (x.op.bank? = e.op.bank?))
      && none_ (fun x => x.op.isBankOp && decide (x.op.bank? = e.op.bank?))
      && (!(gang && decide (core % 16 = 15)) || !((s.core (core / 256 * 256)).quern.queue.any fun x =>
          x.op.isGangStream && decide (x.op.bank? = e.op.bank?) && decide (x.id < e.id)))

def Core.modQuern (c : Core) (f : Quern → Quern) : Core := { c with quern := f c.quern }

/-- The local memory of the block that holds a core's Quern. -/
def Core.quernLm (c : Core) : Table Byte :=
  match c.quern.block with
  | some b => (c.block b.val).lm
  | none => []

/-- Words of local memory from an offset. -/
def lmWords (lm : Table Byte) (o n : Nat) : List Word := (List.range n).map fun k => BitVec.ofNat 32 (lmRead lm (o + 4 * k) 4)

/-- The codes of a step vector. -/
def stepCodes (lm : Table Byte) (o : Nat) (fmt : BitVec 4) (gang : Bool) : List Nat :=
  unpackWords (quernTy fmt) (lmWords lm o (stepBytes fmt gang / 4)) (tileDepth fmt gang)

/-- What an instruction captures when it starts: its weights, scales and stationary operands, a tile's words, or a
bank's entries; and the sets and banks that it changes at once (QSWAP, QZERO, CLR). -/
def State.quernStart (s : State) (core : Nat) (e : QuernEntry) : State :=
  let c := s.core core
  let put (s : State) (op : QuernOp) : State :=
    s.modCore core fun c => c.modQuern fun q =>
      { q with queue := q.queue.map fun x => if x.id = e.id then { x with started := true, op := op } else x }
  match e.op with
  | .load loc gang a ws fmt r m => put s (.load loc gang a (if loc then lmWords c.quernLm a (tileWords fmt gang) else ws) fmt r m)
  | .swap =>
    let swap (q : Quern) : Quern := { q with active := q.shadow, shadow := q.active }
    let s1 := if c.gangQuern then (coresOf (core / 256)).foldl (fun acc k => acc.modCore k fun c => c.modQuern swap) s
      else s.modCore core fun c => c.modQuern swap
    put (s1.modCore core fun c => c.modQuern fun q => { q with gangSwapped := true }) .swap
  | .stream a n sc fmt b acc scaled gang _ _ _ =>
    if gang then
      let ms := coresOf (core / 256)
      let top := ms.take 16
      let sets := ms.map fun k => (s.core k).quern.active
      let ws := (List.range n).flatMap fun j => top.flatMap fun k =>
        (stepCodes (s.core k).quernLm (a + j * stepBytes fmt true) fmt true).map fun c => BitVec.ofNat 16 c
      let scs := if scaled then
          (ms.flatMap fun k => (List.range 4).map fun m => tget 0 (s.core k).quernLm (sc + m))
            ++ (top.flatMap fun k => (List.range n).map fun j => tget 0 (s.core k).quernLm (sc + 4 + j))
        else []
      let s1 := s.countCore core 0x02 n e.ctx.val
      let s2 := ms.foldl (fun st k => st.countCore k 0x03 (n * (s.core k).quern.active.cells) e.ctx.val) s1
      put s2 (.stream a n sc fmt b acc scaled gang sets ws scs)
    else
      let ws := (List.range n).flatMap fun j =>
        (stepCodes c.quernLm (a + j * stepBytes fmt false) fmt false).map fun c => BitVec.ofNat 16 c
      let scs := if scaled then (List.range (4 + n)).map fun k => tget 0 c.quernLm (sc + k) else []
      let s1 := (s.countCore core 0x02 n e.ctx.val).countCore core 0x03 (n * c.quern.active.cells) e.ctx.val
      put s1 (.stream a n sc fmt b acc scaled gang [c.quern.active] ws scs)
  | .drain d ot b sat clr _ _ =>
    let es := (List.range 32).map fun k => c.quern.entry b k
    let s1 := put s (.drain d ot b sat clr es (c.quern.bankWritten b))
    if clr then s1.modCore core fun c => c.modQuern fun q => q.clearBank b else s1
  | .zero b => (put s (.zero b)).modCore core fun c => c.modQuern fun q => q.clearBank b

/-- The group that issued a queued instruction, which may have ended (R61). -/
def QuernEntry.reader (e : QuernEntry) (core : Nat) : Reader :=
  ⟨core, e.ctx.val, BitVec.ofNat 32 (16 * e.ident), e.seq, e.tag, e.mask, e.pc⟩

/-- The core that a finding at the start of an instruction names: a gang stream reads every member's local memory, any other instruction its
own core's (R109, R123). -/
def QuernEntry.readsAt (e : QuernEntry) (core : Nat) (m : Fin 256) : Option Nat :=
  let k := core / 256 * 256 + m.val
  if e.op.isGangStream || decide (k = core) then some k else none

/-- QUERN_QUEUE_START: an instruction whose waits are over starts (R98). `found` gives what the checks find in what it reads, at each member
core whose memory it reads: errors are those of R61 and R28 (R109, R123). A Quern whose block has ended completes its queue without
effect (R110). -/
def execQuernQueueStart (c : CoreRef) (id : Nat) (found : List (Fin 256 × Ecc)) (s : State) : Out :=
  let k := coreId c
  match (s.core k).quern.queue.find? fun x => decide (x.id = id) && !x.started with
  | none => enabled false "no such instruction waits" (.next s)
  | some x =>
    let here : List (Nat × Ecc) := found.filterMap fun e => (x.readsAt k e.1).map fun m => (m, e.2)
    let s1 := here.foldl (fun acc e => match e.2 with | .corrected n => acc.correctedError e.1 n | _ => acc) s
    enabled (s.quernReady k x) "its waits are not over" <|
      match here.find? fun e => match e.2 with | .double _ => true | _ => false with
      | some e => .next (s1.coreDataError e.1 (some (x.reader k)))
      | none =>
        if (s.core k).quern.block = none then
          .next (s1.modCore k fun c => c.modQuern fun q =>
            { q with queue := q.queue.map fun y => if y.id = id then { y with started := true } else y })
        else .next (s1.quernStart k x)

/-- The steps of a stream into the bank of one Quern: each with the row parts that feed it. -/
def Quern.runSteps (q : Quern) (flush gang : Bool) (fmt : BitVec 4) (bank accum scaled : Bool)
    (parts : Nat → List RowPart) : Nat → Quern × Bool
  | 0 => (q, false)
  | n + 1 =>
    let r := q.runSteps flush gang fmt bank accum scaled parts n
    let x := r.1.step flush gang fmt bank accum scaled n (parts n)
    (x.1, r.2 || x.2)

/-- Write the results of a started stream (R103, R104, R117); flushes go to the group that issued it, or to the
context's sticky flags. -/
def State.streamResults (s : State) (core : Nat) (e : QuernEntry) (n : Nat) (fmt : BitVec 4)
    (bank accum scaled gang : Bool) (sets : List QuernSet) (ws : List (BitVec 16)) (scs : List Byte) : State :=
  let code (k : Nat) : Nat := (ws.getD k 0).toNat
  let r : State × Bool :=
    if gang then
      (List.range 16).foldl (fun (acc : State × Bool) row =>
        let k := core / 256 * 256 + 16 * row + 15
        let parts (j : Nat) : List RowPart := (List.range 16).map fun col =>
          { cells := sets.getD (16 * row + col) QuernSet.empty
            weights := (List.range 8).map fun p => code (128 * j + 8 * col + p)
            sa := (List.range 4).map fun m => scs.getD (4 * (16 * row + col) + m) 0
            sw := scs.getD (1024 + n * col + j) 0 }
        let x := (acc.1.core k).quern.runSteps e.flush true fmt bank accum scaled parts n
        (acc.1.modCore k fun c => c.modQuern fun _ => x.1, acc.2 || x.2)) (s, false)
    else
      let kd := tileDepth fmt false
      let parts (j : Nat) : List RowPart :=
        [{ cells := sets.headD QuernSet.empty, weights := (List.range kd).map fun p => code (kd * j + p)
           sa := scs.take 4, sw := scs.getD (4 + j) 0 }]
      let x := (s.core core).quern.runSteps e.flush false fmt bank accum scaled parts n
      (s.modCore core fun c => c.modQuern fun _ => x.1, x.2)
  let fl := flushFlag r.2
  if e.live then r.1.flagGroup core e.slot.val e.ctx.val fl else r.1.orSticky e.ctx.val fl

/-- A drained entry in a short format: its code and flags (R106, R76). -/
def drainCode (e : QuernEntry) (ot : BitVec 4) (sat : BitVec 2) (x : Word) : Nat × BitVec 3 :=
  let r := cvtValue .f32 (quernTy ot) e.flush (cvtSaturates sat.toNat e.satNaR) none (x.setWidth 64)
  (r.1.toNat % 2 ^ (quernTy ot).width, r.2)

/-- Count the written entries of a drained bank (R146). -/
def drainCounts (e : QuernEntry) (ot : BitVec 4) (sat : BitVec 2) (entries : List Word) (written : BitVec 32)
    (c : MonCounts) : MonCounts :=
  (lanesOf written).foldl (fun c k =>
    let x := entries.getD k 0
    let src := (dec32 false x).1
    if ot = 4 then
      let zero := decide (x &&& 0x7FFFFFFF = 0)
      let inf := decide ((x &&& 0x7FFFFFFF).toNat ≥ 0x7F800000)
      c.add src zero inf false
    else
      let r := drainCode e ot sat x
      c.add src (decide (r.1 = 0)) (decide (r.1 = narCode (quernTy ot))) (decide (r.2 &&& flagSaturated ≠ 0))) c

/-- The registers that a drain writes, whatever the execution mask. -/
def drainGroup (e : QuernEntry) (dst : Nat) (ot : BitVec 4) (sat : BitVec 2) (entries : List Word) (g : Group) : Group :=
  if ot = 4 then
    let w (k : Nat) : RegWord := clean (dropNegZero (if isNaN32 (entries.getD k 0) then canonNaN else entries.getD k 0))
    (g.setLanes dst 0xFFFF fun l => w l).setLanes (dst + 1) 0xFFFF fun l => w (16 + l)
  else
    let rs := entries.map fun x => drainCode e ot sat x
    let ws := packWords (quernTy ot) (rs.map Prod.fst)
    (g.setLanes dst (maskOf fun l => decide (l < ws.length)) fun l => clean (ws.getD l 0)).orFlags
      (rs.foldl (fun a r => a ||| r.2) 0)

/-- The results of a started instruction. -/
def State.quernResults (s : State) (core : Nat) (e : QuernEntry) : State :=
  match e.op with
  | .load _ gang _ ws fmt r m => s.modCore core fun c => c.modQuern fun q => { q with shadow := setOfWords gang fmt r m ws }
  | .stream _ n _ fmt b acc scaled gang sets ws scs => s.streamResults core e n fmt b acc scaled gang sets ws scs
  | .drain d ot b sat _ es written =>
    let s1 := s.modGroupAt core e.slot.val fun g => drainGroup e d ot sat es g
    match (s.core core).quern.block with
    | some blk =>
      s1.modBlockAt core blk.val fun x =>
        if b then { x with countsB := drainCounts e ot sat es written x.countsB }
        else { x with countsA := drainCounts e ot sat es written x.countsA }
    | none => s1
  | _ => s

/-- QUERN_INSTRUCTION_COMPLETE: a started instruction's results are written and its entry is freed (R97). Streams
complete in order. With its last entry, a Quern whose block has ended is idle again (R110). -/
def execQuernInstructionComplete (c : CoreRef) (id : Nat) (s : State) : Out :=
  let k := coreId c
  let q := (s.core k).quern
  match q.queue.find? fun x => decide (x.id = id) && x.started with
  | none => enabled false "no such instruction runs" (.next s)
  | some e =>
    enabled (!(e.op.isStream && q.queue.any fun x => x.op.isStream && decide (x.id < id))) "an earlier stream runs" <|
      let s1 := if q.block = none then s else s.quernResults k e
      .next ((s1.modCore k fun c => c.modQuern fun q =>
        let rest := q.queue.filter fun x => !decide (x.id = id)
        if rest = [] && decide (q.block = none) then Quern.idle else { q with queue := rest }).noteReady k e.slot.val)

end Sys2Proof.Machine
end

