-- ==== Sys2Proof/Machine/MoveEngine.lean ====
section
/-! DEFINITION. The move engine of a cluster (R87, R173, R174, R186, R262): MOVEQ, MOVE_DESCRIPTOR_START,
MOVE_ENGINE_COMPLETION, and the copying of lines between them. -/

namespace Sys2Proof.Machine

def engineAgent (k : Nat) : Agent := .engine (BitVec.ofNat 12 k).toFin

/-! ## Descriptors (R87) -/

/-- The fields of the 32 bytes of a descriptor, as a number. -/
def dSrc (x : Nat) : Nat := x % 2 ^ 64
def dDst (x : Nat) : Nat := x / 2 ^ 64 % 2 ^ 64
def dLen (x : Nat) : Nat := x / 2 ^ 128 % 2 ^ 32
def dSync (x : Nat) : Word := BitVec.ofNat 32 (x / 2 ^ 160)
def dStash (x : Nat) : Option (Fin 128) :=
  let b : Byte := BitVec.ofNat 8 (x / 2 ^ 192)
  if b.getLsbD 7 then some (b.extractLsb' 0 7).toFin else none
def dFe (x : Nat) : Bool := x.testBit 200
/-- FLAGS[7:1] and bytes 26 to 31. -/
def dReserved (x : Nat) : Nat := x / 2 ^ 201

/-- The local offset in s(A), and the descriptor there. -/
def Issued.descOff (i : Issued) : Nat := (i.grp.sword (fA i.w)).val.toNat
def Issued.desc (i : Issued) : Nat := lmRead i.blk.lm i.descOff 32

/-- The conditions of R185 on the SYNC of a descriptor, all of which a MOVEQ checks as it issues. -/
def Issued.moveSync (i : Issued) (h : Word) : Option Exc :=
  let o := i.s.obj (handleNum h)
  if h = 0xFFFFFFFF then none
  else if handleKind h ≠ 0 then some (i.exc 0x0C i.mask (syncDetail h false))
  else if o.accepts i.blk.ctx.val h then none
  else some (i.exc 0x0C i.mask (syncDetail h (o.alloc && decide (o.owner = i.blk.ctx) && o.broken)))

/-- The checks of MOVEQ, in the order of R87, and after them those of R185. -/
def Issued.moveCheck (i : Issued) : Option Exc :=
  let o := i.descOff
  let x := i.desc
  let off : DWord := BitVec.ofNat 64 o
  let bad := ([dSrc x, dDst x].filter fun a => decide (a % 8 ≠ 0))
  if o % 32 ≠ 0 then some (i.exc 0x02 i.mask off)
  else if i.blk.lmSize < o + 32 then some (i.exc 0x04 i.mask off)
  else if dLen x = 0 ∨ dReserved x ≠ 0 then some i.illegal
  else if dFe x && (decide (bad ≠ []) || decide (dLen x % 8 ≠ 0)) then
    some (i.exc 0x02 i.mask (BitVec.ofNat 64 (match bad with
      | [] => dSrc x + dLen x
      | a :: t => t.foldl Nat.min a)))
  else i.moveSync (dSync x)

/-- The pages that a range touches, each by its first touched address, in ascending order (R262). -/
def pagesOfRange (c : Context) (last : Nat) : Nat → Nat → List Nat
  | 0, _ => []
  | n + 1, va =>
    if last < va then []
    else
      let p := c.pageOf va
      va :: pagesOfRange c last n ((p.1 + 1) * pageSize p.2)

/-- Insert a page by ascending address. -/
def insertPage (x : DWord × Bool) : List (DWord × Bool) → List (DWord × Bool)
  | [] => [x]
  | y :: t => if x.1.toNat < y.1.toNat then x :: y :: t else y :: insertPage x t

/-- SRC pages, and DST pages with the W check, in ascending order of address. -/
def movePages (c : Context) (src dst len : Nat) : List (DWord × Bool) :=
  let p (w : Bool) (a : Nat) : List (DWord × Bool) :=
    (pagesOfRange c (a + len - 1) 260 a).map fun v => (BitVec.ofNat 64 (Nat.min v (2 ^ 64 - 1)), w)
  (p true dst).foldl (fun l x => insertPage x l) (p false src)

/-! ## Translation at enqueue and pins (R262) -/

/-- Distinct pages that a descriptor pins. -/
def Desc.pins (d : Desc) : Nat := (d.srcPages ++ d.dstPages).eraseDups.length
/-- Pin entries in use of an engine. -/
def Cluster.pinsUsed (c : Cluster) : Nat := c.queue.foldl (fun n d => n + d.pins) 0

/-- Translate as many of a descriptor's pages as the TLB holds, touching the entries (R258); with the access that misses, if one does. -/
def State.formPages (s : State) (k : Nat) : Nat → Desc → State × Desc × Option Access
  | 0, d => (s, d, none)
  | n + 1, d =>
    match d.todo with
    | [] => (s, d, none)
    | (va, w) :: t =>
      let a : Access := ⟨va, w, false, true, false⟩
      match (s.cluster k).tlbIndex d.ctx.val va.toNat with
      | none => (s, d, some a)
      | some i =>
        let e := tget TlbEntry.invalid (s.cluster k).tlb i
        if e.permits a then
          let pin : Pin := (e.page * pageSize e.big, pageSize e.big, e.pfn.toNat * 2 ^ 25)
          (s.tlbTouch k d.ctx.val va).formPages k n
            (if w then { d with todo := t, dstPages := d.dstPages ++ [pin] } else { d with todo := t, srcPages := d.srcPages ++ [pin] })
        else (s, d, some a)

/-- Go on with the descriptor that a group forms: await the page that misses, or queue the descriptor once enough
pin entries are free, and let the group go on. -/
def State.moveForm (s : State) (core slot : Nat) : State :=
  let k := clusterOfCore core
  match (s.cluster k).forming.find? fun d => decide (d.core = core) && decide (d.slot.val = slot) with
  | none => s
  | some d =>
    let r := s.formPages k 520 d
    let d1 := r.2.1
    let s1 := r.1.modCluster k fun c => { c with forming := c.forming.map fun x => if x.id = d.id then d1 else x }
    match r.2.2 with
    | some a => s1.waitWalk core slot d.ctx.val d.cls a
    | none =>
      if (s1.cluster k).pinsUsed + d1.pins ≤ 1024 then
        let s2 := s1.modCluster k fun c =>
          { c with forming := c.forming.filter fun x => !decide (x.id = d.id), queue := c.queue ++ [d1] }
        ((s2.tagDone core slot).modGroupAt core slot Group.advance).noteReady core slot
      else s1

/-- Pin entries or translations have become free: look at every descriptor that still forms. -/
def State.reform (s : State) (k : Nat) : State :=
  (s.cluster k).forming.foldl (fun acc d => if d.todo = [] then acc.moveForm d.core d.slot.val else acc) s

/-- What MOVEQ does once its checks have passed: the descriptor is copied, and the group waits until it is queued. -/
def Issued.runMoveq (i : Issued) : Out :=
  let x := i.desc
  let f := i.s.stamp
  let slot := i.g.slot.val
  let stores := (i.s.core i.core).stores.filter fun (e : StoreEntry) =>
    e.live && decide (e.slot.val = slot) && !e.acked && i.s.isLocal e.line
  let d : Desc :=
    { id := f.1, launch := i.blk.launch, ctx := i.blk.ctx, cls := i.blk.eff, core := i.core, slot := i.g.slot,
      waitStores := stores.map fun e => e.id, src := BitVec.ofNat 64 (dSrc x), dst := BitVec.ofNat 64 (dDst x),
      length := dLen x, sync := dSync x, stash := dStash x, fe := dFe x, srcPages := [], dstPages := [],
      todo := movePages (i.s.ctx i.blk.ctx.val) (dSrc x) (dDst x) (dLen x), started := false, next := 0, lines := [],
      lost := false, poisoned := false, bad := none }
  let s1 := f.2.modCluster (clusterOfCore i.core) fun c => { c with forming := c.forming ++ [d] }
  .next ((s1.modGroupAt i.core slot fun x => { x with waiting := .walk }).moveForm i.core slot)

/-- The shape of MOVEQ. A names a scalar register whatever AS (DEDUCED, notes/assumptions/22.md). -/
def moveqForm : Form :=
  { Form.plain [(14, 0)] (fun b w => decide (fType w = 0) && !fFmt w && decide (fD w = 0) && bodyClear w
        && regOk b.regs true (fA w) 1) true with
      srcs := fun i => [(Opnd.reg true (fA i.w) 1, i.mask)]
      memory := true
      check := Issued.moveCheck
      ready := fun i =>
        let c := i.s.cluster (clusterOfCore i.core)
        decide (c.queue.length + c.forming.length < 64) }

/-- MOVEQ: the descriptor is copied at issue; the group waits until it is queued. The engine will wait for the group's
earlier store-buffer entries with a home on this device (R173). -/
def execMoveq (g : GRef) (w : DWord) (s : State) : Out :=
  moveqForm.issue g w s Issued.runMoveq

/-! ## Copying (R173, R174) -/

def State.modDesc (s : State) (k id : Nat) (f : Desc → Desc) : State :=
  s.modCluster k fun c => { c with queue := c.queue.map fun d => if d.id = id then f d else d }
def Desc.modLine (d : Desc) (rid : Nat) (f : CopyLine → CopyLine) : Desc :=
  { d with lines := d.lines.map fun x => if x.rid = rid then f x else x }
def Desc.dropLine (d : Desc) (rid : Nat) : Desc := { d with lines := d.lines.filter fun x => !decide (x.rid = rid) }

/-- The physical address of byte `o` of a descriptor's source or destination. -/
def Desc.srcPa (d : Desc) (o : Nat) : Nat := (pinned d.srcPages (d.src.toNat + o)).getD 0
def Desc.dstPa (d : Desc) (o : Nat) : Nat := (pinned d.dstPages (d.dst.toNat + o)).getD 0

/-- A line of the copy is lost or written with poison: the count of R174 stops at the lowest of them. -/
def Desc.spoil (d : Desc) (off : Nat) (lost : Bool) : Desc :=
  { d with
    lost := d.lost || lost, poisoned := d.poisoned || !lost
    bad := some (match d.bad with | some b => Nat.min b off | none => off) }

/-- The part of the copy that falls into the destination line of offset `o`. -/
def Desc.lineAt (d : Desc) (o rid : Nat) : CopyLine :=
  let n := Nat.min (d.length - o) (128 - (d.dst.toNat + o) % 128)
  let srcs := ((List.range n).map fun k => lineOfPa (d.srcPa (o + k))).eraseDups
  { rid := rid, dst := lineOfPa (d.dstPa o), off := o, len := n, sources := srcs, data := 0, poison := 0, fe := 0,
    writing := false }

/-- Gather the bytes of one source line (R174, R226): data, poison by destination half, and with FE the bits. -/
def CopyLine.gather (x : CopyLine) (d : Desc) (m : Msg) : CopyLine :=
  let pos := (d.dst.toNat + x.off) % 128
  let from_ := (List.range x.len).filter fun k => decide (lineOfPa (d.srcPa (x.off + k)) = m.line)
  let at_ (k : Nat) : Nat := d.srcPa (x.off + k) % 128
  let mask : BitVec 128 := maskOf fun i => decide (pos ≤ i) && decide (i - pos ∈ from_)
  let data : Line := BitVec.ofNat 1024 (leNat ((List.range 128).map fun i =>
    if mask.getLsbD i then lineByte m.data (at_ (i - pos)) else 0))
  let pois : BitVec 2 := maskOf fun h => from_.any fun k => decide ((pos + k) / 64 = h) && m.poison.getLsbD (at_ k / 64)
  let fe : BitVec 16 := maskOf fun wd => from_.any fun k =>
    decide ((pos + k) % 8 = 0) && decide ((pos + k) / 8 = wd) && m.fe.getLsbD (at_ k / 8)
  { x with sources := x.sources.filter fun l => !decide (l = m.line), data := mergeLine x.data data mask,
           poison := x.poison ||| pois, fe := x.fe ||| fe }

/-- The bytes of its destination line that a part of the copy writes. -/
def CopyLine.mask (x : CopyLine) (d : Desc) : BitVec 128 :=
  let pos := (d.dst.toNat + x.off) % 128
  maskOf fun i => decide (pos ≤ i) && decide (i < pos + x.len)

/-- Send the write of a gathered line; to an unreachable node it is lost at once. -/
def State.writeCopy (s : State) (k : Nat) (d : Desc) (x : CopyLine) : State :=
  let words : BitVec 16 := maskOf fun wd => (x.mask d).getLsbD (8 * wd)
  let s1 := if x.poison ≠ 0 then s.modDesc k d.id fun d => d.spoil x.off false else s
  if s.lostNode x.dst then s1.modDesc k d.id fun d => (d.spoil x.off true).dropLine x.rid
  else
    (s1.modDesc k d.id fun d => d.modLine x.rid fun y => { y with writing := true }).post
      { Msg.blank .wrMerge x.dst (engineAgent k) (sliceAgent x.dst) with
        tag := x.rid, data := x.data, mask := x.mask d, poison := x.poison, hasData := true,
        fe := x.fe, feMask := if d.fe then words else 0, stash := d.stash, context := d.ctx, cls := d.cls }

/-- Begin lines of a started descriptor while fewer than 256 line requests are outstanding (R422, ME_LINES): each
source line is read by RD_SNAP; a line whose source is unreachable is lost and not written. -/
def State.feedDesc (s : State) (k id : Nat) : Nat → State
  | 0 => s
  | n + 1 =>
    match (s.cluster k).queue.find? fun d => decide (d.id = id) with
    | none => s
    | some d =>
      if d.length ≤ d.next ∨ 256 ≤ ((s.cluster k).queue.foldl (fun m d => m + d.lines.length) 0) then s
      else
        let f := s.stamp
        let x := d.lineAt d.next f.1
        let s1 := f.2.modDesc k id fun d => { d with next := d.next + x.len }
        if x.sources.any fun l => s1.lostNode l then (s1.modDesc k id fun d => d.spoil x.off true).feedDesc k id n
        else
          let s2 := s1.modDesc k id fun d => { d with lines := d.lines ++ [x] }
          (x.sources.foldl (fun acc l => acc.post
            { Msg.blank .rdSnap l (engineAgent k) (sliceAgent l) with tag := x.rid, context := d.ctx, cls := d.cls }) s2).feedDesc
            k id n

/-- Begin more lines of every started descriptor, in queue order. -/
def State.feedEngine (s : State) (k : Nat) : State :=
  (s.cluster k).queue.foldl (fun acc d => if d.started then acc.feedDesc k d.id 256 else acc) s

/-- The descriptor and line of a request number. -/
def Cluster.copyOf (c : Cluster) (rid : Nat) : Option (Desc × CopyLine) :=
  c.queue.findSome? fun d => (d.lines.find? fun x => decide (x.rid = rid)).map fun x => (d, x)

/-- An answer reaches the engine: data of a source line, the acknowledgement of a write, or LOST. A response that
matches no outstanding request is discarded (R284). -/
def State.engineAnswer (s : State) (k : Nat) (m : Msg) : State :=
  match (s.cluster k).copyOf m.tag with
  | none => s
  | some (d, x) =>
    match m.kind with
    | .data =>
      if m.line ∈ x.sources && !x.writing then
        let y := x.gather d m
        let s1 := s.modDesc k d.id fun d => d.modLine x.rid fun _ => y
        if y.sources = [] then (s1.writeCopy k d y).feedEngine k else s1
      else s
    | .ack =>
      if x.writing then
        (((s.countCluster k 0x06 x.len d.cls.val).modDesc k d.id fun d => d.dropLine x.rid)).feedEngine k
      else s
    | .lost => (s.modDesc k d.id fun d => (d.spoil x.off true).dropLine x.rid).feedEngine k
    | _ => s

/-! ## The rows -/

/-- The store-buffer entries that a descriptor waits for have been acknowledged. -/
def State.descReady (s : State) (d : Desc) : Bool :=
  !((s.core d.core).stores.any fun e => decide (e.id ∈ d.waitStores) && !e.acked)

/-- MOVE_DESCRIPTOR_START: the first descriptor not yet started, in queue order (R173). -/
def execMoveDescriptorStart (ch : Fin 32) (cl : Fin 128) (s : State) : Out :=
  let k := clusterId ch cl
  match (s.cluster k).queue.find? fun d => !d.started with
  | none => enabled false "no descriptor waits" (.next s)
  | some d =>
    enabled (s.descReady d) "earlier stores of the group are not acknowledged" <|
      .next ((s.modDesc k d.id fun d => { d with started := true }).feedDesc k d.id 256)

/-- The completion status and count of a descriptor (R87, R174). -/
def Desc.payload (d : Desc) : BitVec 62 :=
  let status := if d.lost then 0x0A else if d.poisoned then 0x0E else 0
  BitVec.ofNat 62 (status + 256 * (match d.bad with | some b => b | none => d.length))

/-- Set the sync object of a completed descriptor, or discard the completion (R186). -/
def State.moveDone (s : State) (d : Desc) : State :=
  if d.sync = 0xFFFFFFFF then s
  else
    let n := handleNum d.sync
    if handleKind d.sync = 0 && (s.obj n).accepts d.ctx.val d.sync then
      (s.countCluster (objCluster n) 0x07 1 d.cls.val).applyObj n fun o => { o with flag := true, payload := d.payload }
    else s.modChan (objChan n) fun c => { c with meDiscard := satAdd c.meDiscard 1 }

/-- MOVE_ENGINE_COMPLETION: every line of a started descriptor has been acknowledged or lost; its object is set, after those of
earlier descriptors of the queue, and its pins are released (R174, R189). -/
def execMoveEngineCompletion (ch : Fin 32) (cl : Fin 128) (id : Nat) (s : State) : Out :=
  let k := clusterId ch cl
  match (s.cluster k).queue.find? fun d => decide (d.id = id) with
  | none => enabled false "no such descriptor" (.next s)
  | some d =>
    let before := (s.cluster k).queue.takeWhile fun x => !decide (x.id = id)
    enabled (d.started && decide (d.length ≤ d.next) && decide (d.lines = [])
        && (decide (d.sync = 0xFFFFFFFF) || before.all fun x => decide (x.sync = 0xFFFFFFFF)))
        "the copy, or an earlier completion of the queue, has not ended" <|
      .next (((s.modCluster k fun c => { c with queue := c.queue.filter fun x => !decide (x.id = id) }).moveDone d).reform k)

end Sys2Proof.Machine
end

