-- ==== Sys2Proof/Machine/Slice.lean ====
section
/-! DEFINITION. The shared-cache slices (R209 to R230): the directory, requests, snoops and their answers, the crossing
rule, evictions, and the proxy's dealings with a line's home. -/

namespace Sys2Proof.Machine

/-! ## The directory field (R213) -/

/-- The channel representative by which a coarse entry marks a channel. -/
def coarseRep (k : Fin 4096) : Fin 4096 := ⟨k.val / 128 * 128, by omega⟩

/-- The clusters that an invalidation goes to (R213): the recorded ones, or all 128 of every marked channel. -/
def SliceLine.clusters (e : SliceLine) : List Agent :=
  if e.coarse then e.sharers.flatMap fun k => (List.range 128).map fun i => clusterAgent (k.val / 128 * 128 + i)
  else e.sharers.map Agent.cluster

/-- The nodes that an invalidation goes to. -/
def State.nodesOf (s : State) (e : SliceLine) : List Agent :=
  (if e.wide then s.coherentNodes else e.nodes).map Agent.node

/-- The holders of a line other than its owner and `a`. -/
def State.otherSharers (s : State) (e : SliceLine) (a : Agent) : List Agent :=
  (e.clusters ++ s.nodesOf e).filter fun x => !decide (x = a) && !decide (some x = e.owner)

/-- Record a sharer; a fifth one coarsens its field (R213). -/
def SliceLine.addSharer (e : SliceLine) (a : Agent) : SliceLine :=
  match a with
  | .cluster k =>
    if e.coarse then (if coarseRep k ∈ e.sharers then e else { e with sharers := e.sharers ++ [coarseRep k] })
    else if k ∈ e.sharers then e
    else if e.sharers.length < 4 then { e with sharers := e.sharers ++ [k] }
    else { e with coarse := true, sharers := ((e.sharers ++ [k]).map coarseRep).eraseDups }
  | .node n =>
    if e.wide || decide (n ∈ e.nodes) then e
    else if e.nodes.length < 4 then { e with nodes := e.nodes ++ [n] }
    else { e with wide := true, nodes := [] }
  | _ => e

/-- The line has no holder. -/
def SliceLine.alone (e : SliceLine) : SliceLine :=
  { e with dstate := .uncached, owner := none, sharers := [], coarse := false, nodes := [], wide := false }
/-- `a` owns the line and nothing else holds it. -/
def SliceLine.ownedBy (e : SliceLine) (a : Agent) : SliceLine := { e.alone with dstate := .owned, owner := some a }
/-- The line is SHARED, and `a` is one of its sharers. -/
def SliceLine.sharedBy (e : SliceLine) (a : Agent) : SliceLine := ({ e with dstate := .shared, owner := none }).addSharer a
/-- The entry records a sharer. -/
def SliceLine.hasSharers (e : SliceLine) : Bool := e.sharers ≠ [] || e.nodes ≠ [] || e.wide
/-- The owner holds nothing any more. -/
def SliceLine.dropOwner (e : SliceLine) : SliceLine :=
  if e.hasSharers then { e with dstate := .shared, owner := none } else e.alone

/-- The requester is known to hold the current copy (R215): the owner, or a sharer recorded by pointer. -/
def SliceLine.knows (e : SliceLine) (a : Agent) : Bool :=
  decide (e.owner = some a)
    || match a with
      | .cluster k => !e.coarse && decide (k ∈ e.sharers)
      | .node n => !e.wide && decide (n ∈ e.nodes)
      | _ => false

/-- The line can be granted exclusively: by a home, or by a proxy that holds it so (R214). -/
def SliceLine.grantsE (e : SliceLine) (home : Bool) : Bool := home || e.outer = .e || e.outer = .m

/-- A proxy serves a request from its own state when its hold on the line allows (R215, R224); only the home changes
full/empty bits (R225). -/
def SliceLine.serves (e : SliceLine) (home : Bool) (m : Msg) : Bool :=
  home || match m.kind with
    | .readS | .rdSnap => e.outer = .s || e.outer = .e || e.outer = .o || e.outer = .m
    | .readU | .own => e.outer = .e || e.outer = .m
    | .wrMerge => decide (m.feMask = 0) && (e.outer = .e || e.outer = .m)
    | .atomic | .feOp => false
    | _ => true

/-! ## Messages of a slice -/

/-- Answer the sender of a message; a slice's own request needs no answer. -/
def State.reply (s : State) (m : Msg) (kind : MsgKind) (f : Msg → Msg) : State :=
  if m.src = sliceAgent m.line then s
  else s.post (f { Msg.blank kind m.line (sliceAgent m.line) m.src with
    tag := m.tag, txn := m.txn, requester := m.requester, context := m.context, cls := m.cls })

/-- Send a line's data with a grant. -/
def State.replyData (s : State) (m : Msg) (e : SliceLine) (g : Grant) : State :=
  s.reply m .data fun x => { x with data := e.data, poison := e.poison, fe := e.fe, grant := g, hasData := true }

/-- The agent to which the data that a snoop asks for go: the requester of a read or an OWN, which another device sees as
a node, and the slice in every other case (R216, R227). -/
def State.dataTarget (s : State) (m : Msg) (holder : Agent) : Agent :=
  let asSeen (a : Agent) : Agent :=
    match holder, a with
    | .node _, .node n => .node n
    | .node _, _ => .node s.hub.node
    | _, x => x
  match m.kind with
  | .snpFwd | .snpFwdU => m.requester
  | .readS | .readU | .own => asSeen m.src
  | _ => asSeen (sliceAgent m.line)

/-- Snoop a holder. The data of an owner answer the request's TXN, or, where a proxy passes on a snoop of the home that asks for
the data itself, the snoop's. -/
def State.snoopTo (s : State) (m : Msg) (kind : MsgKind) (a : Agent) : State :=
  let forHome := (decide (m.kind = .snpFwd) || decide (m.kind = .snpFwdU)) && decide (m.requester = m.src)
  s.post { Msg.blank kind m.line (sliceAgent m.line) a with
    requester := s.dataTarget m a, tag := if forHome then m.txn else m.tag, context := m.context, cls := m.cls }

/-- The snoop that the recorded owner gets for a request or, at a proxy, for the home's snoop (R216, R217). -/
def ownerSnoop : MsgKind → MsgKind
  | .readS | .snpFwd => .snpFwd
  | .readU | .own | .snpFwdU => .snpFwdU
  | .rdSnap | .snpPeek => .snpPeek
  | _ => .snpRecall

/-- The request is applied at the home, so that the device that sends it is snooped as any other holder (R216, R224). -/
def appliesHere : MsgKind → Bool
  | .wrMerge | .atomic | .feOp => true
  | _ => false

/-- The request invalidates the other holders. -/
def invalidates : MsgKind → Bool
  | .readS | .snpFwd | .rdSnap | .snpPeek => false
  | _ => true

/-! ## Sets and ways (R209, R221) -/

def Channel.slicePlruOf (c : Channel) (key : Nat) : BitVec 15 := tget 0 c.slicePlru key
def sliceKey (l : LineAddr) : Nat := sliceOf l * 2048 + sliceSet l

def sameSet (a b : LineAddr) : Bool := decide (lineChan a = lineChan b) && decide (sliceKey a = sliceKey b)

/-- The lines of a slice's set that have an entry. -/
def State.setOf (s : State) (l : LineAddr) : List (LineAddr × SliceLine) :=
  (s.lines.map fun e => ((BitVec.ofNat 50 e.1 : LineAddr), e.2)).filter fun e => sameSet e.1 l

/-- A use of a way. -/
def State.touchSlice (s : State) (l : LineAddr) : State :=
  let w := (s.slice l).way
  s.modChan (lineChan l) fun c => { c with slicePlru := tmod 0 c.slicePlru (sliceKey l) fun b => plruTouch b 4 0 w }

/-- The pseudo-LRU way among allowed ways: the bits are followed where both sides hold an allowed way. -/
def plruAmong (bits : BitVec 15) (ok : Nat → Bool) : Nat → Nat → Nat → Nat
  | 0, _, acc => acc
  | k + 1, node, acc =>
    let side (r : Nat) : Bool := (List.range (2 ^ k)).any fun i => ok ((2 * acc + r) * 2 ^ k + i)
    let want := if bits.getLsbD node then 1 else 0
    let r := if side want then want else 1 - want
    plruAmong bits ok k (2 * node + 1 + r) (2 * acc + r)

/-- The rank of a victim (R221). -/
def SliceLine.rank (e : SliceLine) : Nat :=
  match e.dstate with
  | .uncached => if e.dirty then 1 else 0
  | .shared => 2
  | .owned => 3

/-- The victim of a set: the best rank, and within it the pseudo-LRU way (R221). A line in a transaction is none. -/
def State.sliceVictim (s : State) (l : LineAddr) : Option LineAddr :=
  let ok := (s.setOf l).filter fun e => e.2.present && decide (e.2.busy = none) && decide (e.2.ask = none)
  let best := ok.foldl (fun r e => Nat.min r e.2.rank) 4
  let cand := ok.filter fun e => decide (e.2.rank = best)
  let w := plruAmong ((s.chan (lineChan l)).slicePlruOf (sliceKey l)) (fun w => cand.any fun e => decide (e.2.way = w)) 4 0 0
  (cand.find? fun e => decide (e.2.way = w)).map Prod.fst

/-- An invalid way of the set. -/
def State.sliceWay (s : State) (l : LineAddr) : Option Nat :=
  let used := (s.setOf l).filter fun e => e.2.present
  (List.range 16).find? fun w => !(used.any fun e => decide (e.2.way = w))

/-- The line leaves the slice; what waits for it, and the registrations of R198, stay. -/
def State.dropLine (s : State) (l : LineAddr) : State :=
  s.modSlice l fun e => { SliceLine.absent with queue := e.queue, regs := e.regs, ask := e.ask }

/-! ## Registrations and the operations at the home (R81, R82, R197 to R199, R224) -/

/-- Registrations that a slice holds. -/
def State.registrations (s : State) (l : LineAddr) : Nat :=
  s.lines.foldl (fun n e =>
    let x : LineAddr := BitVec.ofNat 50 e.1
    if lineChan x = lineChan l ∧ sliceOf x = sliceOf l then n + e.2.regs.length else n) 0

/-- Record a registration of an agent for a line; false when the slice holds 4,096 (R198, R199). -/
def State.register (s : State) (l : LineAddr) (a : Agent) : Bool × State :=
  if a ∈ (s.slice l).regs then (true, s)
  else if s.registrations l < 4096 then (true, s.modSlice l fun e => { e with regs := e.regs ++ [a] })
  else (false, s.modChan (lineChan l) fun c => { c with feUnreg := satAdd c.feUnreg 1 })

/-- The core that a request registers: its sender, or, for a core of another device, the core that its proxy names
(R198). -/
def registrant (m : Msg) : Agent :=
  match m.src, m.requester with
  | .node n, .core k => .coreAt n k
  | a, _ => a

/-- Apply a WR_MERGE or an ATOMIC to the line at its slice: UNCACHED, D = 1 (R216, R224, R226), and answer it. -/
def State.applyHere (s : State) (m : Msg) : State :=
  let l := m.line
  let e := s.slice l
  -- a write of no bytes, which a slice makes of its own accord, leaves the hold on the line as it is
  let outer := if s.isLocal l || (decide (m.kind = .wrMerge) && decide (m.mask = 0)) then e.outer else .m
  match m.kind with
  | .wrMerge =>
    let fe := (e.fe &&& ~~~m.feMask) ||| (m.fe &&& m.feMask)
    let e1 := { e.alone with
      data := mergeLine e.data m.data m.mask, poison := mergePoison e.poison m.poison m.mask, fe := fe, dirty := true,
      cls := m.cls, outer := outer }
    let s1 := s.setSlice l e1
    (if fe ≠ e.fe then s1.wakeRegistered l else s1).reply m .ack id
  | _ =>
    let r := applyOps m.flush m.ops ⟨e.data, e.fe, false⟩
    let s1 := (s.countChan (lineChan l) 0x04 1 m.cls.val).setSlice l
      { e.alone with data := r.1.data, fe := r.1.fe, dirty := true, cls := m.cls, outer := outer }
    let s2 := if r.1.fe ≠ e.fe then s1.wakeRegistered l else s1
    let s3 := if r.2.any fun x => x.parked then s2.register l (registrant m) else (true, s2)
    let results := r.2.map fun x => { x with unregistered := x.parked && !s3.1 }
    s3.2.reply m (if m.hasData then .result else .ack) fun x =>
      { x with results := if m.hasData then results else [], poison := e.poison, flushed := r.1.flushed }

/-- A line offered to a cluster after a write with a stash hint: the cluster installs it in an I way, or in an S or E way
that it can drop, and holds it in E (R223). -/
def State.offerStash (s : State) (l : LineAddr) (hint : Option (Fin 128)) : State :=
  match hint with
  | none => s
  | some c =>
    let k := 128 * lineChan l + c.val
    let cl := s.cluster k
    let set := clusterSet l
    let up := decide ((s.chan (lineChan l)).state = 2) || decide ((s.chan (lineChan l)).state = 3)
    if !up || !(s.chan (lineChan l)).stashEn || (cl.txn l).isSome || decide ((cl.line l).state ≠ .i) || !s.isLocal l then s
    else
      let e := s.slice l
      let put (s : State) (w : Nat) : State :=
        ((s.modCluster k fun c => c.setLine l ⟨.e, w, e.data, e.poison, e.cls⟩).modCluster k fun c => c.touch l).modSlice l
          fun e => e.ownedBy (clusterAgent k)
      match cl.freeWay set with
      | some w => put s w
      | none =>
        match cl.droppable set with
        | some (v, y) => put (s.setCopy k v .absent) y.way
        | none => s

/-! ## The end of a transaction -/

/-- The poison of a lost owner's line: both halves, D = 1 (R228, R230). -/
def SliceLine.spoiled (e : SliceLine) : SliceLine := { e with poison := 3, dirty := true }

/-- An evicted line has no copies left: written to memory, written back to the home, or dropped (R221). -/
def State.evicted (s : State) (l : LineAddr) : State :=
  let e := s.slice l
  if s.isLocal l then
    if e.dirty && s.inMemory l then s.setSlice l { e.alone with writing := true }
    else (if e.dirty then s.outOfRange l else s).dropLine l
  else if e.outer = .m || e.outer = .o || e.dirty then
    (s.setSlice l { e.alone with outer := .wb }).post
      { Msg.blank .wb l (sliceAgent l) (.node (BitVec.ofNat 9 (lineNode l)).toFin) with
        data := e.data, poison := e.poison, hasData := true, cls := e.cls }
  else s.dropLine l

/-- A proxy's answer to its home's snoop once its own holders have answered (R217). -/
def State.answerHome (s : State) (m : Msg) (t : SliceTxn) : State :=
  let l := m.line
  let e := s.slice l
  let toRequester (g : Grant) (s : State) : State :=
    if t.answer = .keeps || t.answer = .sharesNow then s
    else s.post { Msg.blank .data l (sliceAgent l) m.requester with
      tag := m.tag, txn := if m.requester = m.src then m.txn else m.tag, requester := m.requester, data := e.data,
      poison := e.poison, fe := e.fe, grant := g, hasData := true, cls := m.cls }
  match m.kind with
  | .snpFwd =>
    -- an owner inside that has kept newer data, or newer data in the slice, leaves the device in O
    let newer := e.dirty || decide (t.answer = .keeps) || decide (e.outer = .o)
    ((toRequester .shared s).modSlice l fun e => { e with outer := if newer then .o else .s }).reply m .ack fun x =>
      { x with ownerNowShared := !newer }
  | .snpFwdU => ((toRequester .none s).dropLine l).reply m .ack id
  | .snpPeek => if t.answer = .keeps then s else s.replyData m e .none
  | .snpRecall =>
    if e.outer = .m || e.outer = .o || e.dirty then
      (s.dropLine l).reply m .wb fun x => { x with data := e.data, poison := e.poison, hasData := true, cls := e.cls }
    else (s.dropLine l).reply m (if e.outer = .s then .ack else .none) id
  | _ => (s.dropLine l).reply m .ack id

/-- Every answer has come: the request has its effect and is answered (R216). -/
def State.finish (s : State) (l : LineAddr) : State :=
  match (s.slice l).busy with
  | none => s
  | some t =>
    let m := t.req
    let home := s.isLocal l
    let e0 := s.slice l
    let e1 := if t.answer = .gone then e0.dropOwner else e0
    let e2 := if t.spoil then e1.spoiled else e1
    if t.evict then (s.setSlice l e2).evicted l
    else
      let e := { e2 with busy := none }
      let s1 := s.setSlice l e
      match m.kind with
      | .readS =>
        match t.answer, e.owner with
        | .keeps, _ => s1.setSlice l (e.addSharer m.src)
        | .sharesNow, some x => s1.setSlice l ((e.sharedBy x).addSharer m.src)
        | _, _ =>
          if e.dstate = .uncached && e.grantsE home then
            let e' := e.ownedBy m.src
            (s1.setSlice l { e' with outer := if home then e.outer else .m }).replyData m e .exclusive
          else (s1.setSlice l (e.sharedBy m.src)).replyData m e .shared
      | .readU | .own =>
        let s2 := s1.setSlice l { e.ownedBy m.src with outer := if home then e.outer else .m, cls := m.cls }
        if t.answer = .keeps then s2.reply m .grant fun x => { x with grant := .modified, hasData := true }
        else if t.noData then s2.reply m .grant fun x => { x with grant := .modified }
        else s2.replyData m e .modified
      | .rdSnap => if t.answer = .keeps then s1 else s1.replyData m e .none
      | .wrMerge => ((s1.applyHere m).modSlice l fun e => if t.spoil then e.spoiled else e).offerStash l m.stash
      | .atomic | .feOp => s1.applyHere m
      | _ =>
        match t.answer, e.owner with
        | .sharesNow, some x => (s1.setSlice l (e.sharedBy x)).answerHome m t
        | _, _ => s1.answerHome m t

/-- Begin a transaction on a line that its slice holds: snoop the holders that the request needs, or finish at once
(R216). A requester that is the recorded owner has dropped the line, or holds it in O; a device whose WR_MERGE or ATOMIC
is applied here is snooped like any other. -/
def State.serve (s : State) (l : LineAddr) (m : Msg) (noData : Bool) : State :=
  let e := s.slice l
  let mine := decide (e.owner = some m.src) && !appliesHere m.kind
  let owner := if mine then none else e.owner
  let others := if invalidates m.kind then s.otherSharers e (if appliesHere m.kind then sliceAgent l else m.src) else []
  let known := decide (m.kind = .own) && (noData || e.knows m.src)
  let t : SliceTxn :=
    { req := m, awaiting := owner.toList ++ others, snooped := owner, answer := if mine then .gone else .waiting, wb := false,
      passed := false, noData := known, spoil := false, evict := false }
  let s1 := (s.touchSlice l).modSlice l fun e => { e with busy := some t }
  if t.awaiting = [] then s1.finish l
  else
    let s2 := match owner with
      | some x => s1.snoopTo m (ownerSnoop m.kind) x
      | none => s1
    others.foldl (fun acc a => acc.snoopTo m .snpInv a) s2

/-- Recall a line from every holder and evict it, or with `keep` poison it and keep it (R221, R230). With
`all` every cluster of the device and, at a home, every coherent node is asked. -/
def State.recallAll (s : State) (l : LineAddr) (all spoil keep : Bool) : State :=
  let e := s.slice l
  let m : Msg := { Msg.blank .wrMerge l (sliceAgent l) (sliceAgent l) with cls := e.cls }
  let wide : List Agent := ((List.range 4096).map clusterAgent) ++ (if s.isLocal l then s.coherentNodes.map Agent.node else [])
  let others := if all then [] else s.otherSharers e m.src
  let asked := if all then wide else e.owner.toList
  let t : SliceTxn :=
    { req := m, awaiting := asked ++ others, snooped := if all then none else e.owner, answer := .waiting, wb := false,
      passed := false, noData := false, spoil := spoil, evict := !keep }
  let s1 := s.modSlice l fun e => { (if all then e.alone else e) with busy := some t }
  if t.awaiting = [] then s1.finish l
  else
    let s2 := asked.foldl (fun acc a => acc.snoopTo m .snpRecall a) (s1.countChan (lineChan l) 0x03 1 e.cls.val)
    others.foldl (fun acc a => acc.snoopTo m .snpInv a) s2

/-! ## Misses and fills (R221) -/

/-- The kinds whose answer from the home is passed on, and that leave nothing at a proxy. -/
def passedOn : MsgKind → Bool
  | .rdSnap | .wrMerge | .atomic | .feOp => true
  | _ => false

/-- Lines of a set that are being filled into it. -/
def State.filling (s : State) (l : LineAddr) : Nat :=
  ((s.setOf l).filter fun e => !e.2.present && (match e.2.ask with
    | some a => s.isLocal e.1 || !passedOn a.req.kind
    | none => false)).length
/-- Lines of a set that are being evicted. -/
def State.leaving (s : State) (l : LineAddr) : Nat :=
  ((s.setOf l).filter fun e => e.2.present && (match e.2.busy with | some t => t.evict | none => false)).length

/-- Begin an eviction when the set has not enough ways free or coming free. -/
def State.makeRoom (s : State) (l : LineAddr) : State :=
  let held := ((s.setOf l).filter fun e => e.2.present).length
  if 16 < held + s.filling l - s.leaving l then
    match s.sliceVictim l with
    | some v => s.recallAll v false false false
    | none => s
  else s

/-- What a slice asks for stands in its entry; at a proxy the request goes to the home (R215). -/
def State.askFor (s : State) (l : LineAddr) (m : Msg) (refetch : Bool) : State :=
  let s1 := s.modSlice l fun e =>
    { e with ask := some { req := m, data := none, fe := 0, grant := .none, dataDue := false, refetch := refetch } }
  let s2 := if s.isLocal l then s1
    else s1.post { m with src := sliceAgent l, dst := .node (BitVec.ofNat 9 (lineNode l)).toFin, txn := 0 }
  match m.kind with
  | .rdSnap | .wrMerge | .atomic | .feOp => if s.isLocal l then s2.makeRoom l else s2
  | _ => if refetch then s2 else s2.makeRoom l

/-- A line outside memory (R236): a read returns poisoned data, everything else is acknowledged and discarded. -/
def State.outside (s : State) (m : Msg) : State :=
  let s1 := s.outOfRange m.line
  match m.kind with
  | .readS | .readU | .own =>
    (s1.reply m .data fun x => { x with poison := 3, hasData := true }).reply m .grant id
  | .rdSnap => s1.reply m .data fun x => { x with poison := 3, hasData := true }
  | .atomic | .feOp => s1.reply m (if m.hasData then .result else .ack) fun x => { x with poison := 3 }
  | .wb => s1.reply m .wbAck id
  | _ => s1.reply m .ack id

/-- The line's slice set is lost, and its channel is about to be reset (R230). -/
def State.setLost (s : State) (l : LineAddr) : Bool := decide (sliceKey l ∈ (s.chan (lineChan l)).lostSets)

/-- Start a request on a line that is in no transaction. In a lost set a request is not served any more, and the home's
snoop of a line that its proxy has lost is answered POISONED (R230). -/
def State.start (s : State) (l : LineAddr) (m : Msg) : State :=
  let home := s.isLocal l
  if s.setLost l then
    (if m.kind.isReq then s.modSlice l fun e => { e with queue := e.queue ++ [m] } else s.reply m .poisoned id)
  else if m.kind.isReq && home && !s.inMemory l then s.outside m
  else
    let e := s.slice l
    if e.present && e.serves home m then s.serve l m false
    else if m.kind.isReq then
      (if e.present then s else s.countChan (lineChan l) 0x02 1 m.cls.val).askFor l m false
    else s.reply m (if m.kind = .snpInv then .ack else .none) id

/-- Start what waits for the line, in order, while the line is free (R218). -/
def State.drainLine (s : State) (l : LineAddr) : Nat → State
  | 0 => s
  | n + 1 =>
    let e := s.slice l
    match e.queue with
    | [] => s
    | m :: t =>
      if e.busy = none && e.ask = none && !(s.setLost l && m.kind.isReq) then ((s.setSlice l { e with queue := t }).start l m).drainLine l n else s

def State.drain (s : State) (l : LineAddr) : State := s.drainLine l ((s.slice l).queue.length + 1)

/-- What has been asked for has come, and a way is free: the line is installed and the request is served. -/
def State.tryPlace (s : State) (l : LineAddr) : State :=
  let e := s.slice l
  match e.ask with
  | none => s
  | some a =>
    let home := s.isLocal l
    let ready := if home then a.data.isSome else decide (a.grant ≠ .none) && !(a.dataDue && decide (a.data = none))
    if !ready || e.busy ≠ none || s.setLost l then s
    else
      let outer := if home then e.outer else grantWay a.grant
      let go (e : SliceLine) : State :=
        let d := a.data.getD (e.data, e.poison)
        let keepOld := e.present && e.dirty
        let e1 := { e with
          ask := none, present := true, outer := outer
          data := if keepOld then e.data else d.1, poison := if keepOld then e.poison else d.2
          fe := if a.data.isSome && !keepOld then a.fe else e.fe }
        (s.setSlice l e1).serve l a.req (decide (a.data = none) && !e.present)
      if e.present then go e
      else
        match s.sliceWay l with
        | some w => go { e with way := w, dirty := false }
        | none => s

/-- After a change in a set: install what can be installed, begin evictions that are still needed, and start what
waits. -/
def State.settleSet (s : State) (l : LineAddr) : State :=
  let asks := (s.setOf l).filter fun e => e.2.ask.isSome
  let s1 := asks.foldl (fun acc e => ((acc.makeRoom e.1).tryPlace e.1).drain e.1) s
  s1.drain l

/-- A request, or a snoop of the home, reaches the slice; it waits in arrival order while the line is busy (R218). -/
def State.arrive (s : State) (m : Msg) : State :=
  let l := m.line
  let s1 := if m.kind.isReq then s.countChan (lineChan l) 0x01 1 m.cls.val else s
  if s1.lineFree l then (s1.start l m).settleSet l else s1.modSlice l fun e => { e with queue := e.queue ++ [m] }

/-- A snoop of the home reaches a proxy (R217): IN_FLIGHT while its write-back is in flight; after the fill that it
awaits; after the answers that it awaits from its own holders; else at once. -/
def State.proxySnoop (s : State) (m : Msg) : State :=
  let l := m.line
  let e := s.slice l
  let later : State := s.modSlice l fun e => { e with queue := m :: e.queue }
  let now : State := (s.start l m).settleSet l
  if e.outer = .wb then s.reply m (if m.kind = .snpInv then .ack else .inFlight) id
  else if e.busy ≠ none then later
  else
    match e.ask with
    | some a => if !e.present && !passedOn a.req.kind then later else now
    | none => now

/-! ## Answers -/

/-- Finish the line's transaction if nothing is awaited any more. -/
def State.settleTxn (s : State) (l : LineAddr) : State :=
  match (s.slice l).busy with
  | none => s
  | some t => if t.awaiting = [] && !(s.slice l).writing && decide ((s.slice l).outer ≠ .wb) then (s.finish l).settleSet l else s

def State.modTxn (s : State) (l : LineAddr) (f : SliceTxn → SliceTxn) : State :=
  s.modSlice l fun e => { e with busy := e.busy.map f }

/-- The data of an owner on another device, for a requester of this one, come through the slice (R227). -/
def SliceTxn.dataDue (t : SliceTxn) (home : Bool) (a : Agent) (ans : OwnerAnswer) : Bool :=
  home && !t.passed && decide (t.snooped = some a) && (decide (ans = .keeps) || decide (ans = .sharesNow))
    && (decide (t.req.kind = .readS) || decide (t.req.kind = .readU) || decide (t.req.kind = .own))
    && (match a, t.req.src with
      | .node _, .node _ => false
      | .node _, _ => true
      | _, _ => false)

/-- A holder answers a snoop (R216, R222): an answer of the snooped owner is kept, and a holder that has answered is
awaited no longer. IN_FLIGHT waits for the WB unless that is in hand, and an owner whose data are to pass through the
slice is awaited until they have. -/
def State.holderAnswer (s : State) (l : LineAddr) (a : Agent) (ans : OwnerAnswer) : State :=
  match (s.slice l).busy with
  | none => s
  | some t =>
    if a ∈ t.awaiting then
      let isOwner := decide (t.snooped = some a)
      let ans := if ans = .crossed && t.wb then .gone else ans
      (s.modTxn l fun t =>
        { t with awaiting := if ans = .crossed || t.dataDue (s.isLocal l) a ans then t.awaiting else t.awaiting.erase a,
                 snooped := if ans = .crossed then some a else t.snooped
                 answer := if isOwner || decide (ans = .crossed) then ans else t.answer }).settleTxn l
    else s

/-- A WB at a slice (R216, R218, R222): a recall's answer, the data of a snoop that it crossed, or an eviction. -/
def State.takeWb (s : State) (m : Msg) : State :=
  let l := m.line
  let e := s.slice l
  let ack (s : State) : State := s.reply m .wbAck id
  let e1 := { e with data := m.data, poison := m.poison, dirty := true, cls := m.cls }
  if s.isLocal l && !s.inMemory l then s.outside m
  else if !e.present then ack s
  else
    match e.busy with
    | some t =>
      if m.src ∈ t.awaiting then
        let s1 := s.setSlice l e1
        if m.requester ≠ m.src then ack (s1.holderAnswer l m.src .gone)
        else
          let s2 := s1.modTxn l fun t => { t with wb := true, snooped := some m.src }
          ack (if t.answer = .crossed then s2.holderAnswer l m.src .gone else s2)
      else if e.owner = some m.src then ack (s.setSlice l e1.dropOwner) else ack s
    | none => if e.owner = some m.src then (ack (s.setSlice l e1.dropOwner)).settleSet l else ack s

/-- A proxy's request is answered by the home: pass the answer on to the requester, and end (R215, R227). -/
def State.passAnswer (s : State) (l : LineAddr) (f : State → Msg → State) : State :=
  match (s.slice l).ask with
  | none => s
  | some a => ((f s a.req).modSlice l fun e => { e with ask := none }).settleSet l

/-- Data reach a slice: an owner's answer to SNP_PEEK, which is passed on; the fill of a proxy; or data that a
remote owner sends for a requester of this device. -/
def State.sliceData (s : State) (m : Msg) : State :=
  let l := m.line
  let e := s.slice l
  match e.ask with
  | some a =>
    if s.isLocal l then s
    else if passedOn a.req.kind then
      s.passAnswer l fun s r => s.reply r .data fun x => { x with data := m.data, poison := m.poison, fe := m.fe, hasData := true }
    else
      (s.modSlice l fun e => { e with ask := some { a with
        data := some (m.data, m.poison), fe := m.fe, grant := if m.grant = .none then a.grant else m.grant } }).settleSet l
  | none =>
    match e.busy with
    | some t =>
      let pass : State := s.reply t.req .data fun x => { x with data := m.data, poison := m.poison, fe := e.fe, grant := m.grant, hasData := true }
      if decide (m.src ∈ t.awaiting) && decide (ownerSnoop t.req.kind = .snpPeek) then pass.holderAnswer l m.src .keeps
      else if m.requester = .node s.hub.node then
        let s1 := pass.modSlice l fun e => { e with busy := some { t with passed := true } }
        if t.answer = .waiting then s1 else s1.holderAnswer l m.src t.answer
      else s
    | none => s

/-- A grant reaches a proxy. One without a permission ends a request for a line outside memory (R236). -/
def State.sliceGrant (s : State) (m : Msg) : State :=
  let l := m.line
  match (s.slice l).ask with
  | none => s
  | some a =>
    if s.isLocal l then s
    else if m.grant = .none then
      s.passAnswer l fun s r =>
        (s.reply r .data fun x => { x with poison := 3, hasData := true }).reply r .grant id
    else
      (s.modSlice l fun e => { e with ask := some { a with grant := m.grant, dataDue := m.hasData } }).settleSet l

/-- A lost owner or an owner that cannot name its data: both halves of the slice's copy are poisoned (R230). -/
def State.slicePoisoned (s : State) (l : LineAddr) (a : Agent) (kind : Nat) : State :=
  match (s.slice l).busy with
  | none => s
  | some t =>
    if a ∈ t.awaiting then
      ((s.modSlice l fun e => e.spoiled).cachePoison (lineChan l) kind l).holderAnswer l a .gone
    else s

/-! ## What the checks of a slice find (R230) -/

/-- The lines of a channel's memory that map to a slice and a set: 8,192 lines, one for each value of bits [28:16]. -/
def linesOfSet (node ch slice set : Nat) : List LineAddr :=
  (List.range 8192).map fun u =>
    let hi := u * 2 ^ 16
    -- bits [15:5] follow from the set, bits [4:0] from the slice
    let mid := (set ^^^ fold (hi >>> 5) 11 ^^^ node) % 2048
    let lo := slice ^^^ fold (hi + mid * 32) 5
    BitVec.ofNat 50 ((node * 2 ^ 5 + ch) * 2 ^ 36 + hi + mid * 32 + lo)

/-- Mark both halves of a line poisoned in memory. -/
def State.poisonMemory (s : State) (l : LineAddr) : State :=
  let h (s : State) (i : Nat) : State :=
    let v := s.valueAt (s.place l) i
    s.putHalf l i v.1 { v.2 with poison := true }
  if s.inMemory l then h (h s 0) 1 else s

/-- The slice set is lost: every line of the channel's memory that maps there is poisoned in memory, what the set held is
gone, and the channel enters a channel reset. -/
def State.loseSet (s : State) (l : LineAddr) : State :=
  let ch := lineChan l
  let v : DWord := BitVec.ofNat 64 (7 * 2 ^ 60 + sliceOf l + sliceSet l * 32)
  let here := (linesOfSet s.hub.node.val ch (sliceOf l) (sliceSet l)).filter fun x => s.inMemory x
  let s1 := here.foldl (fun acc x => acc.poisonMemory x) s
  let s2 := ((s.setOf l).filter fun e => e.2.present).foldl (fun acc e => acc.dropLine e.1) s1
  (s2.modChan ch fun c =>
    { c with lostSets := sliceKey l :: c.lostSets, ccPoisoned := satAdd c.ccPoisoned here.length, ccErrlog := if c.ccErrlog = 0 then v else c.ccErrlog,
             resetCause := if c.resetCause = none then some 3 else c.resetCause }).ownerEvent 2 (BitVec.ofNat 8 ch) 1 v

/-- What the slice finds when it looks up the line of a request, a WB or a snoop of the home; true when that goes on at
once, false when it waits or has been sent on. A WB is never held, and brings its own data. A clean line of a proxy that
a snoop finds with an error in its data is dropped: the home holds the same data. -/
def State.sliceEcc (s : State) (m : Msg) (x : CacheEcc) : Bool × State :=
  let l := m.line
  let e := s.slice l
  let ch := lineChan l
  let wait (s : State) : Bool × State :=
    if m.kind = .wb then (true, s) else (false, s.modSlice l fun e => { e with queue := m :: e.queue })
  if !e.present || e.busy ≠ none || e.ask ≠ none then (true, s)
  else
    match x with
    | .ok => (true, s)
    | .dataSingle | .dirSingle => (true, s.modChan ch fun c => { c with ccCorrSlice := satAdd c.ccCorrSlice 1 })
    | .dataDouble half =>
      if e.dirty then
        (true, (s.setSlice l { e with poison := e.poison ||| BitVec.ofNat 2 (2 ^ half.val) }).cachePoison ch 4 l)
      else if m.kind = .wb then (true, s)
      else if m.kind.isReq then (false, s.askFor l m true)
      else wait (s.recallAll l false false false)
    | .tagParity =>
      if e.dirty then wait ((s.cachePoison ch 5 l).recallAll l false true true)
      else wait (s.recallAll l false false false)
    | .dirDouble => wait (s.recallAll l true false e.dirty)
    | .tagHeader => (true, s.loseSet l)

/-- What the slice finds in a victim as it leaves. A clean victim's data are not needed. -/
def State.victimEcc (s : State) (v : LineAddr) (x : CacheEcc) : State :=
  let e := s.slice v
  let ch := lineChan v
  match x with
  | .ok => s
  | .dataSingle | .dirSingle => s.modChan ch fun c => { c with ccCorrSlice := satAdd c.ccCorrSlice 1 }
  | .dataDouble half =>
    if e.dirty then (s.setSlice v { e with poison := e.poison ||| BitVec.ofNat 2 (2 ^ half.val) }).cachePoison ch 4 v else s
  | .tagParity => if e.dirty then (s.setSlice v { e with poison := 3 }).cachePoison ch 5 v else s
  | .dirDouble => s.recallAll v true false false
  | .tagHeader => s.loseSet v

/-- The line that leaves the set of `l` when a step takes `s` to `t`. -/
def State.leaver (s t : State) (l : LineAddr) : Option LineAddr :=
  let stays (e : SliceLine) : Bool :=
    e.present && !e.writing && decide (e.outer ≠ .wb) && !(match e.busy with | some t => t.evict | none => false)
  ((s.setOf l).find? fun v => decide (v.1 ≠ l) && decide (v.2.busy = none) && stays v.2 && !stays (t.slice v.1)).map Prod.fst

/-- A step of a slice, with what it finds in the victim that the step evicts. -/
def State.withVictim (s : State) (l : LineAddr) (x : CacheEcc) (f : State → State) : State :=
  match s.leaver (f s) l with
  | some v => if x = .ok then f s else f (s.victimEcc v x)
  | none => f s

/-- A request reaches its slice, which looks its line up. -/
def State.lookUp (s : State) (m : Msg) (x : CacheEcc) : State :=
  let r := s.sliceEcc m x
  if r.1 then r.2.arrive m else (r.2.countChan (lineChan m.line) 0x01 1 m.cls.val).settleSet m.line

/-! ## Holders that are gone (R228, R229) -/

/-- The answers that agents which are gone will never send: an awaited owner leaves the slice's copy poisoned. -/
def State.answersGone (s : State) (l : LineAddr) (gone : Agent → Bool) : State :=
  match (s.slice l).busy with
  | none => s
  | some t => (t.awaiting.filter gone).foldl (fun acc a => acc.holderAnswer l a .gone) s

/-- Every slice of this device that tracks a line in `at_`, the home or the proxy that is its clusters' home (R214), treats
the agents as holding nothing: a lost owner's line is poisoned with D = 1 and reported; lost sharers are removed, and
requests of the agents that wait are dropped. -/
def State.holdersGone (s : State) (at_ : LineAddr → Bool) (gone : Agent → Bool) : State :=
  let here := (s.lines.map fun e => (BitVec.ofNat 50 e.1 : LineAddr)).filter at_
  here.foldl (fun acc l =>
    let e := acc.slice l
    let lost := match e.owner with
      | some a => gone a
      | none => false
    let e1 := { e with
      sharers := e.sharers.filter fun k => !gone (.cluster k)
      nodes := e.nodes.filter fun n => !gone (.node n)
      regs := e.regs.filter fun a => !gone a && (match a with
        | .coreAt n _ => !gone (.node n)
        | _ => true)
      queue := e.queue.filter fun m => !gone m.src }
    let e2 := if lost then e1.spoiled.dropOwner
      else if e1.dstate = .shared && !e1.hasSharers then e1.alone else e1
    let s1 := acc.setSlice l e2
    let s2 := if lost then (s1.cachePoison (lineChan l) 6 l).modChan (lineChan l) fun c =>
        if s.isLocal l then { c with ccLost := satAdd c.ccLost 1 } else c
      else s1
    ((s2.answersGone l gone)).settleSet l) s

end Sys2Proof.Machine
end

