-- ==== Sys2Proof/Machine/Coherence.lean ====
section
/-! DEFINITION. The coherence messages as they arrive (R198, R215 to R222, R284): requests and write-backs at a slice,
snoops at a cluster or a proxy, answers at a slice, a cluster, a core or a move engine. -/

namespace Sys2Proof.Machine

/-- The channel is up, so that its slices, clusters and cores receive messages. -/
def State.up (s : State) (ch : Nat) : Bool := decide ((s.chan ch).state = 2) || decide ((s.chan ch).state = 3)

/-- The channel that receives a message: the line's for a slice, its own for a cluster, a core or an engine (R210). -/
def msgChan (m : Msg) : Option Nat :=
  match m.dst with
  | .slice ch => if ch.val = lineChan m.line then some ch.val else none
  | .cluster k => some (k.val / 128)
  | .engine k => some (k.val / 128)
  | .core k => some (channelOfCore k.val)
  | .node _ | .coreAt _ _ => none

/-- The channel answers the message: it is up, or it is retired and answers for its own range as for an access outside
memory (R236, R447). -/
def State.answers (s : State) (ch : Nat) (m : Msg) : Bool :=
  s.up ch || (decide ((s.chan ch).state = 4) && s.isLocal m.line && (match m.dst with | .slice _ => true | _ => false))

/-- A message of the row's kind arrives at an agent of this device whose channel is up. -/
def arriving (kind : MsgKind) (m : Msg) (s : State) (f : State → Out) : Out :=
  if m.kind ≠ kind then .refused .illFormed
  else
    match msgChan m with
    | none => enabled false "no agent of this device receives it" (.next s)
    | some ch => enabled (s.answers ch m) "the channel is down" (receive m s f)

/-- As `arriving`, at a slice. -/
def atSlice (kind : MsgKind) (m : Msg) (s : State) (f : State → Out) : Out :=
  match m.dst with
  | .slice _ => arriving kind m s f
  | _ => enabled false "no slice receives it" (.next s)

/-! ## Requests (R215, R216, R218) -/

/-- A C0 request for another line stands before the slice, which serves it first (R211; the order of the rows that stand for
requests in flight is the model's, notes/assumptions/78.md). -/
def State.behindC0 (s : State) (m : Msg) : Bool :=
  decide (m.cls ≠ 0) && s.msgs.any fun x =>
    x.kind.isReq && decide (x.cls = 0) && decide (x.dst = m.dst) && decide (sliceOf x.line = sliceOf m.line) && decide (x.line ≠ m.line)

/-- A request at a tracking slice: its line is looked up, and it is served or waits. -/
def requestRow (kind : MsgKind) (m : Msg) (e : CacheFind) (s : State) : Out :=
  if s.behindC0 m then enabled false "a C0 request for another line goes first" (.next s)
  else atSlice kind m s fun s => .next (s.withVictim m.line e.victim fun s => s.lookUp m e.here)

/-- READ_S. -/
def execReadS (m : Msg) (e : CacheFind) (s : State) : Out := requestRow .readS m e s
/-- READ_U. -/
def execReadU (m : Msg) (e : CacheFind) (s : State) : Out := requestRow .readU m e s
/-- OWN. -/
def execOwn (m : Msg) (e : CacheFind) (s : State) : Out := requestRow .own m e s
/-- RD_SNAP. -/
def execRdSnap (m : Msg) (e : CacheFind) (s : State) : Out := requestRow .rdSnap m e s
/-- WR_MERGE. -/
def execWrMerge (m : Msg) (e : CacheFind) (s : State) : Out := requestRow .wrMerge m e s
/-- ATOMIC. -/
def execAtomic (m : Msg) (e : CacheFind) (s : State) : Out := requestRow .atomic m e s
/-- The full/empty request. -/
def execFeOp (m : Msg) (e : CacheFind) (s : State) : Out := requestRow .feOp m e s

/-- WB (R222): never held behind BUSY; the line's FE bits stay (R225). -/
def execWb (m : Msg) (e : CacheEcc) (s : State) : Out := atSlice .wb m s fun s => .next ((s.sliceEcc m e).2.takeWb m)

/-! ## Snoops (R217) -/

/-- A snoop at a cluster: counted, answered at once or after the fill that the cluster awaits. -/
def State.snoopCluster (s : State) (k : Nat) (m : Msg) : Out :=
  let s1 := s.countCluster k 0x04 1 m.cls.val
  if s1.awaitsFill k m.line then
    .next (s1.modCluster k fun c => c.modTxn m.line fun t => { t with snoops := t.snoops ++ [m] })
  else
    match s1.clusterSnoop k m with
    | some s2 => .next s2
    | none => protocolFault

/-- A snoop at a cluster or, from the home, at a proxy, with what the cache finds in the line that it looks up (R230). -/
def snoopRow (kind : MsgKind) (m : Msg) (e : CacheEcc) (s : State) : Out :=
  arriving kind m s fun s =>
    match m.dst with
    | .cluster k => (s.clusterEcc k.val m.line e).snoopCluster k.val m
    | .slice _ =>
      if s.isLocal m.line then protocolFault
      else
        let r := s.sliceEcc m e
        .next (if r.1 then r.2.proxySnoop m else r.2.settleSet m.line)
    | _ => protocolFault

/-- SNP_FWD. -/
def execSnpFwd (m : Msg) (e : CacheEcc) (s : State) : Out := snoopRow .snpFwd m e s
/-- SNP_FWD_U. -/
def execSnpFwdU (m : Msg) (e : CacheEcc) (s : State) : Out := snoopRow .snpFwdU m e s
/-- SNP_INV. -/
def execSnpInv (m : Msg) (e : CacheEcc) (s : State) : Out := snoopRow .snpInv m e s
/-- SNP_PEEK. -/
def execSnpPeek (m : Msg) (e : CacheEcc) (s : State) : Out := snoopRow .snpPeek m e s
/-- SNP_RECALL. -/
def execSnpRecall (m : Msg) (e : CacheEcc) (s : State) : Out := snoopRow .snpRecall m e s

/-! ## Answers at a cluster (R219, R220) -/

/-- The data of a cluster's transaction arrive; a response that matches no request is discarded (R284). -/
def State.clusterData (s : State) (k : Nat) (m : Msg) (e : CacheEcc) : State :=
  (s.modCluster k fun c => c.modTxn m.line fun t =>
    { t with data := some (m.data, m.poison), grant := if m.grant = .none then t.grant else m.grant }).tryInstall k m.line e

/-- End a transaction without the line: its loads take `f`, its stores `g`; its snoops are answered. -/
def State.endTxn (s : State) (k : Nat) (l : LineAddr) (f : LoadEntry → LoadEntry)
    (g : State → Nat → StoreEntry → State) : State :=
  match (s.cluster k).txn l with
  | none => s
  | some t =>
    let s1 := s.modCluster k fun c => { c with txns := c.txns.filter fun x => !decide (x.line = l) }
    let s2 := (s1.activeCores k).foldl (fun acc c => acc.modCore c fun co =>
      { co with loads := co.loads.map fun e => if decide (e.line = l) && e.sent && !e.ready && e.plain then f e else e }) s1
    let s3 := (s2.activeCores k).foldl (fun acc c => ((acc.core c).waitingStores l).foldl (fun a e => g a c e) acc) s2
    t.snoops.foldl (fun acc m => (acc.clusterSnoop k m).getD acc) s3

/-- A grant arrives. One without a permission ends the request for a line outside memory (R236): its loads take the
poisoned data, its stores are acknowledged and discarded. -/
def State.clusterGrant (s : State) (k : Nat) (m : Msg) (e : CacheEcc) : State :=
  if m.grant = .none then
    s.endTxn k m.line (fun e => e.fill 0 3) fun a c e => a.modStore c e.id fun x => { x with acked := true }
  else
    (s.modCluster k fun c => c.modTxn m.line fun t => { t with grant := m.grant, dataDue := m.hasData }).tryInstall k m.line e

/-- The request of a cluster is lost (R178, R179): its loads return poisoned data, its stores count as lost. -/
def State.clusterLost (s : State) (k : Nat) (l : LineAddr) : State :=
  (s.endTxn k l LoadEntry.lose fun a c e => a.loseStore c e).pumpCluster k

/-- The slice has acknowledged a write-back: the way is free, and the fill that waits for it is installed (R220). -/
def State.clusterWbAck (s : State) (k : Nat) (v : LineAddr) : State :=
  if (s.copyOf k v).state ≠ .wb then s
  else
    let s1 := (s.setCopy k v .absent).modCluster k fun c =>
      { c with txns := c.txns.map fun t => if t.victim = some v then { t with victim := none } else t }
    s1.pumpCluster k

/-! ## Answers at a core -/

/-- A load entry of a core receives its line: a snapshot, or the result of an ATOMIC or full/empty request. -/
def State.coreReceives (s : State) (core id : Nat) (f : LoadEntry → LoadEntry) : State :=
  s.modLoad core id fun e => if e.sent && !e.ready && !e.plain then f e else e

/-- A monitor post of the core is answered: it is outstanding no longer (R148, R149). -/
def Core.postDone (c : Core) (rid : Nat) : Core := { c with posts := c.posts.filter fun p => decide (p.rid ≠ rid) }

/-- An entry of the store buffer is acknowledged by its slice, or a monitor post is; a RED that flushed leaves FLUSHED with
its context (R81, R86). -/
def State.coreAcked (s : State) (core : Nat) (m : Msg) : State :=
  match (s.core core).stores.find? fun e => decide (e.id = m.tag) && e.issued && !e.acked && !e.plain with
  | none => s.modCore core fun c => c.postDone m.tag
  | some e =>
    let s1 := s.modStore core e.id fun x => { x with acked := true }
    if m.flushed then s1.orSticky e.ctx.val flagFlushed else s1

/-- A request of a core is lost; a lost monitor post has no further effect. -/
def State.coreLost (s : State) (core id : Nat) : State :=
  match (s.core core).stores.find? fun e => decide (e.id = id) && e.issued && !e.acked && !e.plain with
  | some e => s.loseStore core e
  | none => (s.modCore core fun c => c.postDone id).coreReceives core id LoadEntry.lose

/-! ## The answers as rows (R216, R217, R219, R284) -/

/-- DATA, with what a cluster's cache finds in the victim of the line that it installs. -/
def execData (m : Msg) (e : CacheEcc) (s : State) : Out :=
  arriving .data m s fun s =>
    .next (match m.dst with
      | .cluster k => s.clusterData k.val m e
      | .engine k => s.engineAnswer k.val m
      | .core k => s.coreReceives k.val m.tag fun e => e.fill m.data m.poison
      | .slice _ => s.sliceData m
      | _ => s)

/-- GRANT, with what a cluster's cache finds in the victim of the line that it installs. -/
def execGrant (m : Msg) (e : CacheEcc) (s : State) : Out :=
  arriving .grant m s fun s =>
    .next (match m.dst with
      | .cluster k => s.clusterGrant k.val m e
      | .slice _ => s.sliceGrant m
      | _ => s)

/-- ACK. -/
def execAck (m : Msg) (s : State) : Out :=
  arriving .ack m s fun s =>
    .next (match m.dst with
      | .slice _ =>
        if (s.slice m.line).ask.isSome && !s.isLocal m.line && (match m.src with | .node _ => true | _ => false) then
          s.passAnswer m.line fun s r => s.reply r .ack fun x => { x with flushed := m.flushed }
        else s.holderAnswer m.line m.src (if m.ownerNowShared then .sharesNow else .keeps)
      | .engine k => s.engineAnswer k.val m
      | .core k => s.coreAcked k.val m
      | _ => s)

/-- NONE: the holder holds nothing. -/
def execNone (m : Msg) (s : State) : Out := atSlice .none m s fun s => .next (s.holderAnswer m.line m.src .gone)

/-- IN_FLIGHT: the owner's WB is the snoop's data (R222). -/
def execInFlight (m : Msg) (s : State) : Out := atSlice .inFlight m s fun s => .next (s.holderAnswer m.line m.src .crossed)

/-- POISONED: the owner's way was LOST; the home poisons both halves of its copy (R230). -/
def execPoisoned (m : Msg) (s : State) : Out := atSlice .poisoned m s fun s => .next (s.slicePoisoned m.line m.src 3)

/-- WB_ACK, at a cluster or at a proxy that has written a line back. -/
def execWbAck (m : Msg) (s : State) : Out :=
  arriving .wbAck m s fun s =>
    .next (match m.dst with
      | .cluster k => s.clusterWbAck k.val m.line
      | .slice _ => if (s.slice m.line).outer = .wb then (s.dropLine m.line).settleSet m.line else s
      | _ => s)

/-- RESULT. A proxy records the local core whose lanes park at the home, so that the home's wake reaches it (R198). -/
def execResult (m : Msg) (s : State) : Out :=
  arriving .result m s fun s =>
    .next (match m.dst with
      | .core k =>
        s.coreReceives k.val m.tag fun e =>
          { (e.fill m.data m.poison) with results := m.results, flushed := m.flushed }
      | .slice _ =>
        s.passAnswer m.line fun s r =>
          let r2 := if m.results.any fun x => x.parked && !x.unregistered then s.register m.line r.src else (true, s)
          r2.2.reply r .result fun x =>
            { x with
              poison := m.poison, flushed := m.flushed
              results := m.results.map fun y => { y with unregistered := y.unregistered || (y.parked && !r2.1) } }
      | _ => s)

/-- LOST: the requester completes its request lost (R179). -/
def execLost (m : Msg) (s : State) : Out :=
  arriving .lost m s fun s =>
    .next (match m.dst with
      | .cluster k => s.clusterLost k.val m.line
      | .engine k => s.engineAnswer k.val m
      | .core k => s.coreLost k.val m.tag
      | .slice _ => s.passAnswer m.line fun s r => s.reply r .lost id
      | _ => s)

/-- FE_WAKE: at a core its parked entries on the line become runnable, through the ramp (R194, R198); at a proxy the
registered cores of this device are woken. -/
def execFeWake (m : Msg) (s : State) : Out :=
  arriving .feWake m s fun s =>
    .next (match m.dst with
      | .core k =>
        let s1 := s.addWake { core := k.val, slots := [], line := some m.line, signal := false, since := 0 }
        -- a wake from another channel is a message of a stream, which its answer releases (R285)
        if channelOfCore k.val = lineChan m.line then s1 else s1.post { Msg.blank .ack m.line m.dst m.src with tag := m.tag, txn := m.txn }
      | .slice _ => (s.wakeRegistered m.line).reply m .ack id
      | _ => s)

end Sys2Proof.Machine
end

