-- ==== Sys2Proof/Machine/Flits.lean ====
section
/-! DEFINITION. Flits as bytes (R276, R277, R283, R284, R291, R298): the header and data slots of a message, the 256 bytes of a flit,
the 272 bytes of its FEC block. -/

namespace Sys2Proof

/-- OP of a coherence message (R284). -/
def MsgKind.op : MsgKind → Nat
  | .readS => 0x01 | .readU => 0x02 | .own => 0x03 | .rdSnap => 0x04 | .wrMerge => 0x05 | .atomic => 0x06 | .feOp => 0x07
  | .snpFwd => 0x10 | .snpFwdU => 0x11 | .snpInv => 0x12 | .snpPeek => 0x13 | .snpRecall => 0x14 | .feWake => 0x15
  | .data => 0x20 | .grant => 0x21 | .ack => 0x22 | .none => 0x23 | .inFlight => 0x24 | .poisoned => 0x25
  | .wbAck => 0x26 | .result => 0x27 | .wb => 0x28 | .lost => 0x29

/-- OP of a management message (R284). -/
def Mgt.op : Mgt → Nat
  | .ident _ => 0x30 | .paceReport .. => 0x31 | .nodeLost => 0x32 | .nodeRejoin => 0x33
  | .channelReset => 0x34 | .streamRestart _ => 0x35 | .diag => 0x36

def Body.op : Body → Nat
  | .coherence m => m.kind.op
  | .management m => m.op

/-- KIND of the LINK field (R277). -/
def FlitKind.code : FlitKind → Nat
  | .idle => 0 | .data => 1 | .ctrl => 2

/-- The 48 bytes of IDENT (R291), as a number. -/
def IdentRec.value (r : IdentRec) : Nat :=
  r.node.val + r.channel.val * 2 ^ 16 + r.port.val * 2 ^ 24 + r.serial.toNat * 2 ^ 32 + r.protoMinor.toNat * 2 ^ 64
    + r.protoMajor.toNat * 2 ^ 72 + r.firmware.toNat * 2 ^ 96 + r.digest.toNat * 2 ^ 128 + r.epoch.toNat * 2 ^ 256
    + r.powerOn.toNat * 2 ^ 288

/-- Data slot `i` of a management message (R291, R298). The place of the TXN in STREAM_RESTART's slot is not given: the low bits
(PRESUMED, notes/assumptions/81.md). -/
def Mgt.slot (m : Mgt) (i : Nat) : BitVec 128 :=
  match m with
  | .ident r => BitVec.ofNat 128 (r.value / 2 ^ (128 * i))
  | .paceReport n pace seq => BitVec.ofNat 128 (n.val + pace.toNat * 2 ^ 16 + seq.toNat * 2 ^ 32)
  | .streamRestart base => base.setWidth 128
  | _ => 0

/-- Data slot `i` of a coherence message (R284): the line, behind the mask where there is one. -/
def Msg.slot (m : Msg) (i : Nat) : BitVec 128 :=
  match m.kind with
  | .wrMerge => if i = 0 then m.mask else m.data.extractLsb' (128 * (i - 1)) 128
  | .data | .wb => m.data.extractLsb' (128 * i) 128
  | _ => Config.operandSlot m i

/-- The ADDR field of a header (R283): the line address; in a response the TXN answered, with OP-specific bits. -/
def Body.addr : Body → Nat
  | .coherence m =>
    if (m.kind.isReq || m.kind.isSnp || m.kind = .wb) && !m.answersRecall then m.line.toNat
    else m.txn % 2 ^ 16 + (Config.responseField m).toNat * 2 ^ 16
  | .management _ => 0

/-- The header slot of a message (R283). -/
def StreamMsg.headerSlot (x : StreamMsg) : BitVec 128 :=
  BitVec.ofNat 128 (x.vc + x.body.op * 2 ^ 4 + x.len * 2 ^ 12 + x.srcNode.val * 2 ^ 16 + x.srcCh.val * 2 ^ 25
    + x.dstNode.val * 2 ^ 30 + x.dstCh.val * 2 ^ 39 + (if x.sequenced then x.txn.toNat else 0) * 2 ^ 44 + x.rel.toNat * 2 ^ 60
    + x.body.addr * 2 ^ 76 + x.inc.toNat * 2 ^ 126)

/-- Slot `i` of a message: its header, then its data slots. -/
def StreamMsg.slot (x : StreamMsg) (i : Nat) : BitVec 128 :=
  if i = 0 then x.headerSlot
  else
    match x.body with
    | .coherence m => m.slot (i - 1)
    | .management m => m.slot (i - 1)

end Sys2Proof

namespace Sys2Proof.Machine

/-- The slots of a flit that carry messages. -/
def flitSlots (f : Flit) : List (BitVec 128) :=
  f.parts.flatMap fun p => (List.range p.count).map fun i => p.msg.slot (p.first + i)

/-- The LINK field (R277). -/
def flitLink (f : Flit) : Nat :=
  f.seq.toNat + f.ack.toNat * 2 ^ 12 + (if f.nak then 2 ^ 24 else 0) + f.kind.code * 2 ^ 25

/-- A credit return of 16 bits; one of count 0 returns nothing (R277). -/
def creditField (cs : List (Fin 16 × BitVec 12)) (i : Nat) : Nat :=
  match cs[i]? with
  | some c => c.1.val + c.2.toNat * 2 ^ 4
  | none => 0

/-- Bytes 0 to 251 of a flit: LINK, four credit returns, fifteen slots, of which those behind the last message are empty (R277). -/
def flitBody (f : Flit) : List Byte :=
  let ss := flitSlots f
  bytesLe 4 (flitLink f) ++ ((List.range 4).flatMap fun i => bytesLe 2 (creditField f.credits i))
    ++ (List.range 15).flatMap fun i => bytesLe 16 (ss.getD i 0).toNat

/-- The 256 bytes of a flit: the CRC-32C stands in the last four (R277). -/
def flitBytes (f : Flit) : List Byte := flitBody f ++ bytesLe 4 (crc32c (flitBody f)).toNat

/-! ## FEC blocks (R276) -/

/-- The codeword of a block's byte on a port of `L` lanes, and its place there. -/
def fecWord (L b : Nat) : Nat := b / L % 2
def fecPlace (L b : Nat) : Nat := b / L / 2 * L + b % L

/-- The symbols of a codeword, in block order. -/
def fecSymbols (L : Nat) (bytes : List Byte) (c : Nat) : List Nat :=
  (bytes.zipIdx.filter fun b => decide (fecWord L b.2 = c)).map fun b => b.1.toNat

/-- The 272 bytes in which a flit travels. -/
def fecBlock (L : Nat) (flit : List Byte) : List Byte :=
  let w (c : Nat) : List Nat := rsEncode 8 (fecSymbols L flit c)
  let w0 := w 0
  let w1 := w 1
  (List.range 272).map fun b => BitVec.ofNat 8 ((if fecWord L b = 0 then w0 else w1).getD (fecPlace L b) 0)

/-- The places at which two codewords differ. -/
def differing (v w : List Nat) : Nat := ((List.range v.length).filter fun i => decide (v.getD i 0 ≠ w.getD i 0)).length

/-- A received block: the symbols corrected, at most four a codeword, and the 256 bytes of its flit; none where a codeword is
uncorrectable. -/
def fecDecode (L : Nat) (bytes : List Byte) : Option (Nat × List Byte) :=
  if L = 0 ∨ bytes.length ≠ 272 then none
  else
    let v0 := fecSymbols L bytes 0
    let v1 := fecSymbols L bytes 1
    match rsDecode 8 v0 [], rsDecode 8 v1 [] with
    | some w0, some w1 =>
      some (differing v0 w0 + differing v1 w1,
        (List.range 256).map fun b => BitVec.ofNat 8 ((if fecWord L b = 0 then w0 else w1).getD (fecPlace L b) 0))
    | _, _ => none

/-- What a port makes of a block: it is discarded for FEC or CRC, or it is the flit, with the symbols corrected, or another. -/
inductive Received where
  | bad
  | good (corrected : Nat)
  | other
  deriving DecidableEq, Repr

/-- A block received on `L` lanes, against a flit (R276, R278). -/
def received (L : Nat) (bytes : List Byte) (f : Flit) : Received :=
  match fecDecode L bytes with
  | none => .bad
  | some (n, fb) =>
    if leNat (fb.drop 252) ≠ (crc32c (fb.take 252)).toNat then .bad
    else if fb = flitBytes f then .good n else .other

end Sys2Proof.Machine
end

