-- ==== Sys2Proof/Machine/Memory.lean ====
section
/-! DEFINITION. Stacked memory (R235 to R252): reads and writes at the decoder, scrubbing, and the evacuation of a pseudo-channel. The
errors that have come into stored codewords since are the rows' operands (notes/assumptions/84.md). -/

namespace Sys2Proof.Machine

/-- The pseudo-channel of a line of this device. -/
def State.pcOf (s : State) (l : LineAddr) : Fin 64 := placePc (s.place l)

/-! ## Reads and writes (R241, R242, R249) -/

/-- A C0 read of the same pseudo-channel stands before a read (R211; the order of the rows that stand for reads in flight is the model's,
notes/assumptions/78.md). -/
def State.behindC0Read (s : State) (l : LineAddr) (a : Ask) : Bool :=
  decide (a.req.cls ≠ 0) && s.lines.any fun e =>
    let x : LineAddr := BitVec.ofNat 50 e.1
    match e.2.ask with
    | some b => decide (b.req.cls = 0) && decide (b.data = none) && s.isLocal x && decide (lineChan x = lineChan l) && decide (s.pcOf x = s.pcOf l)
    | none => false

/-- MEMORY_READ_COMPLETE: the read that a home slice waits for returns, with the errors that have come into its two codewords (R241,
R242). -/
def execMemoryReadComplete (l : LineAddr) (lo hi : SymErrors) (s : State) : Out :=
  match (s.slice l).ask with
  | none => enabled false "no read of the line is outstanding" (.next s)
  | some a =>
    enabled (s.isLocal l && s.up (lineChan l) && decide (a.data = none) && !s.behindC0Read l a) "no read of the line is outstanding, or a C0 read goes first" <|
      let p := s.place l
      let s1 := ((s.countChan (lineChan l) 0x05 2 a.req.cls.val).histogram (lineChan l) 2 a.req.cls.val).upset (lineChan l)
        [(placeHalf p 0, lo), (placeHalf p 1, hi)]
      let x := s1.memLine l
      let cls := (s1.valueAt p 0).2.cls
      let s2 := (s1.readMem l).modSlice l fun e =>
        { e with ask := some { a with data := some (x.data, x.poison), fe := x.fe }, cls := if e.present then e.cls else cls }
      .next (s2.settleSet l).postNotices

/-- MEMORY_WRITE_ACK: the write of an evicted line is done, at both places during an evacuation; the way is free (R221,
R241, R249). -/
def execMemoryWriteAck (l : LineAddr) (s : State) : Out :=
  let e := s.slice l
  enabled (e.writing && s.up (lineChan l)) "no write of the line is outstanding" <|
    .next (((((s.countChan (lineChan l) 0x06 2 e.cls.val).memWrite l e.data e.poison e.fe e.cls).dropLine l).settleSet l))

/-! ## Scrubbing (R243, R244) -/

/-- Scrubbing is on: SCRUB_PERIOD is not 0, and the channel is up and does not rest (R401). -/
def State.scrubs (s : State) (ch : Nat) : Bool :=
  s.up ch && decide ((s.chan ch).scrubPeriod ≠ 0) && !(s.chan ch).rest

/-- Corrected errors on a DQ pin are counted in a pass; at 64 codewords the pin is marked failed, at most two on a
pseudo-channel, and the second nominates it (R240, R246). -/
def State.pinError (s : State) (ch : Nat) (pc : Fin 64) (pin : Fin 32) : State :=
  let key := pc.val * 32 + pin.val
  let s1 := s.modChan ch fun c => { c with pinErrors := tset 0 c.pinErrors key (tget 0 c.pinErrors key + 1) }
  let c := s1.chan ch
  let marked := (c.failedPins.filter fun p => decide (p.1 = pc)).length
  if tget 0 c.pinErrors key = 64 ∧ (pc, pin) ∉ c.failedPins ∧ marked < 2 then
    let s2 := (s1.modChan ch fun c =>
      { c with failedPins := c.failedPins ++ [(pc, pin)], pinFail := c.pinFail ||| BitVec.ofNat 64 (2 ^ pc.val) }).memLog
        ch 4 0 (pc.val + 64 * pin.val)
    if marked = 1 then s2.nominate ch pc else s2
  else s1

/-- Rewrite a half that the scrubber found in error, by the line's state at its slice (R244): not where the slice holds newer data; from
the slice where it holds the same; else as the decoder corrected it. -/
def State.scrubWrite (s : State) (l : LineAddr) (h : Nat) (d : BitVec 512) (m : HalfMeta) : State :=
  let e := s.slice l
  if e.present && e.dirty then s
  else if e.present then
    (s.putHalf l h (e.data.extractLsb' (512 * h) 512) ⟨e.fe.extractLsb' (8 * h) 8, e.poison.getLsbD h, e.cls⟩).countChan (lineChan l) 0x06 1 3
  else (s.putHalf l h d m).countChan (lineChan l) 0x06 1 3

/-- The scrubber reads a half and repairs it. The patrol counts corrected errors on each DQ pin. -/
def State.scrubHalf (s : State) (l : LineAddr) (h : Nat) (patrol : Bool) : State :=
  let ch := lineChan l
  let p := s.place l
  match s.findAt p h with
  | .clean => s
  | .corrected d m changed =>
    let pins : List (Fin 32) := ((changed.map fun i => (symbolPlace (codewordOf (placeSlot p) h) i).2).eraseDups).map fun n => (BitVec.ofNat 5 n).toFin
    let s1 := s.modChan ch fun c => { c with memCorr := satAdd c.memCorr 1 }
    let s2 := if patrol then pins.foldl (fun acc q => acc.pinError ch (placePc p) q) s1 else s1
    s2.scrubWrite l h d m
  | .lost cls => (s.codewordLost l h 2 cls).scrubWrite l h 0 ⟨0, true, (s.halfAt p h).cls⟩

/-- Lost full/empty bits of a line that its slice does not hold wake the registered cores (R197). -/
def State.scrubbed (s t : State) (l : LineAddr) : State :=
  let p := s.place l
  if !(s.slice l).present && (decide ((s.halfAt p 0).fe ≠ (t.halfAt p 0).fe) || decide ((s.halfAt p 1).fe ≠ (t.halfAt p 1).fe))
  then t.wakeRegistered l else t

/-- TARGETED_SCRUB: the earliest corrected codeword in the queue is rewritten (R241). What map-outs have withdrawn is passed over. -/
def execTargetedScrub (ch : Fin 32) (s : State) : Out :=
  match (s.chan ch.val).targeted with
  | [] => enabled false "nothing is queued" (.next s)
  | (l, h) :: t =>
    enabled (s.scrubs ch.val && s.lineFree l) "scrubbing is off, or the line is busy" <|
      let s1 := s.modChan ch.val fun c => { c with targeted := t }
      .next (if s.inMemory l then (s1.scrubbed (s1.scrubHalf l h.val false) l).postNotices else s1)

/-- The next position of the scrubber that stands on a pseudo-channel in service: positions run through the 64 pseudo-channels of each
slot (R243). -/
def Channel.scrubAt (c : Channel) : Nat :=
  let ok (n : Nat) : Bool := !(c.mapOrder.any fun d => decide (d.val = n % 64))
  (((List.range 64).map fun i => c.scrubPos + i).find? ok).getD c.scrubPos

/-- PATROL_SCRUB, with the errors that have come into the channel's codewords: the line at the scrubber's place is read and repaired; a
pass ends behind the last slot, and the next begins at slot 0. -/
def execPatrolScrub (ch : Fin 32) (upsets : List (Nat × SymErrors)) (s : State) : Out :=
  let c := s.chan ch.val
  let n := c.scrubAt
  let off := lineAt c.mapOrder (nativeLine (n % 64) (n / 64))
  let l : LineAddr := BitVec.ofNat 50 ((s.hub.node.val * 2 ^ 5 + ch.val) * 2 ^ 36 + off)
  enabled (s.scrubs ch.val && s.lineFree l) "scrubbing is off, or the line is busy" <|
    let s1 := (s.upset ch.val upsets).countChan ch.val 0x05 2 3
    let s2 := s1.scrubbed ((s1.scrubHalf l 0 true).scrubHalf l 1 true) l
    .next (s2.modChan ch.val fun c =>
      if 2 ^ 29 ≤ n + 1 then { c with scrubPos := 0, pinErrors := [] } else { c with scrubPos := n + 1 }).postNotices

/-! ## Evacuation (R248 to R252) -/

/-- Copy a half to a new place: through the decoder; a lost half is copied as poisoned and stays poisoned (R240, R249). It is counted and
logged as the scrubber's are. -/
def State.copyHalf (s : State) (l : LineAddr) (q h : Nat) : State :=
  let p := s.place l
  let v := s.valueAt p h
  let s1 := match s.findAt p h with
    | .clean => s
    | .corrected .. => s.codewordCorrected l h
    | .lost cls => s.codewordLost l h 2 cls
  s1.putAt q h v.1 v.2

/-- The places that hold anything but zero data with empty bits. Copying one such place to another changes nothing. -/
def State.usedPlaces (s : State) : List Nat :=
  ((tkeys s.mem).map (· / 128) ++ (tkeys s.halves).map (· / 2) ++ (tkeys s.upsets).map (· / 2)).eraseDups

/-- Copy the line at a slot of the evacuated pseudo-channel to its new place. -/
def State.copySlot (used : List Nat) (ch : Nat) (s : State) (t : Nat) : State :=
  let c := s.chan ch
  let off := lineAt c.mapOrder (nativeLine c.evacPc.val t)
  let l : LineAddr := BitVec.ofNat 50 ((s.hub.node.val * 2 ^ 5 + ch) * 2 ^ 36 + off)
  match s.newPlace l with
  | none => s
  | some q => if s.place l ∈ used ∨ q ∈ used then (s.copyHalf l q 0).copyHalf l q 1 else s

/-- EVACUATION_BATCH, with the errors that have come into the channel's codewords: the next 4,096 lines are copied to their new places,
and BATCH is recorded (R248 step 4). -/
def execEvacuationBatch (ch : Fin 32) (upsets : List (Nat × SymErrors)) (s : State) : Out :=
  let c := s.chan ch.val
  let slots := c.batchSlots c.evacPc.val c.evacDone
  enabled (s.up ch.val && decide (c.evacState = 2) && decide (c.evacDone < c.evacTotal) && !c.handoff && !s.hub.pin && !s.hub.coolant)
      "nothing is being copied" <|
    let s0 := s.upset ch.val upsets
    let used := s0.usedPlaces
    let s1 := if used = [] then s0 else slots.foldl (fun acc t => State.copySlot used ch.val acc t) s0
    .next ((((s1.countChan ch.val 0x05 (2 * slots.length) 3).countChan ch.val 0x06 (2 * slots.length) 3).modChan ch.val fun x =>
      { (x.record (c.journalRec 2 c.evacDone)) with evacDone := c.evacDone + 1 }).postNotices)

/-- Every line of a channel beyond its capacity is lost with its copies (R247). -/
def State.dropBeyond (s : State) (ch : Nat) : State :=
  let out := (s.lines.map fun e => (BitVec.ofNat 50 e.1 : LineAddr)).filter fun l =>
    s.isLocal l && decide (lineChan l = ch) && !s.inMemory l
  out.foldl (fun acc l => (acc.dropCopies l).dropLine l) s

/-- The requests that the channel's controllers have accepted are complete, and nothing is under way for a line that the new map
withdraws (R248 step 6). -/
def State.controllersIdle (s : State) (ch : Nat) (capacity : Nat) : Bool :=
  s.lines.all fun e =>
    let l : LineAddr := BitVec.ofNat 50 e.1
    !(s.isLocal l && decide (lineChan l = ch)) || (!e.2.writing && (match e.2.ask with | some a => decide (a.data ≠ none) | none => true)
      && (decide (lineOff l < capacity) || (decide (e.2.busy = none) && decide (e.2.ask = none) && decide (e.2.queue = []))))

/-- EVACUATION_COMMIT: COMMIT is written, the accepted requests are complete, and the new map is in force; the top GiB goes (R247,
R248 steps 5 and 6). -/
def execEvacuationCommit (ch : Fin 32) (s : State) : Out :=
  let c := s.chan ch.val
  enabled (s.up ch.val && decide (c.evacState = 2) && decide (c.evacTotal ≤ c.evacDone)) "copying has not ended" <|
    enabled (s.controllersIdle ch.val (withdrawnFrom c.mappedOut)) "accepted requests are under way" <|
      .next ((s.modChan ch.val fun c => { (c.record (c.journalRec 3 0)) with evacState := 3, mapOrder := c.evacPc :: c.mapOrder }).dropBeyond ch.val)

/-- MAP_STORE_COMMIT: the hub records the map and posts the capacity; the next nomination is served (R248 step 7). -/
def execMapStoreCommit (ch : Fin 32) (s : State) : Out :=
  let c := s.chan ch.val
  enabled (decide (c.evacState = 3)) "no map awaits the store" <|
    let s1 := s.modChan ch.val fun c =>
      { c with evacState := 0, storeOrder := c.mapOrder, granted := false, nominations := c.nominations.filter fun d => !decide (d = c.evacPc) }
    .next ((s1.ownerEvent 4 (BitVec.ofNat 8 ch.val) 0 (BitVec.ofNat 64 (s1.chan ch.val).capacityGiB)).serveNomination ch.val).postNotices

/-- The owner withdraws the grant: ABANDON is written, the old map stays, the pseudo-channel stays nominated (R252). -/
def State.abandonEvacuation (s : State) (ch : Nat) : State :=
  s.modChan ch fun c =>
    let c1 := if c.evacState = 2 then c.record (c.journalRec 4 0) else c
    { c1 with evacState := 1, granted := false, evacTotal := 0, evacDone := 0 }

end Sys2Proof.Machine
end

