-- ==== Sys2Proof/Machine/Translation.lean ====
section
/-! DEFINITION. The translation walkers and translation faults (R255 to R271, R334): TLB_WALK_START, WALK_COMPLETE,
FAULT_RECORD_POST, and the resolution of fault entries. -/

namespace Sys2Proof.Machine

/-! ## Page table entries (R256, R257) -/

def pteV (e : Nat) : Bool := e.testBit 0
def pteW (e : Nat) : Bool := e.testBit 1
def pteX (e : Nat) : Bool := e.testBit 2
def ptePfn (e : Nat) : Nat := e / 2 ^ 25 % 2 ^ 32
/-- Bits [24:3] and [63:57]. -/
def pteReserved (e : Nat) : Nat := e / 2 ^ 3 % 2 ^ 22 + e / 2 ^ 57 * 2 ^ 22

/-- The causes of R267. -/
def causeSegment : BitVec 4 := 1
def causeNotPresent : BitVec 4 := 2
def causeWrite : BitVec 4 := 3
def causeFetch : BitVec 4 := 4
def causeBadPte : BitVec 4 := 5
def causeRange : BitVec 4 := 6
def causeTableLost : BitVec 4 := 7

/-- A physical range lies wholly inside a valid grant of a function; the owner function has every address (R333,
R334). -/
def State.granted (s : State) (fn pa n : Nat) : Bool :=
  decide (fn = 0) || (List.range 16).any fun i =>
    match tget none (s.fnOf fn).grants i with
    | none => false
    | some g => decide (g.1 ≤ pa) && decide (pa + n ≤ g.1 + g.2)

/-- Check 5: a page of this device lies wholly below its channel's presented capacity, and the page is granted. -/
def State.pageInRange (s : State) (fn pa n : Nat) : Bool :=
  let inside := decide (pa / 2 ^ 48 ≠ s.hub.node.val) || decide (pa % 2 ^ 43 + n ≤ (s.chan (pa / 2 ^ 43 % 32)).capacity)
  inside && s.granted fn pa n

/-- Checks 3 to 5 of an entry, for a segment's page size. -/
def State.pteCause (s : State) (fn e : Nat) (big : Bool) : Option (BitVec 4) :=
  if !pteV e then some causeNotPresent
  else if pteReserved e ≠ 0 ∨ (big = true ∧ ptePfn e % 64 ≠ 0) then some causeBadPte
  else if !s.pageInRange fn (ptePfn e * 2 ^ 25) (pageSize big) then some causeRange
  else none

/-- Checks 6 and 7 for an access. -/
def accessCause (e : Nat) (a : Access) : Option (BitVec 4) :=
  if a.write && !pteW e then some causeWrite else if a.fetch && !pteX e then some causeFetch else none

/-- Where the entry of a page stands. -/
def Segment.entryAt (g : Segment) (va : Nat) : Nat := g.table + 8 * ((va - g.start) / pageSize g.big)

/-- The page walk: the entry, or the cause that checks 1 to 5 give. An entry whose home channel is down or resetting is out of reach. -/
def State.walk (s : State) (ctx va : Nat) : (Nat × Option (BitVec 4)) × State :=
  match (s.ctx ctx).segmentOf va with
  | none => ((0, some causeSegment), s)
  | some g =>
    if !s.up (lineChan (lineOfPa (g.entryAt va))) then ((0, some causeTableLost), s)
    else
      let r := s.readPhys (g.entryAt va) 8
      let e := leNat r.1.1
      ((e, if r.1.2.1 || r.1.2.2 then some causeTableLost else r.2.pteCause (s.ctx ctx).fn.val e g.big), r.2)

/-! ## Fault entries (R266 to R268) -/

/-- FAULT_ID (R267). -/
def faultId (ch slot : Nat) : Nat := ch * 512 + slot

/-- The lowest free slot of a fault table. -/
def Channel.freeFault (c : Channel) : Option Nat :=
  (List.range 512).find? fun i => !(c.faults.any fun f => decide (f.slot = i))

/-- Open or merge an entry for a failed access of a core, and post its record; none when the table is full. -/
def State.openFault (s : State) (core ctx : Nat) (a : Access) (cause : BitVec 4) : Option Nat × State :=
  let ch := channelOfCore core
  let cl : BitVec 128 := BitVec.ofNat 128 (2 ^ (clusterOfCore core % 128))
  let pg := (s.ctx ctx).pageOf a.va.toNat
  let c := s.chan ch
  let mark (f : FaultEntry) : FaultEntry :=
    if a.move then { f with moveMask := f.moveMask ||| cl } else { f with coreMask := f.coreMask ||| cl }
  let post (s : State) (slot n : Nat) (merged : Bool) : State :=
    s.modFn (s.ctx ctx).fn.val fun x => { x with fault := { x.fault with held := x.fault.held ++
      [{ ctx := (BitVec.ofNat 11 ctx).toFin, ch := (BitVec.ofNat 5 ch).toFin, cause := cause, merged := merged, access := a,
         id := faultId ch slot, waiters := n, core := core }] } }
  match c.faults.find? fun f => decide (f.ctx.val = ctx) && decide (f.page = pg.1) && decide (f.big = pg.2) with
  | some f =>
    let s1 := s.modChan ch fun c =>
      { c with xltMerged := satAdd c.xltMerged 1,
               faults := c.faults.map fun x => if x.stamp = f.stamp then mark { x with waiters := x.waiters + 1 } else x }
    (some f.stamp, post s1 f.slot (f.waiters + 1) true)
  | none =>
    match c.freeFault with
    | none => (none, s)
    | some slot =>
      let t := s.stamp
      let f : FaultEntry :=
        { slot := slot, ctx := (BitVec.ofNat 11 ctx).toFin, page := pg.1, big := pg.2, stamp := t.1, cause := cause,
          coreMask := 0, moveMask := 0, waiters := 1 }
      (some t.1, post (t.2.modChan ch fun c => { c with xltOpened := satAdd c.xltOpened 1, faults := c.faults ++ [mark f] })
        slot 1 false)

/-- The fault path of a group (R268): it parks at its instruction, and its core, or the whole gang, begins its
switch-out. -/
def State.faultPath (s : State) (core slot ctx : Nat) (a : Access) (cause : BitVec 4) : State :=
  let r := s.openFault core ctx a cause
  let s1 := ((r.2.countCore core 0x0B 1 ctx).tagFault core slot).modGroupAt core slot fun g =>
    { g with waiting := .faulted r.1, missed := false }
  (s1.gangCores core).foldl (fun acc k => acc.modCore k fun c => { c with saving := true }) s1

/-! ## The end of a walk -/

/-- A waiter's instruction, or the translation of its descriptor, goes on. -/
def State.walkRetry (s : State) (x : WalkWaiter) : State :=
  if x.access.move then s.moveForm x.core x.slot.val
  else (s.modGroupAt x.core x.slot.val fun g => if g.waiting = .walk then { g with waiting := .no } else g).noteReady x.core x.slot.val

/-- The translation has come: install it in the waiter's cluster, for the page that the entry was read for, and let its instruction go on. -/
def State.walkGives (s : State) (ctx : Fin 2048) (pg : Nat × Bool) (e : Nat) (x : WalkWaiter) : State :=
  let t : TlbEntry :=
    { valid := true, ctx := ctx, page := pg.1, big := pg.2, pfn := BitVec.ofNat 32 (ptePfn e), w := pteW e, x := pteX e }
  (s.modCluster (clusterOfCore x.core) fun c => c.tlbFill t).walkRetry x

/-- The translation fails for a waiter: a PREF is dropped, anything else takes the fault path (R260 to R262). -/
def State.walkFails (s : State) (w : Walk) (cause : BitVec 4) (x : WalkWaiter) : State :=
  if x.access.pref then
    ((s.tagDone x.core x.slot.val).modGroupAt x.core x.slot.val fun g =>
      ({ g with waiting := .no, missed := false }).advance).noteReady x.core x.slot.val
  else
    let s1 := if x.access.move then
        s.modCluster (clusterOfCore x.core) fun c =>
          { c with forming := c.forming.filter fun d => !(decide (d.core = x.core) && decide (d.slot = x.slot)) }
      else s
    s1.faultPath x.core x.slot.val w.key.context.val x.access cause

/-- Walks that wait for one of the 32 places. -/
def Channel.waitingWalks (c : Channel) : List Walk := c.walks.filter fun w => !w.inFlight

/-- TLB_WALK_START: a place is free, and the first waiting walk of the chosen class starts (R259). -/
def execTlbWalkStart (ch : Fin 32) (s : State) : Out :=
  let c := s.chan ch.val
  enabled (s.up ch.val && decide (c.waitingWalks ≠ []) && decide (c.inFlight < 32)) "no walk waits, or no place is free" <|
    let p := s.pickClass (c.waitingWalks.map fun w => w.cls)
    match c.waitingWalks.find? fun w => decide (w.cls = p.1) with
    | none => .next p.2
    | some w =>
      .next (p.2.modChan ch.val fun c =>
        { c with walks := c.walks.map fun x => if x.key = w.key then { x with inFlight := true } else x })

/-- WALK_COMPLETE: the entry of a walk in flight is read and checked, for each waiter with its own access (R256 to R260). The page is that
of the segment as it is now; a waiter whose address it does not hold translates anew. -/
def execWalkComplete (ch : Fin 32) (k : WalkKey) (s : State) : Out :=
  match (s.chan ch.val).walks.find? fun w => decide (w.key = k) && w.inFlight with
  | none => enabled false "no such walk is in flight" (.next s)
  | some w =>
    enabled (s.up ch.val) "the channel is down" <|
      let s1 := ((s.countChan ch.val 0x07 1 w.cls.val).histogram ch.val 3 w.cls.val).modChan ch.val fun c =>
        { c with xltWalks := satAdd c.xltWalks 1, walks := c.walks.filter fun x => !decide (x.key = k) }
      let va := k.page * pageSize k.big
      let pg := (s1.ctx k.context.val).pageOf va
      let r := s1.walk k.context.val va
      .next (w.waiters.foldl (fun acc x =>
        if x.access.va.toNat / pageSize pg.2 ≠ pg.1 then acc.walkRetry x
        else
          match (r.1.2.orElse fun _ => accessCause r.1.1 x.access) with
          | some cause => acc.walkFails w cause x
          | none => acc.walkGives k.context pg r.1.1 x) r.2)

/-- FAULT_RECORD_POST: the earliest record held for a function is written while its fault area has room (R267, R323). -/
def execFaultRecordPost (fn : Fin 257) (s : State) : Out :=
  let f := s.fnOf fn.val
  enabled (decide (f.fault.held ≠ []) && f.fault.open f.busMaster) "no record is held, or the area has no room" <|
    .next (s.drainFaults fn.val 1)

/-! ## RESOLVE (R269, R270) -/

/-- A page that contains an address. -/
def inPage (page : Nat) (big : Bool) (va : Nat) : Bool := decide (va / pageSize big = page)

/-- What RESOLVE does on one channel: TLB entries of the page go, and the open entries of the page close. -/
def State.resolveOn (s : State) (ch ctx va : Nat) : State :=
  let s1 : State :=
    { s with clusters := tmapIf Cluster.idle s.clusters (fun k => decide (k / 128 = ch)) (fun c =>
        c.tlbDrop ctx (fun e => inPage e.page e.big va)) }
  s1.modChan ch fun c =>
    { c with faults := c.faults.filter fun f => !(decide (f.ctx.val = ctx) && inPage f.page f.big va) }

/-- A saved block waits on no entry that is open, nor for a place in a full table (R56, R266, R270). -/
def State.eligible (s : State) (b : SavedBlock) : Bool :=
  let c := s.chan (channelOfCore b.core)
  b.faults.all fun f => match f with
    | some t => !(c.faults.any fun e => decide (e.stamp = t))
    | none => decide (c.faults.length < 512)

end Sys2Proof.Machine
end

