-- ==== Sys2Proof/Machine/Scheduling.lean ====
section
/-! DEFINITION. The dispatcher and the scheduling of a core (R30 to R43, R51, R54 to R62, R72, R111, R113, R205, R311,
R335 to R337): placement, the active and pending sets, saving and restoring, spare cores. -/

namespace Sys2Proof.Machine

/-! ## Active and pending (R39 to R42) -/

/-- The live groups of a core in its active or its pending set. -/
def Core.groupsIn (c : Core) (active : Bool) : List (Nat × Group) :=
  c.groups.filter fun g => g.2.live && decide (g.2.active = active)

/-- The pending groups of a core that are ready. -/
def State.pendingReady (s : State) (core : Nat) : List (Nat × Group) :=
  ((s.core core).groupsIn false).filter fun g => s.readyAt core g.1

/-- No active slot is free. -/
def Core.activeFull (c : Core) : Bool := decide (4 ≤ (c.groupsIn true).length)

/-- Handshakes of a core in which nothing issues pass, at least until its count reaches a value; the rotation counter counts them too (R42). -/
def Core.idleUntil (c : Core) (target : DWord) : Core :=
  let n := if c.hs.toNat < target.toNat then target.toNat - c.hs.toNat else 0
  { c with hs := satAdd c.hs n, rotation := c.rotation + n }

/-- DEMOTE_WAIT and WAITHINT_BACKOFF in force at a core; 0 acts as 1 (R40, R43, R51). -/
def Core.demoteSlots (c : Core) : Nat := Nat.max 1 c.demoteWait.toNat
def Core.backoffSlots (c : Core) : Nat := Nat.max 1 c.backoff.toNat

/-- Move a group to the pending set. A group that is ready becomes ready, for the order of R41, as it enters the pending set
(notes/assumptions/74.md). -/
def State.demote (s : State) (core slot : Nat) : State :=
  let g := s.groupAt core slot
  ((s.countCore core 0x0A 1 ((s.core core).block g.block.val).ctx.val).modGroupAt core slot fun g =>
    { g with active := false, readySince := none }).noteReady core slot

/-- GROUP_DEMOTE (R40): an active group that has been waiting for DEMOTE_WAIT issue slots makes room for a ready pending one. The slots that
are missing pass without an issue. -/
def execGroupDemote (g : GRef) (s : State) : Out :=
  let k := coreId g.core
  let c := s.core k
  let x := s.group g
  enabled (x.active && decide (s.standing k g.slot.val = .waiting) && decide (s.pendingReady k ≠ []) && c.activeFull)
      "the group does not wait, no pending group is ready, or an active slot is free" <|
    .next ((s.modCore k fun c => c.idleUntil (satAdd x.quietSince c.demoteSlots)).demote k g.slot.val)

/-- The entry of a list with the least key, the earliest of equals. -/
def leastBy (key : Nat × Group → Nat) : List (Nat × Group) → Option (Nat × Group)
  | [] => none
  | x :: t =>
    match leastBy key t with
    | none => some x
    | some y => if key y < key x then some y else some x

/-- GROUP_PROMOTE (R41): the pending group that became ready earliest takes a free active slot, the lower slot of equals. -/
def execGroupPromote (c : CoreRef) (s : State) : Out :=
  let k := coreId c
  match leastBy (fun g => g.2.readySince.getD 0) (s.pendingReady k) with
  | none => enabled false "no pending group is ready" (.next s)
  | some g =>
    enabled (!(s.core k).activeFull) "no active slot is free" <|
      let f := s.stamp
      .next (f.2.modGroupAt k g.1 fun x => { x with active := true, activeSince := f.1, readySince := none, quietSince := (s.core k).hs })

/-- What a core does at its rotation check besides the rotation (R42, R43): the handshakes still missing pass, the counter restarts, and the channel's
scheduling values come into force. -/
def Core.atRotation (c : Core) (ch : Channel) : Core :=
  { c with
    hs := satAdd c.hs (c.rotationQuantum - c.rotation), rotation := 0
    demoteWait := ch.demoteWait, backoff := ch.waithintBackoff, quantum := ch.rotateQuantum }

/-- ROTATION_CHECK (R42, R43): the rotation counter restarts; the active group promoted longest ago is demoted when a
pending group is ready and no active slot is free. -/
def execRotationCheck (c : CoreRef) (s : State) : Out :=
  let k := coreId c
  let s1 := s.modCore k fun x => x.atRotation (s.chan (channelOfCore k))
  let co := s1.core k
  if s1.pendingReady k ≠ [] && co.activeFull then
    match leastBy (fun g => g.2.activeSince) (co.groupsIn true) with
    | some g => .next (s1.demote k g.1)
    | none => .next s1
  else .next s1

/-- WAITHINT_BACKOFF (R51): after the backoff the topmost yielded entry resumes. -/
def execWaithintBackoff (g : GRef) (s : State) : Out :=
  let k := coreId g.core
  let x := s.group g
  enabled (x.live && decide (x.waiting = .backoff)) "the group is not in a backoff" <|
    match x.stack.find? fun e => e.kind.isYielded with
    | none => enabled false "no entry has yielded" (.next s)
    | some e =>
      .next ((s.modCore k fun c => c.idleUntil (satAdd x.quietSince c.backoffSlots)).setGroup g
        ({ x with pc := e.addr, mask := e.mask, stack := dropFirst (fun y => y.kind.isYielded) x.stack, waiting := .no }).settle)

/-! ## Placement (R30 to R37, R72, R113, R311, R335, R337) -/

def Launch.regUnits (l : Launch) : Nat := l.groups * l.regs / 16
def Launch.lmUnits (l : Launch) : Nat := (l.lm + 255) / 256
/-- The register units of one group of a block (R37). -/
def Block.groupUnits (b : Block) : Nat := b.regs / 16
def Block.lmUnits (b : Block) : Nat := b.lmSize / 256

/-- Blocks of a launch that an empty core admits (R37). -/
def Launch.blocksPerCore (l : Launch) : Nat :=
  let b := Nat.min (Nat.min 4 (16 / l.groups)) (16 / l.regUnits)
  let b := if l.lmUnits = 0 then b else Nat.min b (64 / l.lmUnits)
  if l.quern then Nat.min b 1 else b

/-- What blocks hold of a core: group slots, register units, local-memory units (R32). -/
structure Held where
  slots : Nat
  regs : Nat
  lm : Nat
  deriving DecidableEq, Repr

/-- What a block holds while `n` of its groups have not ended: an ended group's slot and register units are free (R45). -/
def Block.holds (b : Block) (n : Nat) : Held := ⟨n, n * b.groupUnits, b.lmUnits⟩

/-- What the resident blocks of a core hold. -/
def Core.heldBy (c : Core) : List Held := c.liveBlocks.map fun b => b.2.holds (c.groupsOf b.1).length

/-- What a saved block needs as it is restored (R56). -/
def SavedBlock.holds (b : SavedBlock) : Held := b.block.holds b.groups.length

/-- A block of this shape fits beside the blocks that a core holds and those it will restore (R32, R56, R110). -/
def Core.fits (c : Core) (saved : List SavedBlock) (x : Held) (quern : Bool) : Bool :=
  let bs := c.heldBy ++ saved.map SavedBlock.holds
  let sum (f : Held → Nat) : Nat := bs.foldl (fun n b => n + f b) 0
  decide (bs.length < 4) && decide (sum Held.slots + x.slots ≤ 16) && decide (sum Held.regs + x.regs ≤ 16)
    && decide (sum Held.lm + x.lm ≤ 64)
    && (!quern || (!(c.liveBlocks.any fun b => b.2.quern) && !(saved.any fun b => b.block.quern) && decide (c.quern.block = none)
      && decide (c.quern.queue = [])))

/-- The cluster of a core is reserved for a gang of which a block is still on it (R113). -/
def State.gangHeld (s : State) (core : Nat) : Bool := (clusterCores core).any fun k => (s.gangOf k).isSome

/-- The saved blocks of every context with their context and place. -/
def State.savedBlocks (s : State) : List (Nat × SavedBlock) := s.ctxs.flatMap fun c => c.2.saved.map fun b => (c.1, b)

/-- The eligible saved blocks that a core will restore. -/
def State.savedFor (s : State) (core : Nat) : List (Nat × SavedBlock) :=
  s.savedBlocks.filter fun b => decide (b.2.core = core) && s.eligible b.2

/-- The core is allotted to a context for an effective class (R335): its own reserved cores for C0, the pool for the
others. -/
def State.allotted (s : State) (ctx : Nat) (eff : Fin 4) (core : Nat) : Bool :=
  if eff = 0 then decide (core ∈ (s.ctx ctx).reserved)
  else !(s.ctxs.any fun c => decide (core ∈ c.2.reserved))

/-- The context is resident on a channel (R330): active, and its reservation there is complete. -/
def State.residentOn (s : State) (ctx ch : Nat) : Bool :=
  let c := s.ctx ctx
  decide (c.state = .active) && c.chset.getLsbD ch && s.up ch && (decide (c.reserve = 0) || c.complete.getLsbD ch)

/-- The cores that hold blocks of a context, saved ones included, across the device (R331). -/
def State.coresHeld (s : State) (ctx : Nat) : List Nat :=
  ((s.cores.filter fun c => decide ((c.2.context.map Fin.val) = some ctx)).map Prod.fst
    ++ (s.ctx ctx).saved.map fun b => b.core).eraseDups

/-- The context may come to hold a core (R331). -/
def State.underCeiling (s : State) (ctx core : Nat) : Bool :=
  let held := s.coresHeld ctx
  decide (core ∈ held) || decide (held.length < (s.ctx ctx).ceiling)

/-- A core qualifies for a block of a launch (R35, R56). -/
def State.qualifies (s : State) (l : Launch) (core : Nat) : Bool :=
  let c := s.core core
  let saved := s.savedFor core
  s.allotted l.ctx.val l.eff core && s.available core && !s.drains core && !c.saving
    && (match c.context with | none => true | some x => decide (x = l.ctx))
    && !(saved.any fun b => decide (b.1 ≠ l.ctx.val)) && s.underCeiling l.ctx.val core && !s.gangHeld core
    && c.fits (saved.map Prod.snd) ⟨l.groups, l.regUnits, l.lmUnits⟩ l.quern

/-- Free group slots of a core. -/
def Core.freeSlots (c : Core) : Nat := 16 - (c.groups.filter fun g => g.2.live).length

/-- The core with the most free group slots, the lowest identifier of equals (R35). -/
def State.chooseCore (s : State) (l : Launch) (ch : Nat) : Option Nat :=
  (((List.range 32768).map fun i => 32768 * ch + i).filter fun k => s.qualifies l k).foldl (fun best k =>
    match best with
    | none => some k
    | some b => if (s.core b).freeSlots < (s.core k).freeSlots then some k else some b) none

/-- The cluster whose 256 presented cores all qualify for a gang and hold nothing, and with which the context stays within its CEILING (R113,
R331). -/
def State.chooseGang (s : State) (l : Launch) (ch : Nat) : Option Nat :=
  let held := s.coresHeld l.ctx.val
  (List.range 128).find? fun i =>
    let cs := (List.range 256).map fun j => 32768 * ch + 256 * i + j
    decide (held.length + (cs.filter fun k => !decide (k ∈ held)).length ≤ (s.ctx l.ctx.val).ceiling)
      && cs.all fun k => s.qualifies l k && (s.core k).liveBlocks.isEmpty

/-- A launch has unplaced blocks on a channel. -/
def Launch.unplaced (l : Launch) (ch : Nat) : Bool :=
  let n := tget (0, 0) l.next ch
  l.live && !l.ended && !l.aborted && decide (n.1 < n.2)

/-- A launch that its stream offers on a channel (R36, R311): no earlier launch of the stream has blocks to place there, and
no earlier co-resident launch of the context has. -/
def State.offered (s : State) (id ch : Nat) : Bool :=
  let l := s.launchOf id
  l.unplaced ch && s.residentOn l.ctx.val ch
    && !(s.launches.any fun x => decide (x.2.ctx = l.ctx) && x.2.unplaced ch && decide (x.2.stamp < l.stamp)
      && (decide (x.2.stream = l.stream) || x.2.cores))

/-- The launch has a core, or a gang's cluster, to go to. -/
def State.hasPlace (s : State) (id ch : Nat) : Bool :=
  let l := s.launchOf id
  if l.gang then (s.chooseGang l ch).isSome else (s.chooseCore l ch).isSome

/-- Place of a stream in the round-robin that starts after the stream that placed last. -/
def rrPlace (last stream : Fin 16) : Nat := (stream.val + 15 - last.val) % 16

/-- The dispatcher's choice within a context (R311): the lowest effective class, then the round-robin. -/
def State.chosen (s : State) (id ch : Nat) : Bool :=
  let l := s.launchOf id
  let last := tget (15 : Fin 16) (s.ctx l.ctx.val).lastPlaced ch
  s.offered id ch && s.hasPlace id ch
    && !(s.launches.any fun x => decide (x.1 ≠ id) && decide (x.2.ctx = l.ctx) && s.offered x.1 ch && s.hasPlace x.1 ch
      && (decide (x.2.eff < l.eff) || (decide (x.2.eff = l.eff) && decide (rrPlace last x.2.stream < rrPlace last l.stream))))

/-- A context's virtual time on a channel as a fraction. -/
def Context.vt (c : Context) (ch : Nat) : Nat × Nat :=
  let v := tget (0, 1) c.vtime ch
  (v.1, Nat.max 1 v.2)
def fracLt (a b : Nat × Nat) : Bool := decide (a.1 * b.2 < b.1 * a.2)

/-- No other context comes before for a pool core that holds none (R337). -/
def State.poolTurn (s : State) (l : Launch) (core ch : Nat) : Bool :=
  decide (l.eff = 0) || decide ((s.core core).context ≠ none)
    || !(s.launches.any fun x =>
      decide (x.2.ctx ≠ l.ctx) && decide (x.2.eff ≠ 0) && s.offered x.1 ch && s.qualifies x.2 core
        && (fracLt ((s.ctx x.2.ctx.val).vt ch) ((s.ctx l.ctx.val).vt ch)
          || (!fracLt ((s.ctx l.ctx.val).vt ch) ((s.ctx x.2.ctx.val).vt ch) && decide (x.2.ctx < l.ctx))))

/-- The weight of an effective class (R338); 0 acts as 1. -/
def State.classWeight (s : State) (c : Fin 4) : Nat := Nat.max 1 (s.hub.dict.weights.getD (c.val - 1) 1).toNat

/-- Virtual time advances by 1 ÷ (class weight × WEIGHT) for a block placed in the pool (R337). -/
def State.advanceVt (s : State) (l : Launch) (ch : Nat) : State :=
  if l.eff = 0 then s
  else
    s.modCtx l.ctx.val fun c =>
      let d := s.classWeight l.eff * Nat.max 1 c.weight.toNat
      let v := c.vt ch
      let n := v.1 * d + v.2
      let g := Nat.gcd n (v.2 * d)
      { c with vtime := tset (0, 1) c.vtime ch (n / g, v.2 * d / g) }

/-- The scalar registers at admission (R72). -/
def Launch.scalars (l : Launch) (index group : Nat) : List Word :=
  [BitVec.ofNat 32 index, BitVec.ofNat 32 l.grid, BitVec.ofNat 32 group, BitVec.ofNat 32 l.groups, loWord l.argptr,
    hiWord l.argptr, BitVec.ofNat 32 (l.lmUnits * 256), BitVec.ofNat 32 (popcount l.chset)] ++ (l.args.take 8)

/-- A group at admission (R33, R34, R72). -/
def Launch.newGroup (l : Launch) (core blk slot index group : Nat) : Group :=
  let g : Group :=
    { Group.absent with
      live := true, block := (BitVec.ofNat 2 blk).toFin, index := group, ident := groupIdent core slot, pc := l.program,
      mask := 0xFFFF, p := [(0, 0xFFFF)] }
  (l.scalars index group).zipIdx.foldl (fun g x => g.setS x.2 ⟨x.1, false⟩) g

/-- A block at admission (R32, R33, R136, R145). -/
def State.newBlock (s : State) (id : Nat) (l : Launch) (index : Nat) : Block :=
  let c := s.ctx l.ctx.val
  { Block.absent with
    live := true, ctx := l.ctx, launch := id, index := index, groups := l.groups, regs := l.regs, lmSize := l.lmUnits * 256,
    quern := l.quern, gang := l.gang, eff := l.eff, flush := c.flush, satNaR := c.satNaR, plane := c.plane, monA := l.monA,
    monB := l.monB, monCvt := l.monCvt }

/-- The lowest free slots. -/
def Core.slotsFree (c : Core) : List Nat := (List.range 16).filter fun i => !(c.group i).live
def Core.blockFree (c : Core) : Nat := ((List.range 4).find? fun i => !(c.block i).live).getD 0

/-- Admit a block whole (R32, R33). -/
def State.admitBlock (s : State) (id core index : Nat) : State :=
  let l := s.launchOf id
  let c := s.core core
  let blk := c.blockFree
  let slots := c.slotsFree.take l.groups
  let s1 := s.modCore core fun c =>
    let c1 := c.setBlock blk (s.newBlock id l index)
    let c2 := if l.quern then { c1 with quern := { Quern.idle with block := some (BitVec.ofNat 2 blk).toFin } } else c1
    slots.zipIdx.foldl (fun c x => c.setGroup x.1 (l.newGroup core blk x.1 index x.2)) c2
  let s2 := s1.noteReadies core slots
  s2.modLaunch id fun l => { l with liveBlocks := l.liveBlocks + 1 }

/-- The launch's next block on a channel has been placed. -/
def State.placed (s : State) (id ch n : Nat) : State :=
  let l := s.launchOf id
  let s1 := (List.range n).foldl (fun acc _ => acc.advanceVt l ch) s
  (s1.modLaunch id fun l =>
    let x := tget (0, 0) l.next ch
    { l with next := tset (0, 0) l.next ch (x.1 + n, x.2) }).modCtx l.ctx.val fun c =>
      { c with lastPlaced := tset (15 : Fin 16) c.lastPlaced ch l.stream }

/-- BLOCK_PLACE: the dispatcher of a channel places the next block of a launch, or its next gang whole (R35, R113). -/
def execBlockPlace (ch : Fin 32) (launch : Nat) (s : State) : Out :=
  let l := s.launchOf launch
  enabled (s.up ch.val && s.chosen launch ch.val) "the dispatcher does not choose this launch" <|
    let index := (tget (0, 0) l.next ch.val).1
    if l.gang then
      match s.chooseGang l ch.val with
      | none => enabled false "no cluster qualifies" (.next s)
      | some i =>
        let first := 32768 * ch.val + 256 * i
        enabled (s.poolTurn l first ch.val) "another context takes the cores" <|
          .next (((List.range 256).foldl (fun acc j => acc.admitBlock launch (first + j) (index + j)) s).placed launch ch.val 256)
    else
      match s.chooseCore l ch.val with
      | none => enabled false "no core qualifies" (.next s)
      | some k =>
        enabled (s.poolTurn l k ch.val) "another context takes the core" <|
          .next ((s.admitBlock launch k index).placed launch ch.val 1)

/-! ## Saving (R54, R111, R122, R205) -/

/-- Nothing of the core is outstanding: loads and atomics have returned, the store buffer is empty, the Quern's queue is
empty (R54 steps 2 and 3, R111). -/
def Core.drained (c : Core) : Bool := decide (c.loads = []) && decide (c.stores = []) && decide (c.quern.queue = [])

/-- What waits of a group outside its core is settled for a save (R205): a wait queued at an object is withdrawn, a
satisfied wait's wake is not needed any more, a refused wait stops its group. -/
def State.settleWait (s : State) (core slot : Nat) : State :=
  let g := s.groupAt core slot
  let back (s : State) : State := s.modGroupAt core slot fun g => { g with pc := g.pc - 8, waiting := .no }
  match g.waiting with
  | .sync n =>
    back (s.modObj n fun o => { o with waits := o.waits.filter fun w => !(decide (w.core = core) && decide (w.slot.val = slot)) })
  | .signal => (back s).modGroupAt core slot fun g => { g with latch := true }
  | .wake =>
    -- a WAITSIG that ends clears the latch (R192)
    let signalled := (s.chan (channelOfCore core)).wakes.any fun w =>
      w.signal && decide (w.core = core) && w.slots.any fun i => decide (i.val = slot)
    s.modGroupAt core slot fun g => ({ g with latch := g.latch && !signalled }).wake
  | .withdrawn x => s.raise core slot x
  | .walk => s.modGroupAt core slot fun g => { g with waiting := .no }
  | _ => s

/-- A group as it is saved: parked entries are runnable once (R55), a group that met a translation fault will
execute its instruction again. -/
def Group.forSave (g : Group) : Group :=
  let st := g.stack.map fun e => match e.kind with
    | .parked lines _ reg => { e with kind := .parked lines true reg }
    | _ => e
  { g with
    stack := st, active := false, readySince := none, missed := false
    waiting := match g.waiting with
      | .faulted _ | .parked | .backoff => .no
      | w => w }

/-- The fault entry that a group waits for. -/
def faultOf (g : Group) : List (Option Nat) :=
  match g.waiting with
  | .faulted e => [e]
  | _ => []

/-- Write the state of each block of a core to its context's save area, post its monitor counts, and release the core. The state is kept in
`Context.saved`; the bytes of the save area, whose layout the spec does not give, are left as they are (notes/assumptions/75.md). -/
def State.saveCore (s : State) (core : Nat) : State :=
  let slots := ((s.core core).groups.filter fun g => g.2.live).map Prod.fst
  let s0 := slots.foldl (fun acc i => acc.settleWait core i) s
  let s1 := s0.dropWaits core
  let c := s1.core core
  let one (b : Nat × Block) : SavedBlock :=
    let gs := c.groupsOf b.1
    { core := core
      block := { b.2 with countsA := .zero, countsB := .zero, countsCvt := .zero }
      groups := gs.map fun g => ((BitVec.ofNat 4 g.1).toFin, g.2.forSave)
      quern := if c.quern.block = some (BitVec.ofNat 2 b.1).toFin then some c.quern else none
      faults := gs.flatMap fun g => faultOf g.2 }
  let bs := c.liveBlocks
  let s2 := bs.foldl (fun acc b =>
    (acc.postMonitors core b.2 .ends).modCtx b.2.ctx.val fun x => { x with saved := x.saved ++ [one b] }) s1
  (s2.modCore core fun c => { c with groups := [], blocks := [], quern := .idle, saving := false }).rebuild (channelOfCore core)

/-- CORE_SAVE: a core, or its whole gang, saves its blocks once everything outstanding has ended (R54, R122); `found` gives what the checks find as the
state of each core is read: corrected errors count, an uncorrectable one discards the blocks (R28, R61). -/
def execCoreSave (c : CoreRef) (found : List (Fin 256 × Ecc)) (s : State) : Out :=
  let k := coreId c
  let ks := s.gangCores k
  let at_ (e : Fin 256 × Ecc) : Nat := k / 256 * 256 + e.1.val
  let here := found.filter fun e => decide (at_ e ∈ ks)
  let s1 := here.foldl (fun acc e => match e.2 with | .corrected n => acc.correctedError (at_ e) n | _ => acc) s
  enabled (decide ((s.core k).liveBlocks ≠ []) && ks.any (fun x => s.mustSave x) && ks.all fun x => (s.core x).drained)
      "no save is due, or accesses are outstanding" <|
    match here.find? fun e => match e.2 with | .double _ => true | _ => false with
    | some e => .next (s1.coreDataError (at_ e) none)
    | none => .next (ks.foldl (fun acc x => acc.saveCore x) s1)

/-! ## The map of presented cores (R57) -/

/-- The spares of a cluster: physical cores 256 to 263 where none has failed or been used (R57). -/
def Cluster.sparesLeft (c : Cluster) : List (Fin 264) :=
  match c.spares with
  | some l => l
  | none => (List.finRange 264).filter fun i => decide (256 ≤ i.val)

/-- The physical core of a presented core. -/
def Cluster.physical (c : Cluster) (k : Fin 256) : Option (Fin 264) :=
  match c.coreMap.find? fun e => decide (e.1 = k.val) with
  | some e => e.2
  | none => some ⟨k.val, by omega⟩

/-- Map a presented core to a physical core, or to none. A core in its place of R57 is not listed. -/
def Cluster.mapCore (c : Cluster) (k : Fin 256) (p : Option (Fin 264)) : Cluster :=
  { c with coreMap := if p = some ⟨k.val, by omega⟩ then tdel c.coreMap k.val else tput c.coreMap k.val p }

/-! ## Restoring (R55, R56, R205) -/

/-- The instruction at a virtual address, read through the context's tables; none where it cannot be read. -/
def State.instrAt (s : State) (ctx : Nat) (pc : DWord) : Option DWord :=
  let r := s.walk ctx pc.toNat
  match r.1.2 with
  | some _ => none
  | none =>
    let n := pageSize ((s.ctx ctx).pageOf pc.toNat).2
    let x := s.readPhys (ptePfn r.1.1 * 2 ^ 25 + pc.toNat % n) 8
    some (BitVec.ofNat 64 (leNat x.1.1))

/-- The word is a WAITSIG. -/
def isWaitsig (w : DWord) : Bool := decide (fClass w = 10) && decide (fOp w = 9)

/-- The core takes no block of its own accord: it drains, and no spare has taken its place yet (R58, R60). -/
def State.drainsFor (s : State) (core : Nat) (b : SavedBlock) : Bool :=
  ((s.core core).draining && !(decide ((s.core core).swap = .mapped) && decide (b.core = core)))
    || (s.cluster (clusterOfCore core)).resetPending

/-- The core may restore a saved block: its own core, or with that one unavailable, or without a spare, any core of its cluster; a block of a gang
stays on its own core (R56, R58, R122). -/
def State.mayRestore (s : State) (core : Nat) (b : SavedBlock) : Bool :=
  let c := s.core core
  let own := decide (b.core = core)
  let moved := decide (clusterOfCore b.core = clusterOfCore core) && !b.block.gang
    && ((s.core b.core).unavailable || decide ((s.core b.core).swap = .spareless))
  let ctx := b.block.ctx.val
  (own || moved) && s.eligible b && s.available core && decide (c.swap ≠ .spareless) && !s.drainsFor core b && !c.saving
    && (match c.context with | none => true | some x => decide (x.val = ctx))
    && c.fits [] b.holds b.block.quern
    && s.up (channelOfCore core) && decide ((s.ctx ctx).state = .active)

/-- A presented core becomes unavailable: its bit of CORE_AVAIL falls, and the owner is told (R58, R62). -/
def State.loseCore (s : State) (k : Nat) : State :=
  (((s.modCore k fun c => { c with unavailable := true, draining := false, swap := .none }).modCluster (clusterOfCore k) fun x =>
    x.mapCore ⟨k % 256, Nat.mod_lt _ (by decide)⟩ none).ownerEvent 5 (BitVec.ofNat 8 (channelOfCore k)) 0
    (BitVec.ofNat 64 k)).rebuild (channelOfCore k)

/-- A swap of a core ends when no block waits for its restore (R58 steps 6 and 7): with a spare draining is cleared, without one the
core is unavailable. -/
def State.settleSwap (s : State) (core : Nat) : State :=
  let left := s.savedFor core
  match (s.core core).swap with
  | .none => s
  | .mapped =>
    if left ≠ [] then s
    else (s.modCore core fun c => { c with draining := false, swap := .none }).rebuild (channelOfCore core)
  | .spareless => if left.any fun b => !b.2.block.gang then s else s.loseCore core

/-- Remove a saved block. -/
def State.unsave (s : State) (b : SavedBlock) : State :=
  (s.modCtx b.block.ctx.val fun c => { c with saved := c.saved.erase b }).settleSwap b.core

/-- Restore one block into free slots: barriers follow their groups to their new slots; a WAITSIG is executed with its
latch set (R205). -/
def State.restoreBlock (s : State) (core : Nat) (b : SavedBlock) : State :=
  let s0 := s.unsave b
  let c := s0.core core
  let blk := c.blockFree
  let slots := c.slotsFree.take b.groups.length
  let moved := (b.groups.map fun g => g.1).zip slots
  let newSlot (i : Fin 16) : Fin 16 := (BitVec.ofNat 4 (((moved.find? fun p => decide (p.1 = i)).map Prod.snd).getD i.val)).toFin
  let bars := b.block.bars.map fun x => (x.1, { x.2 with arrived := x.2.arrived.map newSlot })
  let s1 := s0.modCore core fun c =>
    let c1 := c.setBlock blk { b.block with bars := bars }
    let c2 := match b.quern with
      | some q => { c1 with quern := { q with block := some (BitVec.ofNat 2 blk).toFin } }
      | none => c1
    (b.groups.zip slots).foldl (fun c x =>
      let g := x.1.2
      let latch := g.latch || (match s0.instrAt b.block.ctx.val g.pc with | some w => isWaitsig w | none => false)
      let g1 := { g with block := (BitVec.ofNat 2 blk).toFin, latch := latch }
      c.setGroup x.2 (if g1.waiting = .no then g1.settle else g1)) c2
  let s2 := s1.noteReadies core slots
  slots.foldl (fun acc i => if (acc.groupAt core i).waiting = .ending then acc.endGroup core i else acc) s2

/-- The saved blocks of the gang to which a saved block belongs (R122). -/
def State.savedGang (s : State) (b : SavedBlock) : List SavedBlock :=
  (s.savedBlocks.map Prod.snd).filter fun x =>
    x.block.gang && decide (x.block.launch = b.block.launch) && decide (x.block.index / 256 = b.block.index / 256)

/-- The 256 presented cores of a saved gang qualify for its restore: each of them may take blocks of the context, and each restores its own member
(R122). -/
def State.gangRestores (s : State) (b : SavedBlock) : Bool :=
  ((clusterCores b.core).all fun k => s.available k && !((s.core k).draining && decide ((s.core k).swap ≠ .mapped)) && !(s.core k).saving
      && (match (s.core k).context with | none => true | some x => decide (x = b.block.ctx)))
    && (s.savedGang b).all fun x => s.mayRestore x.core x

/-- CORE_RESTORE: `saved` numbers the saved blocks that the core may restore; a gang is restored whole (R56, R122). -/
def execCoreRestore (c : CoreRef) (saved : Nat) (s : State) : Out :=
  let k := coreId c
  match ((s.savedBlocks.map Prod.snd).filter fun b => s.mayRestore k b)[saved]? with
  | none => enabled false "no such block is eligible here" (.next s)
  | some b =>
    if b.block.gang then
      enabled (s.gangRestores b) "a core of the gang cannot restore" <|
        .next ((s.savedGang b).foldl (fun acc x => acc.restoreBlock x.core x) s)
    else .next (s.restoreBlock k b)

/-! ## Spare cores (R57 to R62) -/

/-- IDLE_SELF_TEST: an available core that holds no block is tested; a failure starts a swap (R58). -/
def execIdleSelfTest (c : CoreRef) (pass : Bool) (s : State) : Out :=
  let k := coreId c
  enabled (s.up (channelOfCore k) && s.available k && decide ((s.core k).liveBlocks = []) && !s.drains k
      && !(s.chan (channelOfCore k)).handoff) "the core is not idle" <|
    if pass then .next s else .next (s.drainCore k)

/-- SPARE_CORE_SWAP: an emptied, draining core goes to the lowest-numbered spare that passes its test; spares that fail
are retired; without one the presented core is unavailable once its saved blocks are restored elsewhere. Draining is cleared once they are
restored (R58, R59). -/
def execSpareCoreSwap (c : CoreRef) (spareTests : List Bool) (s : State) : Out :=
  let k := coreId c
  let cl := clusterOfCore k
  let spares := (s.cluster cl).sparesLeft
  let tested := (spares.zip spareTests)
  let failed := (tested.takeWhile fun x => !x.2).map Prod.fst
  enabled (s.up (channelOfCore k) && (s.core k).draining && decide ((s.core k).swap = .none) && decide ((s.core k).liveBlocks = []) && (s.core k).drained
      && (decide (failed.length < tested.length) || decide (spares.length ≤ tested.length))) "the core is not ready for a swap" <|
    let old := ((s.cluster cl).physical c.core).toList
    let rest := spares.drop failed.length
    let s1 := s.setHub fun h => { h with retiredCores := h.retiredCores ++ (failed ++ old).map fun p => (cl, p) }
    match rest with
    | [] =>
      let s2 := s1.modCluster cl fun x => { x with spares := some [] }
      .next ((s2.modCore k fun c => { c with swap := .spareless }).settleSwap k)
    | p :: t =>
      let s2 := s1.modCluster cl fun x => { (x.mapCore c.core (some p)) with spares := some t }
      .next ((s2.modCore k fun c => { c with swap := .mapped, corrected := [] }).settleSwap k)

end Sys2Proof.Machine
end

