-- ==== Sys2Proof/Machine/Pace.lean ====
section
/-! DEFINITION. The pace that a device can sustain, the applied pace, and the reports that devices send each other (R298, R387 to R392). -/

namespace Sys2Proof.Machine

/-- The channels that are up. -/
def State.upChans (s : State) : List Nat := (List.range 32).filter fun ch => s.up ch

/-- The lowest-numbered available channel, from which the device sends what belongs to no channel. -/
def State.firstUp (s : State) : Nat := s.upChans.headD 0

/-- p_therm: the least thermal pace of the channels that are up; PACE_TARGET where none is. -/
def State.pThermAll (s : State) : Nat :=
  s.upChans.foldl (fun m ch => Nat.min m (s.chan ch).pTherm.toNat) s.hub.inForce.paceTarget.toNat

/-- A device-wide cause of hold (R389). -/
def Hub.stopped (h : Hub) : Bool := h.pin || h.coolant || h.undervolt || decide (h.inForce.paceTarget = 0)

/-- The sustainable pace (R389). -/
def State.sustainableNow (s : State) : Nat :=
  if s.hub.stopped then 0 else Nat.min (Nat.min s.hub.inForce.paceTarget.toNat s.hub.pPower.toNat) s.pThermAll

/-- The job pace: peers never force a device below PACE_FLOOR, and a peer in hold does not count (R392). -/
def Hub.jobPaceOf (h : Hub) (own : Nat) : Nat :=
  let j := h.peers.foldl (fun j p =>
    if p.1 < 512 && h.inForce.peerMask.getLsbD p.1 && p.2.fresh && decide (p.2.pace ≠ 0) then Nat.min j p.2.pace.toNat else j) own
  Nat.max j h.inForce.paceFloor.toNat

/-- applied_pace() (R392). -/
def Hub.appliedOf (h : Hub) (own : Nat) : Nat := if own = 0 then 0 else Nat.min (h.jobPaceOf own) own

/-- A PACE_REPORT to every peer (R298): the pace and the sequence. It leaves from the lowest-numbered available channel, for the
channel of the same number (DESIGN CHOICE, notes/assumptions/80.md). -/
def State.sendPace (s : State) (pace : BitVec 16) : State :=
  if s.hub.inForce.peerMask = 0 then s
  else
    let seq : DWord := s.hub.powerOn ++ s.hub.reportCount
    let s1 := s.setHub fun h => { h with reportCount := h.reportCount + 1, reportsSent := h.reportsSent ++ [(pace, seq)] }
    ((List.finRange 512).filter fun n => s.hub.inForce.peerMask.getLsbD n.val && !decide (n = s.hub.node)).foldl (fun acc n =>
      acc.mgtSend s.firstUp n s.firstUp (.paceReport s.hub.node pace seq)) s1

/-- Recompute the paces; a changed sustainable pace is reported (R298, R392). While a channel's firmware hands over, the applied pace
stands (R414). -/
def State.repace (s : State) : State :=
  let handing := s.chans.any fun c => c.2.handoff
  let own := s.sustainableNow
  let p : BitVec 16 := BitVec.ofNat 16 own
  let s1 := s.setHub fun h =>
    { h with
      sustainable := p, applied := if handing then h.applied else BitVec.ofNat 16 (h.appliedOf own)
      jobPace := if own = 0 then 0 else BitVec.ofNat 16 (h.jobPaceOf own) }
  if p = s.hub.sustainable then s1 else s1.sendPace p

/-- A report of a peer: the one of the highest sequence is kept (R298). -/
def State.takePace (s : State) (from_ : Fin 512) (pace : BitVec 16) (seqNo : DWord) : State :=
  let old := tget PeerPace.none s.hub.peers from_.val
  if old.known && decide (seqNo ≤ old.seqNo) then s
  else (s.setHub fun h => { h with peers := tset PeerPace.none h.peers from_.val ⟨true, true, pace, seqNo⟩ }).repace

end Sys2Proof.Machine
end

