-- ==== Sys2Proof/Machine/Leat.lean ====
section
/-! DEFINITION. Leat as it is received and kept alive (R178, R179, R229, R272 to R297): flits, streams and duplicate
suppression, port states, IDENT, dead ports, lost nodes. -/

namespace Sys2Proof.Machine

/-! ## Nodes that are lost (R178, R179, R229, R296) -/

/-- Descriptors that copy from or to lost lines: such a line is lost, and copying goes on (R174, R179). -/
def Desc.loseLines (d : Desc) (p : LineAddr → Bool) : Desc :=
  d.lines.foldl (fun d x => if p x.dst || x.sources.any p then (d.spoil x.off true).dropLine x.rid else d) d

/-- Lines leave a cluster's cache with their data; fills that waited for their write-back wait no longer. -/
def Cluster.forget (c : Cluster) (p : LineAddr → Bool) : Cluster :=
  { c with
    lines := c.lines.filter fun e => !p (BitVec.ofNat 50 e.1)
    txns := c.txns.map fun t => match t.victim with
      | some v => if p v then { t with victim := none } else t
      | none => t
    queue := c.queue.map fun d => d.loseLines p }

/-- What a cluster and its cores have outstanding for lost lines completes lost (R178 steps 3 and 4, R179). -/
def State.loseCluster (s : State) (k : Nat) (p : LineAddr → Bool) : State :=
  let s1 := s.modCluster k fun c => c.forget p
  let mine := ((s1.cluster k).txns.filter fun t => p t.line).map fun t => t.line
  let s2 := mine.foldl (fun acc l => acc.clusterLost k l) s1
  let s3 := (s2.activeCores k).foldl (fun acc c =>
    let loads := (acc.core c).loads.filter fun e => p e.line && e.sent && !e.ready
    let acc := loads.foldl (fun a e => a.modLoad c e.id LoadEntry.lose) acc
    let stores := (acc.core c).stores.filter fun e => p e.line && e.issued && !e.acked
    let acc := stores.foldl (fun a e => a.loseStore c e) acc
    acc.modCore c fun co => { co with posts := co.posts.filter fun x => !p x.line }) s2
  (s3.pumpCluster k).feedEngine k

/-- The lines among `p` on which lanes of a slot are parked or, while other lines of their instruction are out, have been
answered so (R50). -/
def Core.parkedAt (c : Core) (slot : Nat) (p : LineAddr → Bool) : List ParkedLine :=
  let g := c.group slot
  let stacked := g.stack.flatMap fun e => match e.kind with
    | .parked lines woken _ => if woken then [] else lines
    | _ => []
  let answered := match g.waiting with
    | .fe _ _ ls _ woken =>
      if woken then []
      else ls ++ (c.loads.filter fun e => e.live && decide (e.slot.val = slot) && e.ready && e.results.any fun r => r.parked).map
        fun e => ⟨e.line, e.id, e.va⟩
    | _ => []
  (stacked ++ answered).filter fun x => p x.line

/-- Entries parked on lost lines are woken, through the ramp, and each line request on which they parked adds one to the lost
tally (R179, R194, R200). -/
def State.wakeLost (s : State) (p : LineAddr → Bool) : State :=
  s.cores.foldl (fun acc c =>
    let found := (List.range 16).map fun i => (i, if (c.2.group i).live then c.2.parkedAt i p else [])
    let acc := found.foldl (fun acc x =>
      x.2.foldl (fun acc y => acc.addLostStore c.1 true x.1 0 0 y.stamp y.va) acc) acc
    ((found.flatMap fun x => x.2.map fun y => y.line).eraseDups).foldl (fun acc l =>
      acc.addWake { core := c.1, slots := [], line := some l, signal := false, since := 0 }) acc) s

/-- A command whose write of a line will have no answer: it completes with a status, and a COPY counts the bytes before the
first such line (R315, R352). -/
def Cmd.loseLines (x : Cmd) (status : Byte) (p : LineAddr → Bool) : Cmd :=
  match x.lines.find? fun l => p l.1 with
  | none => x
  | some l =>
    { x with
      lines := x.lines.filter fun l => !p l.1, status := status
      result := if x.opcode = 0x03 then BitVec.ofNat 64 (Nat.min x.result.toNat l.2) else x.result }

/-- The same for every command of every stream. -/
def State.loseCommands (s : State) (status : Byte) (p : LineAddr → Bool) : State :=
  let all (t : Table Stream) : Table Stream :=
    tmapIf Stream.fresh t (fun _ => true) fun x => { x with cmds := x.cmds.map fun y => y.loseLines status p }
  { s with
    fns := tmapIf Func.reset s.fns (fun _ => true) fun f => { f with streams := all f.streams }
    ctxs := tmapIf Context.absent s.ctxs (fun _ => true) fun c => { c with streams := all c.streams } }

/-- What travels between this device's channels about lost lines has completed lost (R178, R285). -/
def Channel.loseLines (own : Fin 512) (p : LineAddr → Bool) (c : Channel) : Channel :=
  { c with txStreams := tmapIf TxStream.fresh c.txStreams (fun k => decide (k / 32 = own.val)) fun t =>
      { t with unreleased := t.unreleased.filter fun u => !p u.msg.line, waiting := t.waiting.filter fun m => !p m.line } }

/-- Every proxy drops the lost lines and what it has under way for them; their copies go, dirty or not (R229). -/
def State.loseLines (s : State) (p : LineAddr → Bool) : State :=
  let s1 : State :=
    { s with msgs := s.msgs.filter fun m => !p m.line, lines := tdrop s.lines fun k => p (BitVec.ofNat 50 k)
             chans := tmapIf Channel.ready s.chans (fun _ => true) (Channel.loseLines s.hub.node p) }
  let s2 := (s1.clusters.map Prod.fst).foldl (fun acc k => acc.loseCluster k p) s1
  (s2.loseCommands 0x0A p).wakeLost p

/-- A message of a lost node, or for it, that stands at a channel is dropped, and frees its buffer. -/
def State.dropMsgs (s : State) (ch : Nat) (p : StreamMsg → Bool) : State :=
  let gone := (s.chan ch).held.filter p ++ (s.chan ch).ports.flatMap fun x => x.2.queue.filter p
  let s1 := s.modChan ch fun c =>
    { c with
      held := c.held.filter fun x => !p x
      ports := tmapIf Port.down c.ports (fun _ => true) fun x => { x with queue := x.queue.filter fun y => !p y } }
  gone.foldl (fun acc x => acc.freeBuffer ch x) s1

/-- The records of a node's streams go, and so do the messages that wait for it. -/
def State.forgetNode (s : State) (n : Fin 512) : State :=
  (List.range 32).foldl (fun acc ch =>
    (acc.modChan ch fun c =>
      { c with
        txStreams := tdrop c.txStreams fun k => decide (k / 32 = n.val)
        rxStreams := tdrop c.rxStreams fun k => decide (k / 32 = n.val) }).dropMsgs ch fun x => !x.mgt && decide (x.dstNode = n)) s

/-- Change each of the 32 channels. -/
def State.allChans (s : State) (f : Channel → Channel) : State := (List.range 32).foldl (fun acc ch => acc.modChan ch f) s

/-- This device declares a node unreachable (R296): the sequence of R178, with R228 and R229. -/
def State.loseNode (s : State) (n : Fin 512) : State :=
  if n = s.hub.node ∨ n ∈ s.hub.unreachable then s
  else
    let s1 := (s.setHub fun h => { h with unreachable := h.unreachable ++ [n] }).ownerEvent 7 0xFF 0 (BitVec.ofNat 64 n.val)
    ((s1.forgetNode n).loseLines fun l => decide (lineNode l = n.val)).holdersGone (fun _ => true) fun a => decide (a = .node n)

/-- NODE_LOST answers a message of an unreachable node, at most once per 1 ms for each of its channels: whether that time has
passed since the last one is free (R297). -/
def State.answerLost (s : State) (ch : Nat) (n : Fin 512) (theirCh : Nat) : State :=
  if s.hub.nodeMsgs.any fun x => decide (x.dstNode = n) && decide (x.dstCh.val = theirCh) && decide (x.body = .management .nodeLost) then
    let f := s.takeFree
    if f.1.getLsbD 0 then f.2.mgtSend ch n theirCh .nodeLost else f.2
  else s.mgtSend ch n theirCh .nodeLost

/-! ## Streams at the receiver (R286, R287) -/

/-- A TXN lies in the window. -/
def RxStream.inWindow (r : RxStream) (t : BitVec 16) : Bool := decide ((t - r.base).toNat < 512)

/-- The window moves up to a message's release mark; records and responses below it go. -/
def RxStream.advance (r : RxStream) (rel : BitVec 16) : RxStream :=
  let d := (rel - r.base).toNat
  if d = 0 ∨ 32768 ≤ d then r
  else
    let r1 := { r with base := rel }
    { r1 with accepted := r.accepted.filter fun t => r1.inWindow t, responses := r.responses.filter fun x => r1.inWindow x.1 }

/-- The record that applies to a message: none when the message is of an earlier incarnation. -/
def RxStream.meet (r : RxStream) (x : StreamMsg) : Option RxStream :=
  let new : RxStream := { RxStream.fresh with known := true, base := x.rel, inc := some x.inc }
  if !r.known then some new
  else
    match r.inc with
    | none => some { r with inc := some x.inc }
    | some i => if x.inc = i then some r else if x.inc = i - 1 then none else some new

/-- A WB that answers a recall releases the recall whose TXN it names (R217, R285). -/
def State.recallAnswered (s : State) (x : StreamMsg) (m : Msg) : State :=
  if m.answersRecall then
    let ch := x.dstCh.val
    let key := streamKey x.srcNode x.srcCh.val
    let st := (s.chan ch).tx key
    let t : BitVec 16 := BitVec.ofNat 16 m.txn
    let rest := st.unreleased.filter fun u => !(decide (u.txn = t) && decide (u.msg.kind = .snpRecall) && decide (u.msg.line = m.line))
    State.pumpStream ch x.srcNode x.srcCh.val st.waiting.length (s.setTx ch key { st with unreleased := rest })
  else s

/-- A REQ, SNP or WB: performed when it is in its window and not yet accepted; a duplicate draws the recorded response; a
stale one is discarded (R286, R287). -/
def State.transaction (s : State) (x : StreamMsg) (m : Msg) : State :=
  let ch := x.dstCh.val
  let c := s.chan ch
  let key := streamKey x.srcNode x.srcCh.val
  let r := tget RxStream.fresh c.rxStreams key
  if c.awaitRestart && !r.known then s
  else
    match r.meet x with
    | none => s
    | some r0 =>
      let r1 := r0.advance x.rel
      let keep (r : RxStream) (s : State) : State := s.modChan ch fun c => { c with rxStreams := tset RxStream.fresh c.rxStreams key r }
      if !r1.inWindow x.txn then keep r1 s
      else if x.txn ∈ r1.accepted then
        let s1 := (keep r1 s).modChan ch fun c => { c with ltDuplicates := satAdd c.ltDuplicates 1 }
        (r1.responses.filter fun y => decide (y.1 = x.txn)).foldl (fun acc y =>
          acc.transmit ch (acc.header ch x.srcNode x.srcCh.val (.coherence y.2) x.txn 0 false)) s1
      else (keep { r1 with accepted := r1.accepted ++ [x.txn] } s |>.recallAnswered x m).send (s.inward x m)

/-! ## Management messages (R288, R297) -/

/-- NODE_LOST: this device declares the sender unreachable if it held it reachable, and answers NODE_REJOIN (R297). -/
def State.nodeLostFrom (s : State) (ch : Nat) (n : Fin 512) (theirCh : Nat) : State := (s.loseNode n).mgtSend ch n theirCh .nodeRejoin

/-- NODE_REJOIN: the node is reachable again, and its streams start at TXN 0 (R297). -/
def State.rejoin (s : State) (n : Fin 512) : State :=
  if n ∈ s.hub.unreachable then
    let s1 := s.setHub fun h => { h with unreachable := h.unreachable.filter fun x => !decide (x = n) }
    let start : RxStream := { RxStream.fresh with known := true }
    (s1.forgetNode n).allChans fun c =>
      if c.awaitRestart then
        { c with rxStreams := (List.range 32).foldl (fun t i => tset RxStream.fresh t (streamKey n i) start) c.rxStreams }
      else c
  else s

/-- CHANNEL_RESET, received at a channel (R228, R288): what is outstanding in the stream to that channel completes lost, the stream
restarts 1,024 TXNs on, and homes treat another node's proxies in that channel as holding nothing. -/
def State.channelWasReset (s : State) (ch : Nat) (n : Fin 512) (theirCh : Nat) : State :=
  if n ∈ s.hub.unreachable ∨ (n = s.hub.node ∧ theirCh = ch) then s
  else
    let key := streamKey n theirCh
    let st := (s.chan ch).tx key
    let away := decide (n ≠ s.hub.node)
    let ended := st.unreleased.filter fun u => u.msg.kind.isReq || decide (u.msg.kind = .wb) || !away
    let s1 := ended.foldl (fun acc u => acc.send (lostReply u.msg)) s
    let next := st.txn + 1024
    let s2 := (s1.setTx ch key { st with txn := next, unreleased := [] }).dropMsgs ch fun x =>
      x.sequenced && decide (x.srcNode = s.hub.node) && decide (x.srcCh.val = ch) && decide (x.dstNode = n) && decide (x.dstCh.val = theirCh)
    let s3 := if away then
        let mine (l : LineAddr) : Bool := decide (lineNode l = n.val) && decide (lineChan l = theirCh)
        ((s2.modChan ch fun c => { c with rxStreams := tdel c.rxStreams key }).loseCommands 0x0A mine).holdersGone
          (fun l => decide (lineChan l = theirCh)) fun a => decide (a = .node n)
      else s2
    State.pumpStream ch n theirCh st.waiting.length (s3.mgtSend ch n theirCh (.streamRestart next))

/-- STREAM_RESTART: the channel accepts the stream again, from the new base (R288). -/
def State.streamRestarted (s : State) (ch : Nat) (n : Fin 512) (theirCh : Nat) (base : BitVec 16) : State :=
  s.modChan ch fun c =>
    { c with rxStreams := tset RxStream.fresh c.rxStreams (streamKey n theirCh) { RxStream.fresh with known := true, base := base } }

/-! ## IDENT (R291 to R293) -/

/-- The entries that carry flag C, as the digest takes them (R291, R380): the coherent node table and
LINK_DEAD_TIMEOUT. -/
def Dict.digestBytes (d : Dict) : List Byte :=
  bytesLe 2 0x2003 ++ [0] ++ bytesLe 64 d.nodeTable.toNat ++ bytesLe 2 0x2004 ++ [0] ++ bytesLe 4 d.linkDead.toNat

/-- Object 0x2000: the first 16 bytes of SHA-256. -/
def Hub.digest (h : Hub) : BitVec 128 := (sha256 h.dict.digestBytes).extractLsb' 0 128

/-- The IDENT of a port: protocol 2.0 (R291). -/
def State.identOf (s : State) (ch p : Nat) : IdentRec :=
  { node := s.hub.node, channel := (BitVec.ofNat 5 ch).toFin, port := (BitVec.ofNat 3 p).toFin, serial := Config.serial, protoMinor := 0
    protoMajor := 2, firmware := (s.chan ch).fwVersion, digest := s.hub.digest, epoch := s.hub.dict.epoch, powerOn := s.hub.powerOn }

/-- Send IDENT behind what is queued for the port (R293); its far end is the far end of the link. -/
def State.sendIdent (s : State) (ch p : Nat) : State :=
  let x := s.header ch s.hub.node ch (.management (.ident (s.identOf ch p))) 0 0 false
  (s.modPort ch p fun q => { q with queue := q.queue ++ [x] }).pumpPort ch p

/-- MISMATCH of a received IDENT (R292): PROTOCOL, DIGEST, EPOCH, NODE, SERIAL from bit 0. -/
def Hub.mismatch (h : Hub) (p : Nat) (r : IdentRec) : BitVec 5 :=
  let node := if p < 2 then decide (r.node = h.node) || !h.dict.nodeTable.getLsbD r.node.val else decide (r.node ≠ h.node)
  maskOf fun i => match i with
    | 0 => decide (r.protoMajor ≠ 2)
    | 1 => decide (r.digest ≠ h.digest)
    | 2 => decide (r.epoch ≠ h.dict.epoch)
    | 3 => node
    | _ => decide (2 ≤ p) && decide (r.serial ≠ Config.serial)

/-- Messages queued for a port that takes none are routed again (R293, R294); IDENT is for this link alone. -/
def State.requeue (s : State) (ch p : Nat) : State :=
  let q := (s.port ch p).queue
  (q.filter fun m => !m.ident).foldl (fun acc m => acc.transmit ch m) (s.modPort ch p fun x => { x with queue := q.filter fun m => m.ident })

/-! ## Messages as they arrive (R289, R297) -/

/-- A management message reaches its channel, by port `p`. DIAG has no effect on state. -/
def State.takeMgt (s : State) (ch : Nat) (x : StreamMsg) (b : Mgt) : State :=
  match b with
  | .ident _ | .diag => s
  | .paceReport n pace seq => s.takePace n pace seq
  | .nodeLost => if x.srcNode = s.hub.node then s else s.nodeLostFrom ch x.srcNode x.srcCh.val
  | .nodeRejoin => s.rejoin x.srcNode
  | .channelReset => s.channelWasReset ch x.srcNode x.srcCh.val
  | .streamRestart base => s.streamRestarted ch x.srcNode x.srcCh.val base

/-- A message is at a channel: forwarded when it is for another one (R273, R289); else it leaves the port's buffer and is acted on,
discarded when its sender is unreachable (R297), kept while the channel is down. -/
def State.deliver (s : State) (ch : Nat) (x : StreamMsg) : State :=
  if x.dstNode ≠ s.hub.node ∨ x.dstCh.val ≠ ch then s.transmit ch x
  else if !s.up ch && !decide ((s.chan ch).state = 4) then s.modChan ch fun c => { c with held := c.held ++ [x] }
  else
    let s1 := s.freeBuffer ch x
    match x.body with
    | .management b => s1.takeMgt ch x b
    | .coherence m =>
      if x.srcNode ∈ s.hub.unreachable then s1.answerLost ch x.srcNode x.srcCh.val
      else if x.sequenced then s1.transaction x m
      else s1.takeResponse ch x.srcNode x.srcCh.val x.txn m (s1.inward x m)

/-- Messages that wait at a channel are routed again (R273, R289). -/
def State.rerouteHeld (s : State) (ch : Nat) : State :=
  (s.chan ch).held.foldl (fun acc x => acc.deliver ch x) (s.modChan ch fun c => { c with held := [] })

/-- A port has become COHERENT, or a channel ready: everything that waits is routed again. -/
def State.rerouteAll (s : State) : State :=
  ((s.chans.filter fun c => decide (c.2.held ≠ [])).map Prod.fst).foldl (fun acc ch => acc.rerouteHeld ch) s

/-- Compare an IDENT with this end's own and enter COHERENT or QUARANTINE. -/
def State.compareIdent (s : State) (ch p : Nat) (r : IdentRec) : State :=
  let mis := s.hub.mismatch p r
  let s1 := s.modPort ch p fun x => { x with far := some r, mismatch := mis, state := if mis = 0 then .coherent else .quarantine }
  if mis = 0 then
    ((if 2 ≤ p then s1.modChan ch fun c => { c with isolations := 0 } else s1).pumpPort ch p).rerouteAll
  else (s1.requeue ch p).rerouteAll

/-! ## Flits (R276 to R279) -/

/-- A gap opens: NAK goes with the first discard (R278). -/
def State.openGap (s : State) (ch p : Nat) : State :=
  let x := s.port ch p
  if x.gap then s else s.setPort ch p (Port.idle p { x with gap := true } true)

/-- The link fields of a flit: its ACK, its NAK, on which the flits after the ACK are sent again, and its credits (R277, R278). -/
def State.linkFields (s : State) (ch p : Nat) (f : Flit) : State :=
  let s1 := s.modPort ch p fun x => (Port.takeAck p x f.ack).takeCredits f.credits
  let s2 := if f.nak then (s1.modChan ch fun c => { c with ltReplays := satAdd c.ltReplays 1 }).modPort ch p (Port.resend p) else s1
  s2.pumpPort ch p

/-- The slots of a flit go on from those before: a message begun before goes on first, and only the last one may go on in the next
flit (R277). -/
def partsOk (begun : Nat) : List FlitPart → Bool
  | [] => decide (begun = 0)
  | [p] => decide (p.first = begun) && decide (1 ≤ p.count) && decide (p.first + p.count ≤ p.msg.slots)
  | p :: t => decide (p.first = begun) && decide (1 ≤ p.count) && decide (p.first + p.count = p.msg.slots) && partsOk 0 t

/-- The messages that a flit completes. -/
def flitCompleted (f : Flit) : List StreamMsg := (f.parts.filter fun p => decide (p.first + p.count = p.msg.slots)).map fun p => p.msg

/-- Slots that a flit leaves of a message that goes on. -/
def flitBegun (f : Flit) : Nat :=
  match f.parts.getLast? with
  | some p => if p.first + p.count = p.msg.slots then 0 else p.first + p.count
  | none => 0

/-- A message comes out of a flit at a port: IDENT is compared with this end's own, others are delivered where the port's state
carries them and are discarded where not (R290, R293). A message from another device begins in the lower half (R273). -/
def State.receiveMsg (s : State) (ch p : Nat) (m : StreamMsg) : State :=
  let x : StreamMsg :=
    { m with
      cameBy := some p, holding := true, entry := if p < 2 then some (ch, p) else m.entry, upper := m.upper && decide (2 ≤ p) }
  match m.body with
  | .management (.ident r) => (s.freeBuffer ch x).compareIdent ch p r
  | _ => if (s.port ch p).carries m then s.deliver ch x else s.freeBuffer ch x

/-- A good flit (R277, R278): an IDLE flit gives its link fields; the next sequenced one is accepted and acknowledged, and its
messages are acted on; a duplicate and what comes behind a gap are discarded. -/
def State.takeFlit (s : State) (ch p : Nat) (f : Flit) : State :=
  let x := s.port ch p
  if f.kind = .idle then s.linkFields ch p f
  else if f.seq = x.rxAck + 1 then
    let s1 := s.setPort ch p (Port.idle p { x with rxAck := f.seq, gap := false, part := flitBegun f } false)
    let s2 := (s1.linkFields ch p f).countChan ch 0x09 1 3
    (flitCompleted f).foldl (fun acc m => acc.receiveMsg ch p m) s2
  else if atOrBefore f.seq x.rxAck then s.modPort ch p fun x => Port.idle p x false
  else s.openGap ch p

/-- The flit that is next on the wire to a port: on the module the oldest that the facing port has sent, from another device the one
that its bytes spell. -/
def State.nextFlit (s : State) (ch p : Nat) (b : RxBlock) : Option Flit :=
  if p < 2 then some b.flit else (s.port (neighbour ch p) (facing p)).wire.head?

/-- The flit leaves the wire. -/
def State.offWire (s : State) (ch p : Nat) : State :=
  if p < 2 then s else s.modPort (neighbour ch p) (facing p) fun x => { x with wire := x.wire.tail }

/-- FLIT_RECEIVE (R276 to R278): a block that fails FEC or CRC is counted and discarded; the symbols corrected are counted. -/
def execFlitReceive (ch : Fin 32) (port : Fin 6) (b : RxBlock) (s : State) : Out :=
  let c := ch.val
  let p := port.val
  let x := s.port c p
  enabled x.live "the port carries no flits" <|
    match s.nextFlit c p b with
    | none => enabled false "no flit is on the wire" (.next s)
    | some f =>
      let s0 := s.offWire c p
      match received x.width.val b.bytes f with
      | .bad => .next ((s0.modChan c fun y => { y with ltBadBlocks := satAdd y.ltBadBlocks 1 }).openGap c p)
      | .other => enabled false "the bytes spell another flit" (.next s)
      | .good n =>
        let s1 := s0.modChan c fun y => { y with ltFec := satAdd y.ltFec n }
        enabled (f.kind = .idle || f.seq ≠ x.rxAck + 1 || partsOk x.part f.parts) "its slots do not go on from those before" <|
          .next (s1.takeFlit c p f)

/-- NAK_REPEAT: NAK is sent again while the gap remains (R278). -/
def execNakRepeat (ch : Fin 32) (port : Fin 6) (s : State) : Out :=
  let x := s.port ch.val port.val
  enabled (x.live && x.gap) "no gap remains" <| .next (s.setPort ch.val port.val (Port.idle port.val x true))

/-- KEEPALIVE: a port with no sequenced flit to send sends one (R279). -/
def execKeepalive (ch : Fin 32) (port : Fin 6) (s : State) : Out :=
  let p := port.val
  let x := s.port ch.val p
  let room := decide (x.replay.length < replayRoom p)
  enabled (x.live && room && decide (x.ready ch.val p = [])) "the port carries no flits or has one to send" <|
    .next ((s.setPort ch.val p (Port.emit p (s.chan ch.val).withholds x .ctrl [])).countChan ch.val 0x08 1 3)

/-- Every channel sends IDENT again on its live ports, and each port compares afresh with the far end's last one (R293). -/
def State.identAll (s : State) : State :=
  (s.chans.map Prod.fst).foldl (fun acc ch => (List.range 6).foldl (fun acc p =>
    if (acc.port ch p).live then
      let acc := acc.sendIdent ch p
      match (acc.port ch p).far with
      | some r => if (acc.port ch p).state = .ident then acc else acc.compareIdent ch p r
      | none => acc
    else acc) acc) s

/-- IDENT: received and compared (R292). -/
def execIdent (ch : Fin 32) (port : Fin 6) (r : IdentRec) (s : State) : Out :=
  enabled (s.port ch.val port.val).live "the port carries no flits" <| .next (s.compareIdent ch.val port.val r)

/-! ## Training (R290, R294) -/

/-- The port's Leat reference is qualified and the channel runs. -/
def State.mayTrain (s : State) (ch p : Nat) : Bool :=
  (s.chan ch).refOk && s.up ch && (s.chan ch).portEn.getLsbD p

/-- Enter TRAINING: SEQ 0, an empty replay buffer, no credits. -/
def Port.train (x : Port) : Port := { Port.down with state := .training, far := x.far, mismatch := x.mismatch }

/-- Messages that came to a channel by a port that has reset stand in none of its buffers any more. -/
def Channel.unhold (p : Nat) (c : Channel) : Channel :=
  let f (x : StreamMsg) : StreamMsg := if x.cameBy = some p then { x with holding := false } else x
  { c with held := c.held.map f, ports := tmapIf Port.down c.ports (fun _ => true) fun q => { q with queue := q.queue.map f } }

/-- A port in DOWN starts training when it may; what the far end has sent to it is gone. -/
def State.startTraining (s : State) (ch p : Nat) : State :=
  if s.mayTrain ch p && decide ((s.port ch p).state = .down) then
    let s1 := (s.modPort ch p Port.train).modChan ch (Channel.unhold p)
    if p < 2 then s1 else s1.modPort (neighbour ch p) (facing p) fun x => { x with wire := [] }
  else s

/-- The far end of an on-module port trains too, or has just trained; the far end of an external port is another device. -/
def State.bothTrain (s : State) (ch p : Nat) : Bool :=
  decide (p < 2) || (let x := s.port (neighbour ch p) (facing p)
    decide (x.state = .training) || decide (x.state = .ident))

/-- TRAINING_COMPLETE: the port enters IDENT with its lane count and its credits, and sends its IDENT. -/
def execTrainingComplete (ch : Fin 32) (port : Fin 6) (lanes : Fin 5) (s : State) : Out :=
  let p := port.val
  let ok := decide (lanes.val = 1) || decide (lanes.val = 2) || (decide (lanes.val = 4) && decide (p < 2))
  enabled (decide ((s.port ch.val p).state = .training) && ok && s.bothTrain ch.val p) "the two ends do not train with such lanes" <|
    .next ((s.modPort ch.val p fun x => { x with state := .ident, width := lanes, credits := grantedCredits p }).sendIdent ch.val p)

/-- TRAINING_TIMEOUT: back to DOWN. -/
def execTrainingTimeout (ch : Fin 32) (port : Fin 6) (s : State) : Out :=
  let x := s.port ch.val port.val
  enabled (decide (x.state = .training)) "the port is not in training" <|
    .next (s.setPort ch.val port.val { Port.down with far := x.far, mismatch := x.mismatch })

/-- TRAINING_RETRY: a port in DOWN with PORT_EN = 1 and a qualified reference enters TRAINING. -/
def execTrainingRetry (ch : Fin 32) (port : Fin 6) (s : State) : Out :=
  enabled (s.mayTrain ch.val port.val && decide ((s.port ch.val port.val).state = .down)) "the port may not train" <|
    .next (s.startTraining ch.val port.val)

/-- The port's nodes that have no path left, now that it has gone (R296). -/
def State.cutOff (s : State) (ch p : Nat) : List (Fin 512) :=
  (List.finRange 512).filter fun n => decide (tget 0 s.hub.dict.routes n.val ≠ 0)
    && decide ((ch, p) ∈ s.hub.dict.pairs n.val) && !s.hasPath n.val

/-- The port leaves: what its replay buffer holds is sent again with the same TXN, counted when it has a route, and what
was queued for it is routed elsewhere (R295). -/
def State.dropPort (s : State) (ch p : Nat) : State :=
  let x := s.port ch p
  let unacked := (x.replay.flatMap fun f => f.parts.map fun y => y.msg).filter fun m => !m.ident
  let s1 := (s.setPort ch p { Port.down with far := x.far, mismatch := x.mismatch }).modChan ch (Channel.unhold p)
  let s2 := unacked.foldl (fun acc m =>
    let acc := if (acc.nextPort ch m).isSome then acc.modChan ch fun c => { c with ltResent := satAdd c.ltResent 1 } else acc
    acc.transmit ch m) s1
  let waiting := (x.queue.filter fun m => !m.ident).map fun m => if m.cameBy = some p then { m with holding := false } else m
  waiting.foldl (fun acc m => acc.transmit ch m) s2

/-- DEAD: the port goes to DOWN and starts training afresh; nodes that lose their last path are unreachable (R295,
R296). -/
def State.deadPort (s : State) (ch p : Nat) : State :=
  let was := s.hub.unreachable
  let s1 := s.dropPort ch p
  let s2 := (s1.cutOff ch p).foldl (fun acc n => if n ∈ was then acc else acc.loseNode n) s1
  s2.startTraining ch p

/-- FRESH_START_PATTERN: the far end was reset; the port goes through DEAD at once (R290). -/
def execFreshStartPattern (ch : Fin 32) (port : Fin 6) (s : State) : Out :=
  let x := s.port ch.val port.val
  enabled (x.state = .coherent || x.state = .quarantine || x.state = .retrain) "the port is not established" <|
    .next (s.deadPort ch.val port.val)

/-- Enter RETRAIN: SEQ, ACK, credits and the replay buffer are kept (R294 step 1). -/
def State.retrain (s : State) (ch p : Nat) : State :=
  (s.modPort ch p fun x => { x with state := .retrain, beforeRetrain := x.state }).requeue ch p

/-- The port can retrain. -/
def Port.established (x : Port) : Bool := x.state = .coherent || x.state = .quarantine

/-- AUTO_RETRAIN_TRIGGER: with AUTO_RETRAIN = 1. -/
def execAutoRetrainTrigger (ch : Fin 32) (port : Fin 6) (s : State) : Out :=
  enabled ((s.chan ch.val).autoRetrain && (s.port ch.val port.val).established) "AUTO_RETRAIN is 0, or the port is not established" <|
    .next (s.retrain ch.val port.val)

/-- The owner writes 1 to a port's RETRAIN bit. -/
def State.askRetrain (s : State) (ch p : Nat) : State := if (s.port ch p).established then s.retrain ch p else s

/-- PORT_RETRAIN_REQUEST. -/
def execPortRetrainRequest (ch : Fin 32) (port : Fin 6) (s : State) : Out := .next (s.askRetrain ch.val port.val)

/-- RETRAIN_COMPLETE: back to the state before, and the flits after the far end's ACK are resent (R294 step 3). -/
def execRetrainComplete (ch : Fin 32) (port : Fin 6) (lanes : Fin 5) (farAck : BitVec 12) (s : State) : Out :=
  let p := port.val
  let x := s.port ch.val p
  let ok := decide (lanes.val = 1) || decide (lanes.val = 2) || (decide (lanes.val = 4) && decide (p < 2))
  enabled (decide (x.state = .retrain) && ok) "the port is not retraining with such lanes" <|
    let s1 := s.setPort ch.val p (Port.resend p { (Port.takeAck p x farAck) with state := x.beforeRetrain, width := lanes })
    .next ((s1.pumpPort ch.val p).rerouteAll)

/-- LINK_DEAD_TIMEOUT: no new ACK for that long takes the port to DEAD (R295). -/
def execLinkDeadTimeout (ch : Fin 32) (port : Fin 6) (s : State) : Out :=
  let x := s.port ch.val port.val
  enabled (x.live || x.state = .retrain) "the port is not established" <| .next (s.deadPort ch.val port.val)

/-- The owner clears a port's PORT_EN bit. -/
def State.disablePort (s : State) (ch p : Nat) : State :=
  let s1 := s.modChan ch fun c => { c with portEn := c.portEn &&& ~~~BitVec.ofNat 6 (2 ^ p) }
  if (s.port ch p).state = .down then s1 else s1.dropPort ch p

/-- The owner sets a port's PORT_EN bit. -/
def State.enablePort (s : State) (ch p : Nat) : State :=
  (s.modChan ch fun c => { c with portEn := c.portEn ||| BitVec.ofNat 6 (2 ^ p) }).startTraining ch p

/-- PORT_DISABLE. -/
def execPortDisable (ch : Fin 32) (port : Fin 6) (s : State) : Out := .next (s.disablePort ch.val port.val)

/-- PORT_ENABLE. -/
def execPortEnable (ch : Fin 32) (port : Fin 6) (s : State) : Out := .next (s.enablePort ch.val port.val)

/-! ## Nodes (R288, R296, R297) -/

/-- A request to the node is outstanding on some channel. -/
def State.awaitsNode (s : State) (n : Fin 512) : Bool :=
  s.chans.any fun c => c.2.txStreams.any fun t => decide (t.1 / 32 = n.val) && t.2.unreleased.any fun u => u.msg.kind.isReq

/-- REQUEST_SILENCE_TIMEOUT. -/
def execRequestSilenceTimeout (n : Fin 512) (s : State) : Out :=
  enabled (s.awaitsNode n && decide (n ≠ s.hub.node) && !decide (n ∈ s.hub.unreachable)) "no request to the node is outstanding" <| .next (s.loseNode n)

/-- NO_PATH_TIMEOUT. -/
def execNoPathTimeout (n : Fin 512) (s : State) : Out :=
  enabled (!s.hasPath n.val && decide (n ≠ s.hub.node) && !decide (n ∈ s.hub.unreachable)) "the node has a path or is unreachable" <|
    .next (s.loseNode n)

/-- NODE_LOST. -/
def execNodeLost (n : Fin 512) (theirCh ch : Fin 32) (s : State) : Out :=
  enabled (decide (n ≠ s.hub.node)) "the message is from this node" <| .next (s.nodeLostFrom ch.val n theirCh.val)

/-- NODE_REJOIN. -/
def execNodeRejoin (n : Fin 512) (s : State) : Out := .next (s.rejoin n)

/-- NODE_LOST_TIMER: NODE_LOST goes to an unreachable node that has a path, from the lowest-numbered available channel to the one of the
same number (R297; notes/assumptions/80.md). -/
def execNodeLostTimer (n : Fin 512) (s : State) : Out :=
  enabled (decide (n ∈ s.hub.unreachable) && s.hasPath n.val) "the node is reachable or has no path" <|
    .next (s.mgtSend s.firstUp n s.firstUp .nodeLost)

/-- CHANNEL_RESET. -/
def execChannelReset (n : Fin 512) (theirCh ch : Fin 32) (s : State) : Out := .next (s.channelWasReset ch.val n theirCh.val)

/-- STREAM_RESTART. -/
def execStreamRestart (n : Fin 512) (theirCh : Fin 32) (ch : Fin 32) (base : BitVec 16) (s : State) : Out :=
  .next (s.streamRestarted ch.val n theirCh.val base)

/-- DIAG: the spec gives the message no effect on state. -/
def execDiag (ch : Fin 32) (port : Fin 6) (s : State) : Out :=
  enabled (s.port ch.val port.val).live "the port carries no flits" <| .next s

end Sys2Proof.Machine
end

