-- ==== Sys2Proof/Machine/Commands.lean ====
section
/-! DEFINITION. Host commands in general (R302 to R315, R320, R321, R339): the record, streams and tags, when a command starts,
what it completes with, and the virtual ranges that a command names. -/

namespace Sys2Proof.Machine

/-! ## The record (R304) -/

/-- `n` bytes of a record from byte `i`, little-endian. -/
def recNat (r : BitVec 512) (i n : Nat) : Nat := r.toNat / 2 ^ (8 * i) % 2 ^ (8 * n)
def recSeq (r : BitVec 512) : Word := r.extractLsb' 0 32
def recTag (r : BitVec 512) : BitVec 9 := r.extractLsb' 32 9
def recStream (r : BitVec 512) : Fin 16 := (r.extractLsb' 41 4).toFin
def recClass (r : BitVec 512) : Fin 4 := (r.extractLsb' 45 2).toFin
def recOrder (r : BitVec 512) : Bool := r.getLsbD 47
def recOp (r : BitVec 512) : Byte := r.extractLsb' 48 8
def recCtx (r : BitVec 512) : Fin 2048 := (r.extractLsb' 64 11).toFin
/-- FN: the record names the function stream set. -/
def recFn (r : BitVec 512) : Bool := r.getLsbD 79

/-- The bytes of ARGS that a command's row of R314 or R332 names, as (first, count). The firmware opcodes are laid out in
R411, R412 and R416. -/
def namedBytes (op : Nat) : List (Nat × Nat) :=
  match op with
  | 0x01 => [(16, 8)]
  | 0x02 => [(12, 1), (16, 8), (32, 32)]
  | 0x03 => [(12, 1), (16, 20)]
  | 0x04 => [(12, 1), (16, 16)]
  | 0x05 => [(16, 16)]
  | 0x06 => [(16, 8)]
  | 0x07 => [(12, 2), (16, 8)]
  | 0x08 => [(12, 4)]
  | 0x09 => [(12, 5), (24, 8)]
  | 0x0A => [(16, 10)]
  | 0x0B => [(12, 1)]
  | 0x0C => [(12, 3), (16, 10)]
  | 0x0D => [(12, 1), (16, 4)]
  | 0x0E => [(12, 1), (16, 12)]
  | 0x0F => [(12, 2)]
  | 0x10 => [(12, 33)]
  | 0x11 => [(12, 2)]
  | 0x12 => [(12, 2)]
  | 0x13 => [(12, 6), (20, 8)]
  | 0x14 => [(12, 3), (16, 4)]
  | 0x15 => [(12, 4), (16, 16)]
  | 0x16 => [(12, 1)]
  | 0x17 => [(12, 3)]
  | 0x20 => [(12, 1), (16, 12)]
  | 0x21 => [(12, 1), (16, 4)]
  | 0x22 => [(12, 1), (16, 4)]
  | 0x23 => [(16, 8)]
  | 0x24 => [(16, 12), (32, 32)]
  | _ => []

/-- The opcode is defined (R314, R332, R411). -/
def opDefined (op : Nat) : Bool := decide (op ≤ 0x17) || (decide (0x20 ≤ op) && decide (op ≤ 0x24))
/-- It travels on a context's streams. -/
def opOnContext (op : Nat) : Bool := decide (op ≤ 0x0B) || decide (op = 0x0D) || decide (op = 0x0E) || decide (op = 0x0F)
/-- It travels on the function stream set. -/
def opOnFunction (op : Nat) : Bool :=
  decide (op = 0x00) || decide (op = 0x0C) || decide (op = 0x0E) || decide (0x10 ≤ op)
/-- Only the owner function may issue it. -/
def opOwner (op : Nat) : Bool := decide (0x14 ≤ op)

/-- Bytes that no field names are zero (R304, R314). -/
def zerosOk (r : BitVec 512) : Bool :=
  let named := namedBytes (recOp r).toNat
  decide (recNat r 7 1 = 0) && decide (recNat r 10 2 = 0) && decide (recNat r 8 2 / 2 ^ 11 % 16 = 0)
    && (List.range 52).all fun i =>
      (named.any fun p => decide (p.1 ≤ 12 + i) && decide (12 + i < p.1 + p.2)) || decide (recNat r (12 + i) 1 = 0)

/-- The ranges that the rows of R314 and R332 give their arguments, where they hang on the record alone. -/
def argsOk (r : BitVec 512) : Bool :=
  zerosOk r &&
  match (recOp r).toNat with
  | 0x01 => decide (recNat r 16 8 % 128 = 0)
  | 0x02 => decide (1 ≤ recNat r 12 1) && decide (recNat r 12 1 ≤ 32)
  | 0x03 => decide (recNat r 12 1 ≤ 1) && decide (1 ≤ recNat r 32 4) && decide (recNat r 32 4 ≤ 2 ^ 24)
  | 0x04 => decide (recNat r 12 1 ≤ 15)
  | 0x07 => decide (recNat r 12 1 ≤ 1) && decide (recNat r 16 8 < 2 ^ 62)
  | 0x09 => decide (recNat r 16 1 ≤ 4) && decide (recNat r 24 8 < 2 ^ 62)
  | 0x0A => decide (recNat r 16 8 % 64 = 0) && decide (1 ≤ recNat r 24 2)
  | 0x0B => decide (recNat r 12 1 % 128 < 8)
  | 0x0C => decide (recNat r 12 1 ≤ 1) && decide (recNat r 13 1 < 32) && decide (6 ≤ recNat r 14 1)
      && decide (recNat r 14 1 ≤ 16) && decide (recNat r 16 8 % 4096 = 0) && decide (recNat r 24 2 < 2048)
  | 0x0D => decide (recNat r 12 1 ≤ 2)
  | 0x0E => decide (recNat r 12 1 ≤ 1) && decide (recNat r 16 8 % 64 = 0) && !(recFn r && decide (recNat r 12 1 = 1))
  | 0x10 => decide (recNat r 12 4 ≠ 0) && decide (recNat r 32 8 % 4096 = 0) && decide (1 ≤ recNat r 40 4)
      && decide (recNat r 40 4 ≤ 1048576) && decide (recNat r 44 1 < 8)
  | 0x11 | 0x12 => decide (recNat r 12 2 < 2048)
  | 0x13 => decide (recNat r 12 2 < 2048) && decide (recNat r 14 1 ≤ 3) && decide (1 ≤ recNat r 15 1)
      && decide (recNat r 16 2 ≤ 8192) && decide (1 ≤ recNat r 24 4) && decide (recNat r 24 4 ≤ 2 ^ 24)
  | 0x14 => decide (1 ≤ recNat r 12 2) && decide (recNat r 12 2 ≤ 256) && decide (recNat r 14 1 ≤ 3)
      && decide (recNat r 16 2 ≤ 2048) && decide (recNat r 18 2 ≤ 8192)
  | 0x15 => decide (1 ≤ recNat r 12 2) && decide (recNat r 12 2 ≤ 256) && decide (recNat r 14 1 ≤ 15)
      && decide (recNat r 15 1 ≤ 1)
      && (decide (recNat r 15 1 = 0) || (decide (recNat r 16 8 % 2 ^ 25 = 0) && decide (recNat r 24 8 % 2 ^ 25 = 0)
        && decide (recNat r 24 8 ≠ 0) && decide (recNat r 16 8 + recNat r 24 8 ≤ 2 ^ 57)))
  | 0x16 => decide (recNat r 12 1 < 32)
  | 0x17 => decide (recNat r 12 1 < 32) && decide (recNat r 13 2 < 128)
  | 0x20 => (decide (recNat r 12 1 = 1) || decide (recNat r 12 1 = 2)) && decide (recNat r 16 8 % 64 = 0)
  | 0x21 => (decide (recNat r 12 1 = 1) && decide (recNat r 16 4 = 0)) || decide (recNat r 12 1 = 2)
  | 0x22 => decide (recNat r 12 1 = 1) || decide (recNat r 12 1 = 2)
  | 0x24 => decide (recNat r 16 8 % 64 = 0)
  | _ => true

/-! ## Status codes (R320) -/

def stSuccess : Byte := 0x00
def stInvalidArgument : Byte := 0x01
def stUnknownOpcode : Byte := 0x02
def stNotPermitted : Byte := 0x03
def stTagInUse : Byte := 0x04
def stSeqStale : Byte := 0x05
def stNoRoom : Byte := 0x06
def stNoResource : Byte := 0x07
def stTranslationFault : Byte := 0x08
def stAborted : Byte := 0x09
def stDestLost : Byte := 0x0A
def stException : Byte := 0x0B
def stCoreDataError : Byte := 0x0C
def stChannelReset : Byte := 0x0D
def stPoisoned : Byte := 0x0E
def stBusy : Byte := 0x0F

/-- What a command completes with: STATUS and RESULT. -/
abbrev Verdict := Byte × DWord
def succeeds (result : Nat) : Verdict := (stSuccess, BitVec.ofNat 64 result)
def fails (st : Byte) : Verdict := (st, 0)

/-! ## Streams (R304, R307, R309) -/

/-- The streams of a context, or the function stream set. -/
def State.streamsOf (s : State) (fn : Nat) (ctx : Option Nat) : Table Stream :=
  match ctx with
  | none => (s.fnOf fn).streams
  | some k => (s.ctx k).streams
def State.stream (s : State) (fn : Nat) (ctx : Option Nat) (i : Nat) : Stream := tget Stream.fresh (s.streamsOf fn ctx) i
def State.modStream (s : State) (fn : Nat) (ctx : Option Nat) (i : Nat) (f : Stream → Stream) : State :=
  match ctx with
  | none => s.modFn fn fun x => { x with streams := tmod Stream.fresh x.streams i f }
  | some k => s.modCtx k fun x => { x with streams := tmod Stream.fresh x.streams i f }

/-- The completion area that serves a stream. -/
def State.cqOf (s : State) (fn : Nat) (ctx : Option Nat) : Area Completion :=
  match ctx with
  | none => (s.fnOf fn).cq
  | some k => (s.ctx k).cq

/-- Every command of a stream set that is accepted and not posted. -/
def outstandingOf (t : Table Stream) : List Cmd := t.flatMap fun e => e.2.cmds

/-- A record held for space that ends its command; rejected records and re-posts hold no tag (R305, R307). -/
def Completion.ends (c : Completion) : Bool := !c.dup && decide (c.status ≠ stTagInUse) && decide (c.status ≠ stSeqStale)

/-- A command is outstanding until its record has been written (R309). -/
def State.anyOutstanding (s : State) (fn : Nat) (ctx : Option Nat) : Bool :=
  decide (outstandingOf (s.streamsOf fn ctx) ≠ []) || (s.cqOf fn ctx).held.any Completion.ends

/-- A SUMMARY takes no place in its stream and no tag (R305, R310). -/
def Cmd.isSummary (x : Cmd) : Bool := decide (x.opcode = 0x0E)

/-- The tags that outstanding commands hold. -/
def State.tagsHeld (s : State) (fn : Nat) (ctx : Option Nat) : List (BitVec 9) :=
  ((outstandingOf (s.streamsOf fn ctx)).filter fun x => !x.isSummary).map (fun x => x.tag)
    ++ ((s.cqOf fn ctx).held.filter Completion.ends).map fun c => c.tag

/-- The context of a command's stream. -/
def refCtx (c : CmdRef) : Option Nat := c.ctx.map Fin.val

/-- The name of a command fits its stream: a context's stream belongs to the context's function. -/
def State.names (s : State) (c : CmdRef) : Bool :=
  match c.ctx with
  | none => true
  | some k => decide ((s.ctx k.val).state ≠ .absent) && decide ((s.ctx k.val).fn = c.fn)

/-- A command of a stream by its number, the earliest that meets a predicate. -/
def State.cmdOf (s : State) (c : CmdRef) (p : Cmd → Bool) : Option Cmd :=
  if s.names c then (s.stream c.fn.val (refCtx c) c.stream.val).cmds.find? fun x => decide (x.seq = c.seq) && p x else none

/-- Change one command, told by its stamp. -/
def State.modCmd (s : State) (c : CmdRef) (stamp : Nat) (f : Cmd → Cmd) : State :=
  s.modStream c.fn.val (refCtx c) c.stream.val fun x => { x with cmds := x.cmds.map fun y => if y.stamp = stamp then f y else y }

/-- A command is done: it completes with a verdict. -/
def Cmd.finish (x : Cmd) (v : Verdict) : Cmd := { x with stage := .done, status := v.1, result := v.2 }

/-! ## When a command has completed (R176, R265, R312) -/

/-- Stores, reductions, atomics and monitor posts of a launch that have no answer yet, and copies of its move descriptors that
have not ended (R149, R176). -/
def State.launchPending (s : State) (k : Nat) : Bool :=
  (s.cores.any fun c => (c.2.stores.any fun e => decide (e.launch = k) && !e.acked)
    || (c.2.loads.any fun e => decide (e.launch = k) && !e.ready && (match e.kind with | .ld .. => false | _ => true))
    || c.2.posts.any fun p => decide (p.launch = k))
  || s.clusters.any fun c => (c.2.forming ++ c.2.queue).any fun d => decide (d.launch = k)

/-- Two byte ranges meet; a length of 0 covers everything (R314). -/
def meets (va len a n : Nat) : Bool := decide (len = 0) || (decide (va < a + n) && decide (a < va + len))

/-- A page of a walk lies in a range. -/
def Walk.within (w : Walk) (va len : Nat) : Bool := meets va len (w.key.page * pageSize w.key.big) (pageSize w.key.big)

/-- The virtual address at which a WRITE, or a COPY to the device, begins to write. -/
def Cmd.writesAt (x : Cmd) : Nat := recNat x.record (if x.opcode = 0x02 then 16 else 24) 8

/-- Line requests of a context, issued before a stamp, that used a page of the range and have no answer yet (R265): those of cores, of
PREFs, and of WRITE and COPY. -/
def State.inFlightUses (s : State) (k stamp va len : Nat) : Bool :=
  let used (a : Nat) : Bool :=
    let p := (s.ctx k).pageOf a
    meets va len (p.1 * pageSize p.2) (pageSize p.2)
  (s.cores.any fun c =>
    (c.2.stores.any fun e => decide (e.ctx.val = k) && decide (e.stamp < stamp) && !e.acked && used e.va.toNat)
      || c.2.loads.any fun e => decide (e.ctx.val = k) && decide (e.stamp < stamp) && !e.ready && e.lanes.any fun l => used l.va.toNat)
  || (s.clusters.any fun c => c.2.txns.any fun t => decide (t.ctx.val = k) && (match t.pref with
      | some p => decide (p.2 ≤ stamp) && used p.1.toNat
      | none => false))
  || (outstandingOf (s.ctx k).streams).any fun x => decide (x.stamp < stamp)
      && x.lines.any fun l => !s.quiet l.1 && used (x.writesAt + l.2)

/-- The save area of a context (R331). -/
def Context.saveBytes (c : Context) : Nat := 256 * 1024 + 48 * 1024 * c.ceiling

/-- Pinned areas and descriptors of a context that use a page of the range (R144, R262, R263, R265). -/
def State.pinsUse (s : State) (k va len : Nat) : Bool :=
  let c := s.ctx k
  let hit (a n : Nat) : Bool := meets va len a n
  let pages (ps : List Pin) : Bool := ps.any fun p => hit p.1 p.2.1
  pages c.savePages
    || (match c.mon with | some m => pages m.2.2 | none => false)
    || (c.cq.virt && c.cq.enabled && pages c.cq.pages)
    || (s.launches.any fun l => l.2.live && decide (l.2.ctx.val = k) && (match l.2.monArea with | some m => pages m.2.2 | none => false))
    || (s.clusters.any fun cl => (cl.2.forming ++ cl.2.queue).any fun d => decide (d.ctx.val = k) && pages (d.srcPages ++ d.dstPages))
    || (outstandingOf c.streams).any fun x => x.isSummary && pages x.pages

/-- An invalidation of a context's range has ended (R265). -/
def State.invalidated (s : State) (k stamp va len : Nat) : Bool :=
  !(s.clusters.any fun c => c.2.tlb.any fun e => e.2.valid && decide (e.2.ctx.val = k)
      && meets va len (e.2.page * pageSize e.2.big) (pageSize e.2.big))
    && !(s.chans.any fun c => c.2.walks.any fun w => decide (w.key.context.val = k) && w.inFlight && w.within va len)
    && !s.inFlightUses k stamp va len && !s.pinsUse k va len

/-- The contexts that a function owns. -/
def State.contextsOf (s : State) (fn : Nat) : List Nat :=
  (s.ctxs.filter fun c => decide (c.2.state ≠ .absent) && decide (c.2.fn.val = fn)).map Prod.fst

/-- The contexts that a started command invalidates: every context of the function that FN_GRANT names (R334), else the
command's own. -/
def State.invalidates (s : State) (ctx : Option Nat) (x : Cmd) : List Nat :=
  match ctx with
  | some k => [k]
  | none => s.contextsOf (recNat x.record 12 2)

/-- A command has completed: it is done and its writes are performed; its launch has ended and its accesses are performed;
or its invalidation has ended. -/
def State.completed (s : State) (ctx : Option Nat) (x : Cmd) : Bool :=
  match x.stage with
  | .done => x.lines.all fun l => s.quiet l.1
  | .accepted => false
  | .started =>
    match x.launchId with
    | some k => (s.launchOf k).ended && !s.launchPending k
    | none =>
      match x.range with
      | some (stamp, va, len) => (s.invalidates ctx x).all fun k => s.invalidated k stamp va len
      | none =>
        -- a cluster reset that has run, whose saved blocks have been restored (R332, R347)
        decide (x.opcode = 0x17) && x.joined
          && !((s.savedBlocks.map Prod.snd).any fun b =>
            decide (clusterOfCore b.core = 128 * recNat x.record 12 1 + recNat x.record 13 2) && s.eligible b)

/-- The record of a launch (R319, R321): the first status that applies, FLAGS and RESULT. -/
def Launch.status (l : Launch) : Byte :=
  if l.aborted then stAborted
  else if l.channelReset then stChannelReset
  else if l.dataError then stCoreDataError
  else if l.excEnd then stException
  else if l.lost ≠ 0 then stDestLost
  else stSuccess
def Launch.result (l : Launch) : DWord :=
  if l.lost = 0 then 0 else BitVec.ofNat 64 (Nat.min l.lost 127 * 2 ^ 57 + l.lostAddr.toNat % 2 ^ 57)
def Launch.flagBits (l : Launch) : BitVec 4 := l.flags.setWidth 4 ||| (if l.exc then 8 else 0)

/-- The completion record of a command that has completed. -/
def State.recordOf (s : State) (c : CmdRef) (x : Cmd) : Completion :=
  let blank : Completion :=
    { c0 := decide (x.eff = 0), seq := x.seq, tag := x.tag, stream := c.stream, dup := false, status := x.status, flags := 0, result := x.result }
  match x.stage, x.launchId with
  | .started, some k =>
    let l := s.launchOf k
    { blank with status := l.status, flags := l.flagBits, result := l.result }
  | .started, none => { blank with status := stSuccess, result := 0 }
  | _, _ => blank

/-! ## When a command starts (R310, R313) -/

/-- The commands of a stream before one of its commands, without SUMMARYs. -/
def earlier (cmds : List Cmd) (stamp : Nat) : List Cmd := (cmds.takeWhile fun x => decide (x.stamp ≠ stamp)).filter fun x => !x.isSummary

/-- The context runs in plane mode. -/
def State.planeMode (s : State) (ctx : Option Nat) : Bool :=
  match ctx with
  | none => false
  | some k => (s.ctx k).plane

/-- An accepted command may start: the stream's earlier commands have started, with ORDER or in plane mode completed, and
for STREAM_FENCE the commands accepted earlier on the streams that it names have completed. -/
def State.mayStart (s : State) (c : CmdRef) (x : Cmd) : Bool :=
  let ctx := refCtx c
  let before := earlier (s.stream c.fn.val ctx c.stream.val).cmds x.stamp
  decide (x.stage = .accepted) && (before.all fun y => decide (y.stage ≠ .accepted))
    && (!(x.order || s.planeMode ctx) || before.all fun y => s.completed ctx y)
    && (!decide (x.opcode = 0x0F) || (List.range 16).all fun i =>
      !((recNat x.record 12 2).testBit i) || (s.stream c.fn.val ctx i).cmds.all fun y =>
        decide (x.stamp ≤ y.stamp) || (y.isSummary && decide (i = c.stream.val)) || s.completed ctx y)

/-- The effective class of a command (R306, R339). -/
def State.effClass (s : State) (ctx : Option Nat) (r : BitVec 512) (demoted : Bool) : Fin 4 :=
  match ctx with
  | none => 2
  | some k =>
    let e := if (s.ctx k).cls < recClass r then recClass r else (s.ctx k).cls
    if demoted && decide (e = 0) then 1 else e

/-- Start a command of an opcode: its effective class is that of its start, and `f` gives its effect and, unless it goes on,
what it completes with. -/
def starting (c : CmdRef) (op : Byte) (s : State) (f : Cmd → State → Option Verdict × State) : Out :=
  match s.cmdOf c fun x => decide (x.opcode = op) && decide (x.stage = .accepted) with
  | none => enabled false "no such command waits to start" (.next s)
  | some x =>
    enabled (s.mayStart c x) "the command may not start yet" <|
      let x1 := { x with stage := .started, eff := s.effClass (refCtx c) x.record x.demoted }
      let r := f x1 (s.modCmd c x.stamp fun _ => x1)
      match r.1 with
      | none => .next r.2
      | some v => .next (r.2.modCmd c x.stamp fun y => y.finish v)

/-- The context of a command on a context's stream. -/
def refContext (c : CmdRef) : Nat := ((refCtx c).getD 0)

/-! ## Virtual ranges (R256, R263, R315) -/

/-- The translation of one page for a command: its pin, or the cause. -/
def State.pinPage (s : State) (k va : Nat) (write : Bool) : (Pin ⊕ BitVec 4) × State :=
  let r := s.walk k va
  let a : Access := { va := BitVec.ofNat 64 va, write := write, fetch := false, move := false, pref := false }
  match (r.1.2.orElse fun _ => accessCause r.1.1 a) with
  | some cause => (.inr cause, r.2)
  | none =>
    let n := pageSize ((s.ctx k).pageOf va).2
    (.inl (va / n * n, n, ptePfn r.1.1 * 2 ^ 25), r.2)

/-- The pages of a range from `va` up to `top`, with the first failing address and its cause. -/
def State.pinFrom (s : State) (k top : Nat) (write : Bool) : Nat → Nat → (List Pin × Option (BitVec 4 × Nat)) × State
  | 0, _ => (([], none), s)
  | n + 1, va =>
    if top ≤ va then (([], none), s)
    else if 2 ^ 57 ≤ va then (([], some (causeSegment, va)), s)
    else
      let r := s.pinPage k va write
      match r.1 with
      | .inr cause => (([], some (cause, va)), r.2)
      | .inl p =>
        let t := r.2.pinFrom k top write n (p.1 + p.2.1)
        ((p :: t.1.1, t.1.2), t.2)

/-- Translate and pin a range of a context (R263). -/
def State.pinRange (s : State) (k va n : Nat) (write : Bool) : (List Pin × Option (BitVec 4 × Nat)) × State :=
  s.pinFrom k (va + n) write (n / 2 ^ 25 + 2) va

/-- TRANSLATION_FAULT: the cause and the failing address (R315). -/
def translationFault (f : BitVec 4 × Nat) : Verdict := (stTranslationFault, BitVec.ofNat 64 (f.1.toNat * 2 ^ 60 + f.2 % 2 ^ 57))

/-- The pieces of a virtual range, one in a line: offset in the range, virtual address, bytes. -/
def pieces (va n : Nat) : List (Nat × Nat × Nat) :=
  if n = 0 then []
  else (List.range ((va + n - 1) / 128 - va / 128 + 1)).map fun i =>
    let a := Nat.max va ((va / 128 + i) * 128)
    (a - va, a, Nat.min (va + n) ((va / 128 + i + 1) * 128) - a)

/-- What writing a range gives: the lines that it waits for, and the offset of the first line that was lost. -/
structure RangeWrite where
  waits : List (LineAddr × Nat)
  lost : Option Nat
  deriving DecidableEq, Repr

/-- Write bytes to a range through its pages, line by line (R315). -/
def State.writeRange (s : State) (pages : List Pin) (va : Nat) (bytes : List Byte) (cls : Fin 4) : RangeWrite × State :=
  (pieces va bytes.length).foldl (fun (acc : RangeWrite × State) p =>
    match pinned pages p.2.1 with
    | none => acc
    | some pa =>
      let l := lineOfPa pa
      let waits := acc.2.defersWrite l
      let r := acc.2.writePhys pa ((bytes.drop p.1).take p.2.2) cls
      ({ waits := if waits then acc.1.waits ++ [(l, p.1)] else acc.1.waits
         lost := if r.1 then some (acc.1.lost.getD p.1) else acc.1.lost }, r.2)) (⟨[], none⟩, s)

/-- Read a range through its pages: the bytes, and the offsets of the first line lost and of the first poisoned half. -/
def State.readRange (s : State) (pages : List Pin) (va n : Nat) : (List Byte × Option Nat × Option Nat) × State :=
  (pieces va n).foldl (fun (acc : (List Byte × Option Nat × Option Nat) × State) p =>
    match pinned pages p.2.1 with
    | none => acc
    | some pa =>
      let r := acc.2.readPhys pa p.2.2
      ((acc.1.1 ++ r.1.1, if r.1.2.2 then some (acc.1.2.1.getD p.1) else acc.1.2.1,
        if r.1.2.1 && !r.1.2.2 then some (acc.1.2.2.getD p.1) else acc.1.2.2), r.2)) (([], none, none), s)

end Sys2Proof.Machine
end

