-- ==== Sys2Proof/Machine/Host.lean ====
section
/-! DEFINITION. The host port (R302 to R329): submission, the commands of a context's streams but for LAUNCH, SUMMARY,
completion, and the areas, vectors and link of a function. -/

namespace Sys2Proof.Machine

/-! ## The snapshot (R326, R327) -/

/-- Groups of a context that are stopped, resident or saved. -/
def State.stoppedOf (s : State) (k : Nat) : Nat :=
  let stop (g : Group) : Bool := match g.waiting with
    | .stopped _ => true
    | _ => false
  (s.cores.map fun c => (c.2.groups.filter fun g => g.2.live && stop g.2
      && decide ((c.2.block g.2.block.val).ctx.val = k)).length).sum
    + ((s.ctx k).saved.map fun b => (b.groups.filter fun g => stop g.2).length).sum

/-- Open fault entries of a context over all channels. -/
def State.faultsOf (s : State) (k : Nat) : Nat :=
  (s.chans.map fun c => (c.2.faults.filter fun f => decide (f.ctx.val = k)).length).sum

def CtxState.code : CtxState → Nat
  | .absent => 0
  | .active => 1
  | .resetting => 2
  | .destroying => 3

/-- CMODE in [2:0]. -/
def Context.cmode (c : Context) : Nat := (if c.flush then 1 else 0) + (if c.satNaR then 2 else 0) + (if c.plane then 4 else 0)

/-- A stream's 16 bytes: H, the lowest accepted SEQ that is not completed, the counts, and whether the window is empty. -/
def Stream.section (x : Stream) : List Byte :=
  let open_ := x.cmds.filter fun c => !c.isSummary
  let low := open_.foldl (fun m c => Nat.max m (x.h - c.seq).toNat) 0
  let lowest : Word := if open_ = [] then x.h + 1 else x.h - BitVec.ofNat 32 low
  bytesLe 4 x.h.toNat ++ bytesLe 4 lowest.toNat ++ bytesLe 2 (open_.filter fun c => decide (c.stage = .accepted)).length
    ++ bytesLe 2 (open_.filter fun c => decide (c.stage ≠ .accepted)).length ++ bytesLe 4 (if x.empty then 1 else 0)

/-- The 384 bytes of a context. -/
def State.ctxSection (s : State) (k : Nat) : List Byte :=
  let c := s.ctx k
  let a := c.cq
  let held := (a.held.filter Completion.ends).length
  let tags := s.tagsHeld c.fn.val (some k)
  let cfg := (if a.phase then 1 else 0) + a.vector.val * 2 ^ 8 + a.log2n.toNat * 2 ^ 16 + (if a.virt then 2 ^ 24 else 0)
  bytesLe 2 k ++ bytesLe 1 c.state.code ++ bytesLe 1 (c.cmode + c.sticky.toNat * 8 + c.cls.val * 64)
    ++ bytesLe 4 ((outstandingOf c.streams).length + held) ++ bytesLe 4 (s.stoppedOf k) ++ bytesLe 4 (s.faultsOf k)
    ++ bytesLe 4 a.tail.toNat ++ bytesLe 4 a.head.toNat ++ bytesLe 4 cfg ++ bytesLe 4 0 ++ bytesLe 8 a.base.toNat
    ++ bytesLe 8 c.energy ++ bytesLe 16 0
    ++ (List.range 16).flatMap (fun i => (tget Stream.fresh c.streams i).section)
    ++ bytesLe 64 (bitsOf (fun t => decide (BitVec.ofNat 9 t ∈ tags)) 512)

/-- Records held for a function (R323). -/
def State.heldOf (s : State) (fn : Nat) : Nat :=
  let f := s.fnOf fn
  f.cq.held.length + f.fault.held.length + f.event.held.length
    + ((s.contextsOf fn).map fun k => (s.ctx k).cq.held.length).sum

/-- A channel is ready (R382). -/
def State.readyChan (s : State) (ch : Nat) : Bool := decide ((s.chan ch).state = 2) || decide ((s.chan ch).state = 3)

/-- A snapshot of the contexts named, with DONE. -/
def State.snapshot (s : State) (fn : Nat) (ks : List Nat) (snap : Nat) : List Byte :=
  let f := s.fnOf fn
  let chans := bitsOf (fun c => s.readyChan c
    && (decide (fn = 0) || (s.contextsOf fn).any fun k => (s.ctx k).chset.getLsbD c)) 32
  let size := 64 + 384 * ks.length
  bytesLe 4 1 ++ bytesLe 2 fn ++ bytesLe 2 ks.length ++ bytesLe 8 snap
    ++ bytesLe 4 f.cq.tail.toNat ++ bytesLe 4 f.cq.head.toNat ++ bytesLe 4 f.fault.tail.toNat ++ bytesLe 4 f.fault.head.toNat
    ++ bytesLe 4 f.event.tail.toNat ++ bytesLe 4 f.event.head.toNat ++ bytesLe 4 (s.heldOf fn) ++ bytesLe 4 chans
    ++ bytesLe 8 size ++ bytesLe 8 (snap + 2 ^ 63) ++ ks.flatMap fun k => s.ctxSection k

/-- Capture a SUMMARY as it is accepted (R326): too short a buffer, or one that does not translate, ends it at once. -/
def State.capture (s : State) (fn : Nat) (ctx : Option Nat) (x : Cmd) : Cmd × State :=
  let ks := match ctx with
    | some k => [k]
    | none => s.contextsOf fn
  let size := 64 + 384 * ks.length
  let buf := recNat x.record 16 8
  if recNat x.record 24 4 < size then (x.finish (stInvalidArgument, BitVec.ofNat 64 size), s)
  else
    let virt := recNat x.record 12 1 = 1
    let pin := match ctx with
      | some k => if virt then s.pinRange k buf size true else (([], none), s)
      | none => (([], none), s)
    match pin.1.2 with
    | some f => (x.finish (translationFault f), pin.2)
    | none =>
      let n := (s.fnOf fn).snap + 1
      ({ x with stage := .started, pages := pin.1.1, snapshot := s.snapshot fn ks n }, pin.2.modFn fn fun f => { f with snap := n })

/-! ## Submission (R303 to R309, R313) -/

/-- What the sequence check finds (R307). -/
inductive SeqCase where
  | fresh (h : Word)
  | repost (c : Completion)
  | running
  | stale
  deriving DecidableEq, Repr

/-- The sequence check of a stream. -/
def Stream.check (x : Stream) (seq : Word) : SeqCase :=
  let d := (seq - x.h).toInt
  if x.empty then .fresh seq
  else if 1 ≤ d ∧ d ≤ 512 then .fresh seq
  else if -511 ≤ d ∧ d ≤ 0 then
    if seq ∈ x.accepted then
      match x.completed.find? fun c => decide (c.1 = seq) with
      | some c => .repost { c.2 with dup := true }
      | none => .running
    else .fresh x.h
  else .stale

/-- A SEQ of the window H − 511 to H. -/
def inSeqWindow (h x : Word) : Bool := decide ((h - x).toNat ≤ 511)

/-- A stream that accepts a SEQ, with its new H. -/
def Stream.accept (x : Stream) (h seq : Word) : Stream :=
  { x with
    empty := false, h := h, accepted := (x.accepted ++ [seq]).filter fun y => inSeqWindow h y
    completed := x.completed.filter fun c => inSeqWindow h c.1 }

/-- The opcodes of a plane (R313). -/
def planeOps (stream : Nat) : List Nat :=
  match stream with
  | 0 => [0x04, 0x05, 0x06, 0x07, 0x08, 0x09, 0x0A, 0x0B, 0x00]
  | 1 => [0x01, 0x02, 0x03, 0x00]
  | 2 => [0x0D, 0x0E, 0x00]
  | _ => []

/-- Checks 6 and 7 of R305: the status of a record that fails one. -/
def State.rejects (s : State) (fn : Nat) (ctx : Option Nat) (r : BitVec 512) : Option Byte :=
  let op := (recOp r).toNat
  let plane := s.planeMode ctx
  let allowed := (if recFn r then opOnFunction op else opOnContext op) && (!opOwner op || decide (fn = 0))
  if plane && !(decide (op = 0x0E) || decide (op ∈ planeOps (recStream r).val)) then some stInvalidArgument
  else if !opDefined op then some stUnknownOpcode
  else if !allowed then some stNotPermitted
  else if !argsOk r then some stInvalidArgument
  else none

/-- A record for a context that is being reset or destroyed has no effect (R352). -/
def State.aborts (s : State) (ctx : Option Nat) (r : BitVec 512) : Bool :=
  match ctx with
  | none => false
  | some k => (decide ((s.ctx k).state = .resetting) || decide ((s.ctx k).state = .destroying)) && !decide (recOp r = 0x0E)

/-- The token of a command of effective class C0 (R339): true when the command is demoted. A LAUNCH decides at its start. -/
def State.takeToken (s : State) (ctx : Option Nat) (r : BitVec 512) : Bool × State :=
  match ctx with
  | none => (false, s)
  | some k =>
    if s.effClass ctx r false ≠ 0 ∨ recOp r = 0x01 ∨ s.aborts ctx r = true then (false, s)
    else if 1 ≤ (s.ctx k).tokens then (false, s.modCtx k fun c => { c with tokens := c.tokens - 1 })
    else (true, s.modCtx k fun c => { c with demoted := satAdd c.demoted 1 })

/-- Accept a record (R305): it takes its place in its stream; one that fails check 6 or 7 is done at once, and a SUMMARY is
captured. -/
def State.accept (s : State) (fn : Nat) (ctx : Option Nat) (r : BitVec 512) : State :=
  let t := s.takeToken ctx r
  let f := t.2.stamp
  let x : Cmd :=
    { seq := recSeq r, tag := recTag r, order := recOrder r, eff := f.2.effClass ctx r t.1, opcode := recOp r, record := r,
      stage := .accepted, stamp := f.1, status := 0, result := 0, demoted := t.1, joined := false, launchId := none,
      range := none, lines := [], pages := [], snapshot := [] }
  let y := match s.rejects fn ctx r with
    | some st => (x.finish (fails st), f.2)
    | none =>
      if s.aborts ctx r then (x.finish (fails stAborted), f.2)
      else if x.isSummary then f.2.capture fn ctx x else (x, f.2)
  y.2.modStream fn ctx (recStream r).val fun z => { z with cmds := z.cmds ++ [y.1] }

/-- Post a record for a command that is not accepted. -/
def State.answer (s : State) (fn : Nat) (ctx : Option Nat) (r : BitVec 512) (st : Byte) (result : DWord) : State :=
  (s.postCompletion fn ctx
    { c0 := decide (s.effClass ctx r false = 0), seq := recSeq r, tag := recTag r, stream := recStream r, dup := false,
      status := st, flags := 0, result := result }).2

/-- A write to BAR2 that is discarded. -/
def State.badWrite (s : State) (fn : Nat) : State := s.modFn fn fun f => { f with badWrite := satAdd f.badWrite 1 }

/-- Check 5: in native mode the tag is free. -/
def State.tagFree (s : State) (fn : Nat) (ctx : Option Nat) (r : BitVec 512) : Bool :=
  s.planeMode ctx || !decide (recTag r ∈ s.tagsHeld fn ctx)

/-- Checks 3 to 7 of R305. -/
def State.checkRecord (s : State) (fn : Nat) (r : BitVec 512) : State :=
  let f := s.fnOf fn
  let ctx : Option Nat := if recFn r then none else some (recCtx r).val
  let ok := match ctx with
    | none => f.storeEn && f.cq.enabled
    | some k => decide ((s.ctx k).state ≠ .absent) && decide ((s.ctx k).fn.val = fn) && (s.ctx k).cq.enabled
  if !ok then s.badWrite fn
  else if recOp r = 0x0E then s.accept fn ctx r
  else
    match (s.stream fn ctx (recStream r).val).check (recSeq r) with
    | .stale =>
      (s.modFn fn fun f => { f with stale := satAdd f.stale 1 }).answer fn ctx r stSeqStale
        ((s.stream fn ctx (recStream r).val).h.setWidth 64)
    | .running => s.modFn fn fun f => { f with dup := satAdd f.dup 1 }
    | .repost c => ((s.modFn fn fun f => { f with dup := satAdd f.dup 1 }).postCompletion fn ctx c).2
    | .fresh h =>
      if !s.tagFree fn ctx r then s.answer fn ctx r stTagInUse 0
      else (s.modStream fn ctx (recStream r).val fun x => x.accept h (recSeq r)).accept fn ctx r

/-- COMMAND_SUBMIT (R303, R305, R308): checks 1 and 2; a record for the function stream set waits while Bus Master Enable
is 0. -/
def execCommandSubmit (fn : Fin 257) (offset : BitVec 20) (bytes : Nat) (allEnables : Bool) (record : BitVec 512) (s : State) : Out :=
  enabled s.hub.ready "the host port is not up" <|
    if !(decide (bytes = 64) && allEnables && decide (offset.toNat % 64 = 0)) then .next (s.badWrite fn.val)
    else if (recStream record).val ≠ offset.toNat / 65536 then .next (s.badWrite fn.val)
    else if recFn record && !(s.fnOf fn.val).busMaster then
      if 64 ≤ (s.fnOf fn.val).queued.length then .next (s.badWrite fn.val)
      else .next (s.modFn fn.val fun f => { f with queued := f.queued ++ [(offset, record)] })
    else .next (s.checkRecord fn.val record)

/-! ## Completion (R312) -/

/-- COMMAND_COMPLETION_POST: a command that has completed leaves its stream, and its record is written or held. -/
def execCommandCompletionPost (c : CmdRef) (s : State) : Out :=
  let ctx := refCtx c
  match s.cmdOf c fun x => s.completed ctx x with
  | none => enabled false "no such command has completed" (.next s)
  | some x =>
    let r := s.recordOf c x
    let s1 := s.modStream c.fn.val ctx c.stream.val fun z =>
      { z with
        cmds := z.cmds.filter fun y => !decide (y.stamp = x.stamp)
        completed := if x.isSummary then z.completed else z.completed ++ [(x.seq, r)] }
    let s2 := match x.launchId with
      | some k => s1.setLaunch k .none
      | none => s1
    .next (s2.postCompletion c.fn.val ctx r).2

/-! ## Commands that end as they start (R314, R315) -/

/-- NOP. -/
def execNopCommand (c : CmdRef) (s : State) : Out := starting c 0x00 s fun _ s => (some (succeeds 0), s)

/-- STREAM_FENCE: its start is its effect (R310). -/
def execStreamFence (c : CmdRef) (s : State) : Out := starting c 0x0F s fun _ s => (some (succeeds 0), s)

/-- The lines that a command's writes wait for. -/
def State.waitLines (s : State) (c : CmdRef) (x : Cmd) (w : RangeWrite) : State :=
  s.modCmd c x.stamp fun y => { y with lines := w.waits }

/-- WRITE: up to 32 bytes at a virtual address (R315). -/
def execWrite (c : CmdRef) (s : State) : Out :=
  starting c 0x02 s fun x s =>
    let n := recNat x.record 12 1
    let va := recNat x.record 16 8
    let p := s.pinRange (refContext c) va n true
    match p.1.2 with
    | some f => (some (translationFault f), p.2)
    | none =>
      let w := p.2.writeRange p.1.1 va (bytesLe n (recNat x.record 32 32)) x.eff
      (some (if w.1.lost.isSome then fails stDestLost else succeeds 0), w.2.waitLines c x w.1)

/-- The verdict of a COPY: DEST_LOST before POISONED, with the bytes before the lowest such line (R315). -/
def copyVerdict (n : Nat) (lost pois : Option Nat) : Verdict :=
  match lost, pois with
  | some a, some b => (stDestLost, BitVec.ofNat 64 (Nat.min a b))
  | some a, none => (stDestLost, BitVec.ofNat 64 a)
  | none, some b => (stPoisoned, BitVec.ofNat 64 b)
  | none, none => succeeds n

/-- COPY between host and device memory (R315); what the host's memory holds is the command's operand. The hub reads and
writes the host only while Bus Master Enable is 1 (R328). -/
def execCopy (c : CmdRef) (hostData : List Byte) (s : State) : Out :=
  let want := match s.cmdOf c fun x => decide (x.opcode = 0x03) && decide (x.stage = .accepted) with
    | some x => if recNat x.record 12 1 = 0 then recNat x.record 32 4 else 0
    | none => 0
  enabled ((s.fnOf c.fn.val).busMaster && decide (hostData.length = want)) "the hub may not reach the host, or the data do not fit" <|
    starting c 0x03 s fun x s =>
      let n := recNat x.record 32 4
      let va := recNat x.record 24 8
      let toDevice := recNat x.record 12 1 = 0
      let p := s.pinRange (refContext c) va n toDevice
      match p.1.2 with
      | some f => (some (translationFault f), p.2)
      | none =>
        if toDevice then
          let w := p.2.writeRange p.1.1 va hostData x.eff
          (some (copyVerdict n w.1.lost none), w.2.waitLines c x w.1)
        else
          let r := p.2.readRange p.1.1 va n
          (some (copyVerdict n r.1.2.1 r.1.2.2), r.2.hostWrite (recNat x.record 16 8) r.1.1)

/-! ## Translation (R254, R255, R264, R265, R269) -/

/-- The descriptor in 16 bytes of a record (R254). -/
def descSegment (r : BitVec 512) : Segment :=
  let a := recNat r 16 8
  let b := recNat r 24 8
  { valid := a.testBit 63, big := a.testBit 62, length := a / 2 ^ 26 % 2 ^ 24, base := a % 2 ^ 26, table := b / 2 ^ 7 % 2 ^ 50 * 128 }

/-- Reserved and zero fields of a descriptor. -/
def descReserved (r : BitVec 512) : Bool :=
  decide (recNat r 16 8 / 2 ^ 50 % 2 ^ 12 = 0) && decide (recNat r 24 8 / 2 ^ 57 = 0) && decide (recNat r 24 8 % 2 ^ 7 = 0)

/-- Bytes of a segment's page table (R255). -/
def Segment.tableBytes (g : Segment) : Nat := 8 * (if g.big then g.length / 64 else g.length)

/-- What R255 and R334 find wrong with a valid descriptor for number `n` of a context of a function. -/
def State.segmentBad (s : State) (c : Context) (fn n : Nat) (r : BitVec 512) : Option Byte :=
  let g := descSegment r
  let overlaps := (List.range 16).any fun i =>
    let h := tget Segment.none c.segs i
    decide (i ≠ n) && h.valid && decide (g.start < h.start + h.bytes) && decide (h.start < g.start + g.bytes)
  if !descReserved r || decide (g.length = 0) || (g.big && decide (g.length % 64 ≠ 0)) || decide (2 ^ 57 < g.start + g.bytes)
      || overlaps || decide (g.table / 2 ^ 48 ≠ s.hub.node.val)
      || decide ((s.chan (g.table / 2 ^ 43 % 32)).capacity < g.table % 2 ^ 43 + g.tableBytes) then some stInvalidArgument
  else if !s.granted fn g.table g.tableBytes then some stNotPermitted
  else none

/-- Drop a context's TLB entries in a range. -/
def State.tlbInvalidate (s : State) (k va len : Nat) : State :=
  { s with clusters := tmapIf Cluster.idle s.clusters (fun _ => true) fun c =>
      c.tlbDrop k fun e => meets va len (e.page * pageSize e.big) (pageSize e.big) }

/-- The walks of a context's range will install nothing: those who wait for them translate anew (R265 condition 2; notes/assumptions/86.md). -/
def State.cutWalks (s : State) (k va len : Nat) : State :=
  let hit (w : Walk) : Bool := decide (w.key.context.val = k) && w.within va len
  let waiters := s.chans.flatMap fun c => (c.2.walks.filter hit).flatMap fun w => w.waiters
  let s1 : State := { s with chans := tmapIf Channel.ready s.chans (fun _ => true) fun c => { c with walks := c.walks.filter fun w => !hit w } }
  waiters.foldl (fun acc x => acc.walkRetry x) s1

/-- An invalidation starts: TLB entries and walks go at once, and the command waits for the rest (R265). -/
def State.invalidating (s : State) (c : CmdRef) (x : Cmd) (ks : List Nat) (va len : Nat) : State :=
  let f := (ks.foldl (fun acc k => (acc.tlbInvalidate k va len).cutWalks k va len) s).stamp
  f.2.modCmd c x.stamp fun y => { y with range := some (f.1, va, len) }

/-- SEGMENT (R255): the descriptor is written; replacing or removing a valid one invalidates its range (R264). -/
def execSegment (c : CmdRef) (s : State) : Out :=
  starting c 0x04 s fun x s =>
    let k := (refContext c)
    let n := recNat x.record 12 1
    let g := descSegment x.record
    match (if g.valid then s.segmentBad (s.ctx k) c.fn.val n x.record else none) with
    | some st => (some (fails st), s)
    | none =>
      let old := tget Segment.none (s.ctx k).segs n
      let s1 := s.modCtx k fun y => { y with segs := tset Segment.none y.segs n (if g.valid then g else Segment.none) }
      if old.valid then (none, s1.invalidating c x [k] old.start old.bytes) else (some (succeeds 0), s1)

/-- INVALIDATE (R265). -/
def execInvalidate (c : CmdRef) (s : State) : Out :=
  starting c 0x05 s fun x s => (none, s.invalidating c x [(refContext c)] (recNat x.record 16 8) (recNat x.record 24 8))

/-- RESOLVE (R269). -/
def execResolve (c : CmdRef) (s : State) : Out :=
  starting c 0x06 s fun x s =>
    (some (succeeds 0), (List.range 32).foldl (fun acc ch => acc.resolveOn ch (refContext c) (recNat x.record 16 8)) s)

/-! ## Sync objects (R184 to R186, R314) -/

/-- Objects of a channel that are not allocated. -/
def State.freeObjs (s : State) (ch : Nat) : List Nat :=
  ((List.range 8192).map fun i => 8192 * ch + i).filter fun n => !(s.obj n).alloc

/-- SYNC_ALLOC: which free object is taken is left open, a free value. -/
def execSyncAlloc (c : CmdRef) (s : State) : Out :=
  starting c 0x07 s fun x s =>
    let k := (refContext c)
    let want := recNat x.record 13 1
    let set := (s.ctx k).chset
    if want ≠ 0xFF ∧ ¬(want < 32 ∧ set.getLsbD want = true) then (some (fails stInvalidArgument), s)
    else
      let chans := (List.range 32).filter fun i => set.getLsbD i && (decide (want = 0xFF) || decide (i = want))
      let free := chans.flatMap fun i => s.freeObjs i
      let f := s.takeFree
      match free[f.1.toNat % Nat.max 1 free.length]? with
      | none => (some (fails stNoResource), s)
      | some n =>
        let s1 := f.2.modObj n fun o =>
          { o with alloc := true, owner := (BitVec.ofNat 11 k).toFin, watch := decide (recNat x.record 12 1 = 1), flag := false,
                   payload := BitVec.ofNat 62 (recNat x.record 16 8), broken := false }
        (some (stSuccess, (handleOf n (s1.obj n)).setWidth 64), s1)

/-- Free an object: its waits are withdrawn, and its generation moves on (R184, R186). -/
def State.freeObj (s : State) (n : Nat) : State :=
  (s.withdrawAll n false).modObj n fun o => { o with alloc := false, gen := o.gen + 1 }

/-- What a command that names an object finds (R185, R320): none when it may act. -/
def State.objStatus (s : State) (k : Nat) (h : Word) (broken : Bool) : Option Byte :=
  let o := s.obj (handleNum h)
  if handleKind h ≠ 0 ∨ o.alloc = false ∨ o.gen ≠ handleGen h then some stInvalidArgument
  else if o.owner.val ≠ k then some stNotPermitted
  else if o.broken && !broken then some stInvalidArgument
  else none

/-- The handle in a record. -/
def recHandle (r : BitVec 512) : Word := r.extractLsb' 96 32

/-- SYNC_FREE; a broken object may be freed (R206). -/
def execSyncFree (c : CmdRef) (s : State) : Out :=
  starting c 0x08 s fun x s =>
    let h := recHandle x.record
    match s.objStatus (refContext c) h true with
    | some st => (some (fails st), s)
    | none => (some (succeeds 0), s.freeObj (handleNum h))

/-- An operation of the host on an object, at its node: FLAG and PAYLOAD before it are the result. -/
def syncOp (c : CmdRef) (op : Nat) (s : State) (f : BitVec 62 → SyncObj → SyncObj) : Out :=
  match s.cmdOf c fun x => decide (x.opcode = 0x09) && decide (x.stage = .accepted) with
  | none => enabled false "no such command waits to start" (.next s)
  | some x =>
    enabled (decide (recNat x.record 16 1 = op)) "the command is another operation" <|
      starting c 0x09 s fun x s =>
        let h := recHandle x.record
        match s.objStatus (refContext c) h false with
        | some st => (some (fails st), s)
        | none => (some (stSuccess, (s.obj (handleNum h)).result),
            s.applyObj (handleNum h) (f (BitVec.ofNat 62 (recNat x.record 24 8))))

/-- SYNC_OP, SET. -/
def execSyncOpSet (c : CmdRef) (s : State) : Out := syncOp c 0 s fun _ o => { o with flag := true }
/-- SYNC_OP, CLEAR. -/
def execSyncOpClear (c : CmdRef) (s : State) : Out := syncOp c 1 s fun _ o => { o with flag := false }
/-- SYNC_OP, TEST. -/
def execSyncOpTest (c : CmdRef) (s : State) : Out := syncOp c 2 s fun _ o => o
/-- SYNC_OP, ADD. -/
def execSyncOpAdd (c : CmdRef) (s : State) : Out := syncOp c 3 s fun v o => { o with payload := o.payload + v }
/-- SYNC_OP, SET with payload. -/
def execSyncOpSetPayload (c : CmdRef) (s : State) : Out := syncOp c 4 s fun v o => { o with flag := true, payload := v }

/-! ## Settings of a context (R136, R144, R315, R322) -/

/-- MONITOR_AREA (R144). -/
def execMonitorArea (c : CmdRef) (s : State) : Out :=
  starting c 0x0A s fun x s =>
    let base := recNat x.record 16 8
    let n := recNat x.record 24 2
    let p := s.pinRange (refContext c) base (64 * n) true
    match p.1.2 with
    | some f => (some (translationFault f), p.2)
    | none => (some (succeeds 0), p.2.modCtx (refContext c) fun y => { y with mon := some (BitVec.ofNat 64 base, n, p.1.1) })

/-- The context has another outstanding command, or a held completion record (R315). -/
def State.busyWith (s : State) (k : Nat) (stamp : Option Nat) : Bool :=
  let c := s.ctx k
  ((outstandingOf c.streams).any fun x => decide (some x.stamp ≠ stamp)) || decide (c.cq.held ≠ [])

/-- CTX_MODE (R136): the old CMODE and sticky flags are the result. -/
def execCtxMode (c : CmdRef) (s : State) : Out :=
  starting c 0x0B s fun x s =>
    let k := (refContext c)
    let m := recNat x.record 12 1
    let y := s.ctx k
    if decide (m.testBit 2 ≠ y.plane) && s.busyWith k (some x.stamp) then (some (fails stBusy), s)
    else
      (some (succeeds (y.cmode + y.sticky.toNat * 2 ^ 8)),
        s.setCtx k { y with
          flush := m.testBit 0, satNaR := m.testBit 1, plane := m.testBit 2, sticky := if m.testBit 7 then 0 else y.sticky })

/-- A command of the function stream set names a context (R314, R332). -/
def State.namesContext (s : State) (fn k : Nat) : Option Byte :=
  if (s.ctx k).state = .absent then some stInvalidArgument
  else if fn ≠ 0 ∧ (s.ctx k).fn.val ≠ fn then some stNotPermitted
  else none

/-- CQ_SET (R322): the area starts at TAIL = HEAD = 0. -/
def execCqSet (c : CmdRef) (s : State) : Out :=
  starting c 0x0C s fun x s =>
    let r := x.record
    let k := recNat r 24 2
    match s.namesContext c.fn.val k with
    | some st => (some (fails st), s)
    | none =>
      if s.busyWith k none then (some (fails stBusy), s)
      else
        let base := recNat r 16 8
        let log2n := recNat r 14 1
        let virt := recNat r 12 1 = 1
        let p := if virt then s.pinRange k base (16 * 2 ^ log2n) true else (([], none), s)
        match p.1.2 with
        | some f => (some (translationFault f), p.2)
        | none =>
          (some (succeeds 0), p.2.modCtx k fun y =>
            { y with cq := { base := BitVec.ofNat 64 base, log2n := BitVec.ofNat 5 log2n, vector := (BitVec.ofNat 5 (recNat r 13 1)).toFin,
                             enabled := true, virt := virt, pages := p.1.1, head := 0, tail := 0, held := [] } })

/-! ## Discarding blocks -/

/-- Saved blocks go: with their launch, or discarded. Their counts were posted as they were saved (R148). -/
def State.discardSaved (s : State) (p : SavedBlock → Bool) (how : BlockEnd) (f : Launch → Launch) : State :=
  (s.savedBlocks.filter fun b => p b.2).foldl (fun acc b =>
    (((acc.takeGroups b.2.block (b.2.groups.map Prod.snd) how).modCtx b.1 fun c => { c with saved := c.saved.erase b.2 }).settleSwap
      b.2.core).dropBlockOf b.2.block.launch f) s

/-- Every block of a launch ends, or is discarded with its context, and none is left to place (R318, R348). -/
def State.abortLaunch (s : State) (k : Nat) (how : BlockEnd) : State :=
  let s1 := s.modLaunch k fun l => { l with aborted := true, next := l.next.map fun e => (e.1, (e.2.2, e.2.2)) }
  let resident := s1.cores.flatMap fun c => (c.2.liveBlocks.filter fun b => decide (b.2.launch = k)).map fun b => (c.1, b.1)
  ((resident.foldl (fun acc b => acc.discardBlock b.1 b.2 how id) s1).discardSaved (fun b => decide (b.block.launch = k)) how id).checkLaunch k

/-! ## Stopped groups (R318) -/

/-- The group is stopped. -/
def Group.stoppedBy (g : Group) : Option Exc :=
  match g.waiting with
  | .stopped x => some x
  | _ => none

/-- A stopped group of a context that is resident: its core, slot and exception. -/
def State.findStopped (s : State) (k : Nat) (gid : Word) : Option (Nat × Nat × Exc) :=
  s.cores.findSome? fun c => c.2.groups.findSome? fun g =>
    if g.2.live && decide (g.2.id = gid) && decide ((c.2.block g.2.block.val).ctx.val = k) then
      g.2.stoppedBy.map fun x => (c.1, g.1, x)
    else none

/-- A stopped group of a context that is saved: its block. -/
def State.findSaved (s : State) (k : Nat) (gid : Word) : Option SavedBlock :=
  (s.ctx k).saved.find? fun b => b.groups.any fun g => decide (g.2.id = gid) && g.2.stoppedBy.isSome

/-- Write an action into a saved block's group. -/
def State.actSaved (s : State) (k : Nat) (gid : Word) (f : Group → Exc → Group) : State :=
  s.modCtx k fun c => { c with saved := c.saved.map fun b =>
    { b with groups := b.groups.map fun g =>
        match g.2.stoppedBy with
        | some x => if g.2.id = gid then (g.1, f g.2 x) else g
        | none => g } }

/-- The group goes on at the recorded address. -/
def Group.resume (g : Group) (x : Exc) : Group := { g with waiting := .no, pc := x.pc }

/-- The group identifier and the action of a record. -/
def recGroup (r : BitVec 512) : Word := r.extractLsb' 128 32

/-- An EXC_ACTION of one kind. -/
def excAction (c : CmdRef) (action : Nat) (s : State) (may : Cmd → Bool) (f : Cmd → State → Option Verdict × State) : Out :=
  match s.cmdOf c fun x => decide (x.opcode = 0x0D) && decide (x.stage = .accepted) with
  | none => enabled false "no such command waits to start" (.next s)
  | some x => enabled (decide (recNat x.record 12 1 = action) && may x) "the command is another action" (starting c 0x0D s f)

/-- EXC_ACTION RESUME. -/
def execExcActionResume (c : CmdRef) (s : State) : Out :=
  excAction c 0 s (fun _ => true) fun x s =>
    let gid := recGroup x.record
    match s.findStopped (refContext c) gid with
    | some (core, slot, e) => (some (succeeds 0), (s.modGroupAt core slot fun g => (g.resume e).settle).noteReady core slot)
    | none =>
      match s.findSaved (refContext c) gid with
      | some _ => (some (succeeds 0), s.actSaved (refContext c) gid fun g e => g.resume e)
      | none => (some (fails stInvalidArgument), s)

/-- A launch of which EXC_ACTION END ended a group. -/
def State.markEnd (s : State) (k : Nat) : State := s.modLaunch k fun l => { l with excEnd := true }

/-- EXC_ACTION END: every lane exits, once the Quern instructions that R110 awaits are done; a saved group exits at its
restore. -/
def execExcActionEnd (c : CmdRef) (s : State) : Out :=
  excAction c 1 s
    (fun x => match s.findStopped (refContext c) (recGroup x.record) with
      | some (core, slot, _) => !(s.core core).draining110 slot
      | none => true)
    fun x s =>
      let gid := recGroup x.record
      match s.findStopped (refContext c) gid with
      | some (core, slot, _) =>
        (some (succeeds 0), (s.markEnd ((s.core core).block (s.groupAt core slot).block.val).launch).endGroup core slot)
      | none =>
        match s.findSaved (refContext c) gid with
        | some b =>
          (some (succeeds 0), (s.markEnd b.block.launch).actSaved (refContext c) gid fun g _ =>
            { g with mask := 0, stack := [], waiting := .ending })
        | none => (some (fails stInvalidArgument), s)

/-- EXC_ACTION ABORT: every block of the group's launch ends. -/
def execExcActionAbort (c : CmdRef) (s : State) : Out :=
  excAction c 2 s (fun _ => true) fun x s =>
    let gid := recGroup x.record
    match s.findStopped (refContext c) gid with
    | some (core, slot, _) => (some (succeeds 0), s.abortLaunch ((s.core core).block (s.groupAt core slot).block.val).launch .ends)
    | none =>
      match s.findSaved (refContext c) gid with
      | some b => (some (succeeds 0), s.abortLaunch b.block.launch .ends)
      | none => (some (fails stInvalidArgument), s)

/-! ## SUMMARY -/

/-- SUMMARY: the captured snapshot is written, DONE last; one in host memory waits for Bus Master Enable (R326, R328). -/
def execSummary (c : CmdRef) (s : State) : Out :=
  match s.cmdOf c fun x => x.isSummary && decide (x.stage = .started) with
  | none => enabled false "no such SUMMARY is captured" (.next s)
  | some x =>
    let virt := recNat x.record 12 1 = 1
    let buf := recNat x.record 16 8
    enabled (decide virt || (s.fnOf c.fn.val).busMaster) "the hub may not reach the host" <|
      let s1 := if virt then
          let w := s.writeRange x.pages buf x.snapshot x.eff
          w.2.waitLines c x w.1
        else s.hostWrite buf x.snapshot
      .next (s1.modCmd c x.stamp fun y => y.finish (succeeds x.snapshot.length))

/-! ## Vectors (R325) -/

/-- MSIX_TIMER: TIME × 40 ns have passed since P became 1. -/
def execMsixTimer (fn : Fin 257) (v : Fin 32) (s : State) : Out :=
  let x := tget Vec.reset (s.fnOf fn.val).vecs v.val
  enabled (decide (x.posted ≠ 0) && decide (x.time ≠ 0) && !s.hub.refLost) "no timer runs" <| .next (s.sendVector fn.val v)

/-- A vector is unmasked: if it is pending, it sends its message. -/
def State.unmask (s : State) (fn : Nat) (v : Fin 32) : State :=
  let x := tget Vec.reset (s.fnOf fn).vecs v.val
  let s1 := s.modFn fn fun f => { f with vecs := tset Vec.reset f.vecs v.val { x with masked := false, pending := false } }
  if x.pending then s1.sendVector fn v else s1

/-- MSIX_UNMASK. -/
def execMsixUnmask (fn : Fin 257) (v : Fin 32) (s : State) : Out := .next (s.unmask fn.val v)

/-! ## Areas (R322, R323) -/

/-- A HEAD write within the range from the previous HEAD to TAIL. -/
def Area.setHead {α : Type} (a : Area α) (h : Word) : Area α :=
  if (h - a.head).toNat ≤ (a.tail - a.head).toNat then { a with head := h } else a

/-- A HEAD register is written: space is freed, and held records are posted in order. -/
def State.writeHead (s : State) (fn : Fin 257) (a : AreaRef) (head : Word) : State :=
  let n := fn.val
  match a with
  | .fnCq =>
    let s1 := s.modFn n fun f => { f with cq := f.cq.setHead head }
    s1.drainCompletions n none (s1.fnOf n).cq.held.length
  | .fault =>
    let s1 := s.modFn n fun f => { f with fault := f.fault.setHead head }
    s1.drainFaults n (s1.fnOf n).fault.held.length
  | .event =>
    let s1 := s.modFn n fun f => { f with event := f.event.setHead head }
    s1.drainEvents n (s1.fnOf n).event.held.length
  | .ctxCq k =>
    if (s.ctx k.val).state ≠ .absent ∧ (s.ctx k.val).fn = fn then
      let s1 := s.modCtx k.val fun c => { c with cq := c.cq.setHead head }
      s1.drainCompletions n (some k.val) (s1.ctx k.val).cq.held.length
    else s

/-- AREA_HEAD_WRITE. -/
def execAreaHeadWrite (fn : Fin 257) (a : AreaRef) (head : Word) (s : State) : Out := .next (s.writeHead fn a head)

/-- A write of FN_CQ_CFG, FN_FAULT_CFG or FN_EVENT_CFG: LOG2N is taken while EN was 0; setting EN starts the area. -/
def Area.configure {α : Type} (a : Area α) (cfg : Word) : Area α :=
  let en := cfg.getLsbD 16
  { a with
    log2n := if a.enabled then a.log2n else cfg.extractLsb' 0 5
    vector := (cfg.extractLsb' 8 5).toFin, enabled := en
    head := if en && !a.enabled then 0 else a.head
    tail := if en && !a.enabled then 0 else a.tail }

/-- A CFG register is written; what is held may go out. A context's area is set by CQ_SET and has no such register. -/
def State.writeCfg (s : State) (n : Nat) (a : AreaRef) (cfg : Word) : State :=
  match a with
  | .fnCq =>
    let s1 := s.modFn n fun f => { f with cq := f.cq.configure cfg }
    s1.drainCompletions n none (s1.fnOf n).cq.held.length
  | .fault =>
    let s1 := s.modFn n fun f => { f with fault := f.fault.configure cfg }
    s1.drainFaults n (s1.fnOf n).fault.held.length
  | .event =>
    let s1 := s.modFn n fun f => { f with event := f.event.configure cfg }
    s1.drainEvents n (s1.fnOf n).event.held.length
  | .ctxCq _ => s

/-- AREA_ENABLE. -/
def execAreaEnable (fn : Fin 257) (a : AreaRef) (cfg : Word) (s : State) : Out :=
  match a with
  | .ctxCq _ => .refused .illFormed
  | _ => .next (s.writeCfg fn.val a cfg)

/-- FN_STORE is written (R308). -/
def State.writeFnStore (s : State) (n : Nat) (v : DWord) : State :=
  let f := s.fnOf n
  if f.storeEn then
    if v.getLsbD 0 || s.anyOutstanding n none then s else s.setFn n { f with storeEn := false }
  else
    let g := { f with storeBase := v &&& 0xFFFFFFFFFFFFF000 }
    s.setFn n (if v.getLsbD 0 then { g with storeEn := true, streams := [] } else g)

/-- FN_STORE_ENABLE. -/
def execFnStoreEnable (fn : Fin 257) (v : DWord) (s : State) : Out := .next (s.writeFnStore fn.val v)

/-! ## Bus mastering and the link (R308, R328) -/

/-- BUS_MASTER_ENABLE: what is held is posted in order, then the queued records are checked in order. -/
def execBusMasterEnable (fn : Fin 257) (s : State) : Out :=
  let n := fn.val
  let q := (s.fnOf n).queued
  let s1 := (s.modFn n fun f => { f with busMaster := true, queued := [] }).drainAll n
  .next (q.foldl (fun acc r => acc.checkRecord n r.2) s1)

/-- PCIE_LINK_DOWN: every function's configuration space is reset, which clears Bus Master Enable. -/
def execPcieLinkDown (s : State) : Out :=
  .next { s with fns := tmapIf Func.reset s.fns (fun _ => true) fun f => { f with busMaster := false } }

/-! ## Tokens (R339) -/

/-- TOKEN_REFILL: each bucket gains RATE tokens, up to BURST. -/
def execTokenRefill (s : State) : Out :=
  .next { s with ctxs := tmapIf Context.absent s.ctxs (fun _ => true) fun c =>
    if c.bucket then { c with tokens := Nat.min (c.tokens + c.rate) c.burst } else c }

end Sys2Proof.Machine
end

