-- ==== Sys2Proof/Machine/Launch.lean ====
section
/-! DEFINITION. LAUNCH (R30, R31, R36, R37, R112, R113, R145, R316, R317, R331, R339): the launch record, its checks, the
conformance of a C0 launch, and the start of its dispatch. -/

namespace Sys2Proof.Machine

/-- `n` bytes of a launch record from byte `i`. -/
def lrec (b : List Byte) (i n : Nat) : Nat := leNat ((b.drop i).take n)

/-- The fields of R316 that decide the shape. -/
def lrecGroups (b : List Byte) : Nat := lrec b 24 1 % 16 + 1
def lrecRegs (b : List Byte) : Nat := 16 * (lrec b 24 1 / 16 % 4 + 1)
def lrecQuern (b : List Byte) : Bool := (lrec b 24 1).testBit 6
def lrecGang (b : List Byte) : Bool := (lrec b 24 1).testBit 7
def lrecChset (b : List Byte) : Word := BitVec.ofNat 32 (lrec b 20 4)

/-- The channels of a set in ascending order. -/
def chansOf (set : Word) : List Nat := (List.range 32).filter fun i => set.getLsbD i

/-- A monitor index of the record fits the context's area (R145). -/
def monOk (c : Context) (i : Nat) : Bool :=
  decide (i = 0xFFFF) || (match c.mon with | some m => decide (i < m.2.1) | none => false)

/-- The record passes R317. One whose groups and registers are each in range but need more than 16 units passes too, and waits for ever (R30, R37;
DEDUCED, notes/assumptions/51.md). -/
def lrecOk (c : Context) (b : List Byte) : Bool :=
  let set := lrecChset b
  decide (lrec b 25 1 < 2) && decide (lrec b 34 30 = 0) && decide (lrec b 96 32 = 0) && decide (lrec b 0 8 % 8 = 0)
    && decide (lrec b 16 4 ≠ 0) && decide (lrec b 26 2 ≤ 16384) && decide (set ≠ 0) && decide (set &&& ~~~c.chset = 0)
    && (!lrecGang b || (lrecQuern b && decide (lrec b 16 4 % (256 * popcount set) = 0)))
    && monOk c (lrec b 28 2) && monOk c (lrec b 30 2) && monOk c (lrec b 32 2)

/-- The ranges of blocks: channel, first block, and the end (R31). -/
def shares (grid : Nat) (chans : List Nat) : List (Nat × Nat × Nat) :=
  let n := Nat.max 1 chans.length
  (chans.foldl (fun (acc : List (Nat × Nat × Nat) × Nat × Nat) ch =>
    let size := grid / n + if acc.2.1 < grid % n then 1 else 0
    (acc.1 ++ [(ch, acc.2.2, acc.2.2 + size)], acc.2.1 + 1, acc.2.2 + size)) ([], 0, 0)).1

/-- Unended blocks of effective class C0 of a context on a channel (R339). -/
def State.unendedC0 (s : State) (k ch : Nat) : Nat :=
  let mine (b : Block) : Bool := decide (b.ctx.val = k) && decide (b.eff = 0)
  (s.launches.map fun l => if l.2.live && !l.2.ended && decide (l.2.ctx.val = k) && decide (l.2.eff = 0) then
      (tget (0, 0) l.2.next ch).2 - (tget (0, 0) l.2.next ch).1 else 0).sum
    + (s.cores.map fun c => if channelOfCore c.1 = ch then (c.2.liveBlocks.filter fun b => mine b.2).length else 0).sum
    + ((s.ctx k).saved.filter fun b => decide (channelOfCore b.core = ch) && mine b.block).length

/-- A launch conforms (R339). -/
def State.launchConforms (s : State) (k grid : Nat) (ranges : List (Nat × Nat × Nat)) : Bool :=
  decide (grid ≤ (s.ctx k).tokens)
    && ranges.all fun r => decide (s.unendedC0 k r.1 + (r.2.2 - r.2.1) ≤ (s.ctx k).reserve)

/-- Cores of a channel that a launch of a class may use (R36). -/
def State.roomCores (s : State) (k : Nat) (eff : Fin 4) (ch : Nat) : Nat :=
  ((reserveOrder ch).filter fun i => s.available i && !s.drains i && s.allotted k eff i).length

/-- A cluster of a channel whose 256 presented cores are available and allotted (R113). -/
def State.gangCluster (s : State) (k : Nat) (eff : Fin 4) (ch : Nat) : Bool :=
  (List.range 128).any fun i => (List.range 256).all fun j =>
    let c := 32768 * ch + 256 * i + j
    s.available c && s.allotted k eff c

/-- The NO_ROOM checks (R36, R113, R331). -/
def State.noRoom (s : State) (k : Nat) (eff : Fin 4) (l : Launch) (ranges : List (Nat × Nat × Nat)) : Bool :=
  let per := l.blocksPerCore
  let ceiling := (s.ctx k).ceiling
  let size (r : Nat × Nat × Nat) : Nat := r.2.2 - r.2.1
  (l.cores && ((ranges.any fun r => decide (s.roomCores k eff r.1 * per < size r))
      || decide (ceiling < (ranges.map fun r => (size r + per - 1) / Nat.max 1 per).sum)))
    || (l.gang && ((ranges.any fun r => !s.gangCluster k eff r.1) || decide (ceiling < 256)
      || (l.cores && decide (ceiling < l.grid))))

/-- A launch from its record, before its class is decided. -/
def launchFrom (c : CmdRef) (x : Cmd) (y : Context) (b : List Byte) (stamp : Nat) : Launch :=
  { Launch.none with
    live := true, ctx := c.ctx.getD 0, stream := c.stream, seq := x.seq, tag := x.tag, program := BitVec.ofNat 64 (lrec b 0 8)
    argptr := BitVec.ofNat 64 (lrec b 8 8), grid := lrec b 16 4, chset := lrecChset b, groups := lrecGroups b, regs := lrecRegs b
    quern := lrecQuern b, gang := lrecGang b, cores := (lrec b 25 1).testBit 0, lm := lrec b 26 2
    monA := BitVec.ofNat 16 (lrec b 28 2), monB := BitVec.ofNat 16 (lrec b 30 2), monCvt := BitVec.ofNat 16 (lrec b 32 2)
    monArea := y.mon, args := (List.range 8).map (fun i => BitVec.ofNat 32 (lrec b (64 + 4 * i) 4)), eff := x.eff, stamp := stamp }

/-- The dispatch of a checked launch: conformance first, then room, then tokens (R339). -/
def State.dispatch (s : State) (c : CmdRef) (x : Cmd) (b : List Byte) : Option Verdict × State :=
  let k := refContext c
  let f := s.stamp
  let l := launchFrom c x (s.ctx k) b f.1
  let ranges := shares l.grid (chansOf l.chset)
  let conforms := f.2.launchConforms k l.grid ranges
  let demoted := decide (x.eff = 0) && !conforms
  let eff : Fin 4 := if demoted then 1 else x.eff
  if f.2.noRoom k eff l ranges then (some (fails stNoRoom), s)
  else
    let s1 := f.2.modCtx k fun y =>
      if demoted then { y with demoted := satAdd y.demoted 1 }
      else if x.eff = 0 then { y with tokens := y.tokens - l.grid } else y
    let s2 := s1.setLaunch f.1 { l with eff := eff, next := ranges.foldl (fun t r => tput t r.1 r.2) [] }
    (none, s2.modCmd c x.stamp fun z => { z with launchId := some f.1, eff := eff, demoted := demoted })

/-- LAUNCH: the record is read once; a bad one places no block. -/
def execLaunch (c : CmdRef) (s : State) : Out :=
  starting c 0x01 s fun x s =>
    let k := refContext c
    let va := recNat x.record 16 8
    let p := s.pinRange k va 128 false
    match p.1.2 with
    | some f => (some (translationFault f), p.2)
    | none =>
      let r := p.2.readRange p.1.1 va 128
      if r.1.2.1.isSome || r.1.2.2.isSome then (some (fails stPoisoned), r.2)
      else if !lrecOk (r.2.ctx k) r.1.1 then (some (fails stInvalidArgument), r.2)
      else r.2.dispatch c x r.1.1

end Sys2Proof.Machine
end

