-- ==== Sys2Proof/Machine/Tenants.lean ====
section
/-! DEFINITION. Tenants (R330 to R339, R347 to R349, R352, R353): contexts and their resets, quotas and grants, function-level
reset, cluster reset. -/

namespace Sys2Proof.Machine

/-! ## Resetting and destroying a context (R348, R352) -/

/-- An outstanding command of a context that is reset: a launch in progress ends as its blocks do, a captured SUMMARY and a
completed command stand, anything else is done with ABORTED. -/
def Cmd.abort (x : Cmd) : Cmd :=
  if x.stage = .done || x.isSummary || (decide (x.stage = .started) && x.launchId.isSome) then x else x.finish (fails stAborted)

/-- The commands that a reset of the context aborts. -/
def Context.abortees (c : Context) : List Cmd :=
  (outstandingOf c.streams).filter fun x => decide (x.stage ≠ .done) && !x.isSummary

/-- Queued descriptors of a context are dropped; a started one stops after its lines in flight (R354). -/
def State.dropDescs (s : State) (k : Nat) : State :=
  let mine := (s.clusters.filter fun c => (c.2.forming ++ c.2.queue).any fun d => decide (d.ctx.val = k)).map Prod.fst
  mine.foldl (fun acc cl =>
    (acc.modCluster cl fun c =>
      { c with
        forming := c.forming.filter fun d => !decide (d.ctx.val = k)
        queue := (c.queue.filter fun d => !decide (d.ctx.val = k) || d.started).map fun d =>
          if d.ctx.val = k then { d with next := d.length } else d }).reform cl) s

/-- Every object that a context owns is freed (R186). -/
def State.freeObjsOf (s : State) (k : Nat) : State :=
  (s.objs.filter fun o => o.2.alloc && decide (o.2.owner.val = k)).foldl (fun acc o => acc.freeObj o.1) s

/-- The launches of a context that have not been posted. -/
def State.launchesOf (s : State) (k : Nat) : List Nat :=
  (s.launches.filter fun l => l.2.live && decide (l.2.ctx.val = k)).map Prod.fst

/-- The work of a context ends: commands, blocks, saved blocks, descriptors, objects, fault entries. -/
def State.endWork (s : State) (k : Nat) : State :=
  let s1 := s.modCtx k fun c =>
    { c with
      aborted := c.abortees.length
      streams := tmapIf Stream.fresh c.streams (fun _ => true) fun x => { x with cmds := x.cmds.map Cmd.abort } }
  let s2 := (s1.launchesOf k).foldl (fun acc l => if (acc.launchOf l).ended then acc else acc.abortLaunch l .dropped) s1
  let s3 := (s2.dropDescs k).freeObjsOf k
  { s3 with
    chans := tmapIf Channel.ready s3.chans (fun _ => true) fun c => { c with faults := c.faults.filter fun f => !decide (f.ctx.val = k) }
    fns := tmapIf Func.reset s3.fns (fun _ => true) fun f =>
      { f with fault := { f.fault with held := f.fault.held.filter fun r => !decide (r.ctx.val = k) } }
    signals := s3.signals.filter fun x => !decide (x.1.val = k) }

/-- A reset or destroy of an active context begins (R352). -/
def State.beginReset (s : State) (k : Nat) (st : CtxState) : State := (s.endWork k).modCtx k fun c => { c with state := st }

/-- The command joins a reset in progress (R353). -/
def State.joinReset (s : State) (c : CmdRef) (x : Cmd) : State := s.modCmd c x.stamp fun y => { y with joined := true }

/-- CTX_RESET. -/
def execCtxReset (c : CmdRef) (s : State) : Out :=
  starting c 0x12 s fun x s =>
    let k := recNat x.record 12 2
    match s.namesContext c.fn.val k with
    | some st => (some (fails st), s)
    | none =>
      if (s.ctx k).state = .active then (none, s.beginReset k .resetting) else (none, s.joinReset c x)

/-- CTX_DESTROY; it takes over a reset in progress. -/
def execCtxDestroy (c : CmdRef) (s : State) : Out :=
  starting c 0x11 s fun x s =>
    let k := recNat x.record 12 2
    match s.namesContext c.fn.val k with
    | some st => (some (fails st), s)
    | none =>
      if (s.ctx k).state = .active then (none, s.beginReset k .destroying)
      else (none, (s.joinReset c x).modCtx k fun y => { y with state := .destroying })

/-- The CTX_RESET and CTX_DESTROY commands of a context complete; the one that began the reset carries the count of aborted
commands (R332, R353). -/
def State.endResets (s : State) (k count : Nat) : State :=
  let fin (y : Cmd) : Cmd :=
    if (y.opcode = 0x11 || y.opcode = 0x12) && decide (y.stage = .started) && decide (recNat y.record 12 2 = k) then
      y.finish (succeeds (if y.opcode = 0x12 && !y.joined then count else 0))
    else y
  { s with fns := tmapIf Func.reset s.fns (fun _ => true) fun f =>
      { f with streams := tmapIf Stream.fresh f.streams (fun _ => true) fun x => { x with cmds := x.cmds.map fin } } }

/-- Nothing of a context's work is left: its launches have ended and their accesses are performed, and no engine works for
it. -/
def State.workEnded (s : State) (k : Nat) : Bool :=
  ((s.launchesOf k).all fun l => (s.launchOf l).ended && !s.launchPending l)
    && !(s.clusters.any fun c => (c.2.forming ++ c.2.queue).any fun d => decide (d.ctx.val = k))

/-- A destroyed context leaves nothing. -/
def State.dropContext (s : State) (k : Nat) : State :=
  let s1 : State :=
    { s with
      launches := s.launches.filter fun l => !(l.2.live && decide (l.2.ctx.val = k))
      clusters := tmapIf Cluster.idle s.clusters (fun _ => true) fun c => c.tlbDrop k fun _ => true
      chans := tmapIf Channel.ready s.chans (fun _ => true) fun c =>
        { c with walks := c.walks.filter fun w => !decide (w.key.context.val = k) } }
  -- the number keeps its last function, to which late charges of energy go (R393)
  s1.modCtx k fun c => { Context.absent with fn := c.fn }

/-- CONTEXT_CLEANUP_END: the reset or destroy ends once its work and, for a context that is destroyed, its records have gone;
CONTEXT_NOTICE is posted (R348, R355). -/
def execContextCleanupEnd (ctx : Fin 2048) (s : State) : Out :=
  let k := ctx.val
  let c := s.ctx k
  let gone := c.state = .destroying
  enabled ((decide (c.state = .resetting) || decide gone) && s.workEnded k && (!decide gone || decide (outstandingOf c.streams = [])))
      "no cleanup of the context can end" <|
    let fn := c.fn.val
    let s1 := (s.contextNotice k 0xFF (if gone then 2 else 1) c.aborted).endResets k c.aborted
    let s2 := if gone then s1.dropContext k else s1.modCtx k fun y => { y with state := .active, aborted := 0 }
    let s3 := (chansOf c.chset).foldl (fun acc ch => acc.rebuild ch) s2
    .next (s3.modFn fn fun f => { f with cleaning := f.cleaning && decide (s3.contextsOf fn ≠ []) })

/-! ## Creating a context (R330 to R332) -/

/-- The lowest free context number. -/
def State.freeCtx (s : State) : Option Nat := (List.range 2048).find? fun k => decide ((s.ctx k).state = .absent)

/-- Contexts that hold a channel in their set. -/
def State.contextsOn (s : State) (ch : Nat) : Nat :=
  (s.ctxs.filter fun c => decide (c.2.state ≠ .absent) && c.2.chset.getLsbD ch).length

/-- A context made from a record. -/
def contextFrom (fn : Fin 257) (r : BitVec 512) : Context :=
  let m := recNat r 44 1
  { Context.absent with
    state := .active, fn := fn, chset := BitVec.ofNat 32 (recNat r 12 4), segs := tset Segment.none [] 0 (descSegment r)
    save := BitVec.ofNat 64 (recNat r 32 8), ceiling := recNat r 40 4, flush := m.testBit 0, satNaR := m.testBit 1, plane := m.testBit 2 }

/-- The save area lies within segment 0 (R331). -/
def Context.saveInside (c : Context) : Bool :=
  let g := tget Segment.none c.segs 0
  g.valid && decide (g.start ≤ c.save.toNat) && decide (c.save.toNat + c.saveBytes ≤ g.start + g.bytes)

/-- CTX_CREATE; it ends the rest of the channels of its set (R401). -/
def execCtxCreate (c : CmdRef) (s : State) : Out :=
  starting c 0x10 s fun x s =>
    let fn := c.fn.val
    let new := contextFrom c.fn x.record
    let bad := s.segmentBad new fn 0 x.record
    if (chansOf new.chset).any (fun ch => decide ((s.chan ch).state = 4)) || bad = some stInvalidArgument || !new.saveInside then
      (some (fails stInvalidArgument), s)
    else if (s.fnOf fn).cleaning then (some (fails stBusy), s)
    else if bad = some stNotPermitted then (some (fails stNotPermitted), s)
    else
      match s.freeCtx with
      | none => (some (fails stNoResource), s)
      | some k =>
        if (chansOf new.chset).any (fun ch => decide (64 ≤ s.contextsOn ch))
            || (decide (fn ≠ 0) && decide ((s.fnOf fn).maxCtx ≤ (s.contextsOf fn).length)) then (some (fails stNoResource), s)
        else
          let p := (s.setCtx k new).pinRange k new.save.toNat new.saveBytes true
          match p.1.2 with
          | some f => (some (translationFault f), p.2.setCtx k (s.ctx k))
          | none =>
            let s1 := p.2.modCtx k fun y => { y with savePages := p.1.1 }
            (some (succeeds k), (chansOf new.chset).foldl (fun acc ch =>
              acc.modChan ch fun y => { y with rest := false, selfRefresh := y.selfRefresh && !y.rest }) s1)

/-! ## Classes, quotas, grants (R332 to R336, R339) -/

/-- Cores that other contexts reserve on a channel, those of C0 contexts and those of one function. -/
def State.reservesOn (s : State) (k ch : Nat) (p : Context → Bool) : Nat :=
  ((s.ctxs.filter fun c => decide (c.1 ≠ k) && decide (c.2.state ≠ .absent) && c.2.chset.getLsbD ch && p c.2).map
    fun c => c.2.reserve).sum

/-- CTX_CLASS: the bucket is filled to BURST, and the reservations are brought up to date. -/
def execCtxClass (c : CmdRef) (s : State) : Out :=
  starting c 0x13 s fun x s =>
    let r := x.record
    let k := recNat r 12 2
    match s.namesContext c.fn.val k with
    | some st => (some (fails st), s)
    | none =>
      let y := s.ctx k
      let f := s.fnOf y.fn.val
      let cls := recNat r 14 1
      let reserve := recNat r 16 2
      let chans := chansOf y.chset
      if (decide (y.fn.val ≠ 0) && decide (cls < f.minClass.val)) || (decide (reserve ≠ 0) && decide (cls ≠ 0)) then
        (some (fails stNotPermitted), s)
      else if chans.any fun ch => decide (8192 < s.reservesOn k ch (fun z => decide (z.cls = 0)) + reserve)
          || (decide (y.fn.val ≠ 0) && decide (f.maxRes < s.reservesOn k ch (fun z => decide (z.fn = y.fn)) + reserve)) then
        (some (fails stNoResource), s)
      else
        let s1 := s.setCtx k { y with
          cls := (BitVec.ofNat 2 cls).toFin, weight := BitVec.ofNat 8 (recNat r 15 1), reserve := reserve, rate := recNat r 20 4
          burst := recNat r 24 4, bucket := decide (cls = 0), tokens := if cls = 0 then recNat r 24 4 else 0 }
        (some (succeeds 0), chans.foldl (fun acc ch => acc.rebuild ch) s1)

/-- FN_QUOTA. -/
def execFnQuota (c : CmdRef) (s : State) : Out :=
  starting c 0x14 s fun x s =>
    let r := x.record
    (some (succeeds 0), s.modFn (recNat r 12 2) fun f =>
      { f with minClass := (BitVec.ofNat 2 (recNat r 14 1)).toFin, maxCtx := recNat r 16 2, maxRes := recNat r 18 2 })

/-- FN_GRANT: a grant that is cleared or shrinks invalidates every context of the function (R334). -/
def execFnGrant (c : CmdRef) (s : State) : Out :=
  starting c 0x15 s fun x s =>
    let r := x.record
    let fn := recNat r 12 2
    let i := recNat r 14 1
    let old := tget none (s.fnOf fn).grants i
    let new := if recNat r 15 1 = 1 then some (recNat r 16 8, recNat r 24 8) else none
    let shrinks := match old, new with
      | some a, some b => decide (a.1 < b.1) || decide (b.1 + b.2 < a.1 + a.2)
      | some _, none => true
      | none, _ => false
    let s1 := s.modFn fn fun f => { f with grants := tset none f.grants i new }
    if shrinks then (none, s1.invalidating c x (s1.contextsOf fn) 0 0) else (some (succeeds 0), s1)

/-! ## Function-level reset (R349) -/

/-- The registers and MSI-X state of a function are reset; its quota and grants stay, and so do its energy accumulators. -/
def Func.levelReset (f : Func) (cleaning : Bool) : Func :=
  { Func.reset with
    minClass := f.minClass, maxCtx := f.maxCtx, maxRes := f.maxRes, grants := f.grants, energy := f.energy
    energyMicro := f.energyMicro, cleaning := cleaning }

/-- A context goes with its function: its commands get no record. -/
def State.flrContext (s : State) (k : Nat) : State :=
  let s1 := if (s.ctx k).state = .active then s.beginReset k .destroying else s.modCtx k fun c => { c with state := .destroying }
  s1.modCtx k fun c => { c with streams := [], cq := .off }

/-- FUNCTION_LEVEL_RESET. -/
def execFunctionLevelReset (fn : Fin 257) (s : State) : Out :=
  let ks := s.contextsOf fn.val
  .next (ks.foldl (fun acc k => acc.flrContext k) (s.modFn fn.val fun f => f.levelReset (decide (ks ≠ []))))

/-! ## Cluster reset (R347) -/

/-- A cluster's lines that are newer than their slices' are written back, and its cache and TLB are emptied. The reset waits for the
slices' acknowledgements. -/
def State.emptyCluster (s : State) (k : Nat) : State :=
  let agent : Agent := .cluster (BitVec.ofNat 12 k).toFin
  let dirty := (s.cluster k).lines.filter fun e => decide (e.2.state = .m) || decide (e.2.state = .o)
  let s1 := dirty.foldl (fun acc e =>
    let l : LineAddr := BitVec.ofNat 50 e.1
    acc.takeWb { Msg.blank .wb l agent (.slice (BitVec.ofNat 5 (lineChan l)).toFin) with
      data := e.2.data, poison := e.2.poison, hasData := true, cls := e.2.cls }) s
  ({ s1 with msgs := s1.msgs.filter fun m => !(decide (m.dst = agent) && decide (m.kind = .wbAck)) } : State).modCluster k fun c =>
    { c with lines := [], plru := [], lostSets := [], tlb := [], tlbPlru := 0, poisonings := [], resetPending := false }

/-- The cluster is empty for its reset: no block, no access outstanding, every line at rest. -/
def State.clusterEmpty (s : State) (k : Nat) : Bool :=
  ((List.range 256).all fun i => decide ((s.core (256 * k + i)).liveBlocks = []) && (s.core (256 * k + i)).drained)
    && decide ((s.cluster k).txns = []) && (s.cluster k).lines.all fun e => s.quiet (BitVec.ofNat 50 e.1)

/-- The CLUSTER_RESET commands of a cluster: their reset has run. -/
def State.noteClusterReset (s : State) (ch cl : Nat) : State :=
  let mark (y : Cmd) : Cmd :=
    if y.opcode = 0x17 && decide (y.stage = .started) && decide (recNat y.record 12 1 = ch) && decide (recNat y.record 13 2 = cl) then
      { y with joined := true } else y
  { s with fns := tmapIf Func.reset s.fns (fun _ => true) fun f =>
      { f with streams := tmapIf Stream.fresh f.streams (fun _ => true) fun x => { x with cmds := x.cmds.map mark } } }

/-- CLUSTER_RESET: the command starts the reset, and the cluster's cores drain; the reset of a cluster that is due, and has
saved its blocks, runs (R347). A channel that is being reset takes the command over (R353). -/
def execClusterReset (ch : Fin 32) (cl : Fin 128) (c : Option CmdRef) (s : State) : Out :=
  let k := clusterId ch cl
  match c with
  | some c =>
    match s.cmdOf c fun x => decide (x.opcode = 0x17) && decide (x.stage = .accepted) with
    | none => enabled false "no such command waits to start" (.next s)
    | some x =>
      enabled (decide (recNat x.record 12 1 = ch.val) && decide (recNat x.record 13 2 = cl.val)) "the command names another cluster" <|
        starting c 0x17 s fun _ s =>
          let st := (s.chan ch.val).state
          if st = 0 ∨ st = 4 then (some (fails stInvalidArgument), s)
          else if st = 1 then (none, s)
          else (none, (s.modCluster k fun y => { y with resetPending := true }).rebuild ch.val)
  | none =>
    enabled ((s.cluster k).resetPending && s.clusterEmpty k && s.up ch.val) "no reset of the cluster can run" <|
      let s1 := s.emptyCluster k
      let s2 := (List.range 256).foldl (fun acc i => if (acc.core (256 * k + i)).rotation = 0 then acc
        else acc.modCore (256 * k + i) fun y => { y with rotation := 0 }) s1
      .next ((s2.noteClusterReset ch.val cl.val).rebuild ch.val)

end Sys2Proof.Machine
end

