-- ==== Sys2Proof/Machine/Power.lean ====
section
/-! DEFINITION. Power, heat and pace (R13, R16, R298, R384 to R405, R445): the pace a device can sustain, the applied pace, the
Governor and its curves, trips, hold and the coolant stop, energy. -/

namespace Sys2Proof.Machine

/-! ## The pace (R387 to R392) -/

/-- The field-bus EVENT for a change of 0x7030 (R402). -/
def State.coolantEvent (s : State) : State :=
  s.busEvent 0 0xFF (BitVec.ofNat 64 ((if s.hub.coolant then 1 else 0) + if s.hub.trip then 2 else 0))

/-- An entry changes its value: its change count rises (R379). Counts are kept for the entries that a write can change. -/
def State.noteChange (s : State) (idx sub : Nat) : State :=
  s.setHub fun h => { h with changes := tmod 0 h.changes (256 * idx + sub) (· + 1) }

/-- The loops start again from PACE_START (R390, R398). -/
def State.restartPace (s : State) : State :=
  let p := s.hub.inForce.paceStart
  ({ s with
    hub := { s.hub with pPower := p }
    chans := (List.range 32).foldl (fun t ch => tmod Channel.ready t ch fun c => { c with pTherm := p }) s.chans }).repace

/-- PACE_REPORT arrives. -/
def execPaceReport (from_ : Fin 512) (pace : BitVec 16) (seqNo : DWord) (s : State) : Out := .next (s.takePace from_ pace seqNo)

/-- PACE_REPORT_TIMER: by the reference counter of the lowest-numbered available channel (R298). -/
def execPaceReportTimer (s : State) : Out :=
  enabled (decide (s.upChans ≠ [])) "no channel is available" <| .next (s.sendPace s.hub.sustainable)

/-- PACE_PEER_STALE: the peer leaves the minimum and is reported (R298, R392). -/
def execPacePeerStale (n : Fin 512) (s : State) : Out :=
  enabled ((tget PeerPace.none s.hub.peers n.val).fresh && s.hub.inForce.peerMask.getLsbD n.val) "no report of a peer has aged" <|
    .next (((s.setHub fun h => { h with peers := tmod PeerPace.none h.peers n.val fun p => { p with fresh := false } }).ownerEvent
      6 0xFF 0 (BitVec.ofNat 64 n.val)).repace)

/-- The step of R387 and R388: down while over, up to PACE_TARGET while well under, never below 0x0100. -/
def paceStep (p : BitVec 16) (target : Nat) (beyond under : Bool) : BitVec 16 :=
  if beyond then BitVec.ofNat 16 (Nat.max (p.toNat - 0x40) 0x100)
  else if under && decide (p.toNat < target) then BitVec.ofNat 16 (Nat.min (p.toNat + 0x10) target)
  else p

/-- p_therm(c) from the readings, in units of 0.125 °C (R388). -/
def Channel.thermStep (c : Channel) (d : Dict) : Channel :=
  let tj : Int := 8 * d.tjLimit.toNat
  let st : Int := 8 * d.stackLimit.toNat
  { c with
    pTherm := paceStep c.pTherm d.paceTarget.toNat (decide (tj < c.hottestDie) || decide (st < c.hottestStack))
      (decide (c.hottestDie ≤ tj - 16) && decide (c.hottestStack ≤ st - 16)) }

/-- `a` moved towards `b` by at most `n`. -/
def towards (a b n : Nat) : Nat := if a ≤ b then Nat.min b (a + n) else Nat.max b (a - n)

/-- A step of the rail's setting towards `v`, by at most 10 mV: RAIL_SETTLING reads 1 until the rail is within 2 mV of its new setting
(R16). -/
def Channel.stepRail (c : Channel) (v : Nat) : Channel :=
  let w := towards c.railMilliVolts v 10
  { c with railMilliVolts := w, railSettling := decide (towards c.railNow w 2 ≠ w) }

/-- The rail has reached its setting: a step takes at most 1 µs at 10 mV/µs (R16). -/
def Channel.settleRail (c : Channel) : Channel := { c with railNow := c.railMilliVolts, railSettling := false }

/-- At most `n` steps towards `v`, each begun when the one before has settled (R16). -/
def Channel.rampRail (v : Nat) : Nat → Channel → Channel
  | 0, c => c
  | n + 1, c => Channel.rampRail v n (c.stepRail v).settleRail

/-- The rails of channels in hold step down to 0.40 V (R397, R402 step 4): 350 mV take at most 35 steps. -/
def State.holdRails (s : State) : State :=
  ((List.range 32).filter fun ch => s.up ch && s.inHold ch && decide ((s.chan ch).railMilliVolts ≠ 400)).foldl
    (fun acc ch => acc.modChan ch fun c => c.rampRail 400 (c.railMilliVolts + 400)) s

/-- A power interval is long enough for every step of a rail to have settled (R16, R387). -/
def State.settleRails (s : State) : State :=
  (s.upChans.filter fun ch => (s.chan ch).railSettling).foldl (fun acc ch => acc.modChan ch Channel.settleRail) s

/-- POWER_INTERVAL, with the mean input power in milliwatts (R5, R387, R404). The entries take effect; while PACE_TARGET is 0 the
loops hold their values. -/
def execPowerInterval (meanPower milliVolts : Nat) (s : State) : Out :=
  enabled s.hub.powered "the module is unpowered" <|
    let d := s.hub.dict
    let current := 125 * milliVolts
    let limit := Nat.min (1000 * d.powerLimit.toNat) current
    let beyond := decide (limit < meanPower)
    let target := d.paceTarget.toNat
    let held := decide (target = 0)
    let s1 := s.setHub fun h =>
      { h with
        inForce := d, inputMilliVolts := BitVec.ofNat 32 milliVolts, powerMeans := (meanPower :: h.powerMeans).take 100
        currentBinding := decide (current < 1000 * d.powerLimit.toNat)
        pPower := if held then h.pPower else paceStep h.pPower target beyond (decide (100 * meanPower < 98 * limit))
        powerShort := beyond && decide (h.pPower.toNat ≤ 0x100) }
    let chans := s.upChans.filter fun ch => !held && decide ((s.chan ch).pTherm ≠ (((s.chan ch).thermStep d).pTherm))
    .next ((chans.foldl (fun acc ch => acc.modChan ch fun c => c.thermStep d) s1).settleRails.repace.holdRails)

/-! ## The Governor (R385, R386, R391, R445) -/

/-- The corner rates that a curve gives, extrapolated by the typical table (R13, R14): slow at 0.45 V, nominal at 0.60 V, fast at
0.75 V. -/
def cornersOk (curve : List (BitVec 16)) : Bool :=
  let at_ (i : Nat) : Nat := (curve.getD i 0).toNat
  decide (58 * 4096 ≤ 100 * at_ 1) && decide (4096 ≤ at_ 4) && decide (13 * 4096 ≤ 10 * at_ 7)

/-- The rates of a curve rise with the rail voltage, the one bound that the spec sets (R450). -/
def rising : List (BitVec 16) → Bool
  | a :: b :: t => decide (a.toNat < b.toNat) && rising (b :: t)
  | _ => true

/-- A rate between a lower bound and the greatest value that leaves room for the points above it, by a free value (R450). -/
def rateBetween (lo hi f : Nat) : BitVec 16 := BitVec.ofNat 16 (lo + f % (hi + 1 - lo))

/-- The measured curve is taken, and the corners are checked (R445). -/
def Channel.takeCurve (c : Channel) (curve : List (BitVec 16)) : Channel :=
  { c with curve := curve.take 8, curveClear := false, points := [], state := if c.state = 2 && !cornersOk curve then 3 else c.state }

/-- The lowest rail that the curve gives for a pace, and whether the stretch is in force (R386). Between two points of the curve the
spec states no interpolation, so the rail is a free value there. -/
def State.railFor (s : State) (ch pace : Nat) : (Nat × Bool) × State :=
  let c := s.chan ch
  if pace ≤ (c.curve.getD 0 0).toNat then ((400, decide (pace < (c.curve.getD 0 0).toNat)), s)
  else
    let i := ((List.range 8).filter fun i => decide ((c.curve.getD i 0).toNat < pace)).length
    let f := s.takeFree
    ((Nat.min 750 (400 + 50 * (i - 1) + f.1.toNat % 51), false), f.2)

/-- A channel's rail starts at the voltage for a pace (R390). -/
def State.startRail (s : State) (ch pace : Nat) : State :=
  let r := s.railFor ch pace
  r.2.modChan ch fun c => { c with railMilliVolts := r.1.1, railNow := r.1.1, railSettling := false, stretch := r.1.2 }

/-- PACEMON_WINDOW: FAB_PACEMON takes the rates of the window (R13, R25). -/
def execPacemonWindow (ch : Fin 32) (low mean : BitVec 16) (s : State) : Out :=
  enabled (s.up ch.val && (s.chan ch.val).refRunning && !(s.chan ch.val).issueStopped) "the pace monitors do not run" <|
    .next (s.modChan ch.val fun c => { c.settleRail with paceMin := low, paceMean := mean })

/-- GOVERNOR_EPOCH: temperatures are sampled, a point is recorded, and the rail, which has settled from the step before, steps by at
most 10 mV (R16, R385, R386, R388, R391). How far it steps is open, a free value; the readings are in units of 0.125 °C. -/
def execGovernorEpoch (ch : Fin 32) (low : BitVec 16) (die stack : Int) (s : State) : Out :=
  let k := ch.val
  let c := s.chan k
  enabled (s.up k && c.refRunning) "the Governor does not run" <|
    let f := s.takeFree
    let step := 1 + f.1.toNat % 10
    let pace := s.hub.applied.toNat
    let slow := decide (pace < (c.curve.getD 0 0).toNat)
    let c1 := { c.settleRail with
      hottestDie := die, hottestStack := stack
      points := if s.inHold k then c.points else c.points ++ [(c.railMilliVolts, die, low)]
      stretch := slow && decide (c.railMilliVolts = 400) }
    .next (f.2.setChan k (
      if c.handoff then c1
      else if s.inHold k || slow then c1.stepRail (Nat.max 400 (c.railMilliVolts - step))
      else if low.toNat < pace then c1.stepRail (Nat.min 750 (c.railMilliVolts + step))
      else if 103 * pace < 100 * low.toNat then c1.stepRail (Nat.max 400 (c.railMilliVolts - step))
      else c1))

/-- The greatest rate at point `i` under which the kept points above it still rise (R391 step 3, R450). -/
def Channel.rateBelow (c : Channel) (kept : Nat → Bool) (i : Nat) : Nat :=
  (List.range 8).foldl (fun m j => if i < j ∧ kept j then Nat.min m ((c.curve.getD j 0).toNat - (j - i)) else m) (0xFFFF - (7 - i))

/-- Refit the curve (R391): a point with 64 recorded points near its rail takes a new value, which the spec does not compute; it is
free but for R450: the curve rises. The corners are checked. -/
def State.refit (s : State) (ch : Nat) : State :=
  let c := s.chan ch
  let near (i : Nat) : Nat := (c.points.filter fun p => decide (2 * p.1 ≤ 2 * (400 + 50 * i) + 25) && decide (2 * (400 + 50 * i) ≤ 2 * p.1 + 25)).length
  let r := (List.range 8).foldl (fun (acc : List (BitVec 16) × State) i =>
    if 64 ≤ near i then
      let f := acc.2.takeFree
      let lo := match acc.1.getLast? with | some p => p.toNat + 1 | none => 0
      (acc.1 ++ [rateBetween lo (c.rateBelow (fun j => decide (near j < 64)) i) f.1.toNat], f.2)
    else (acc.1 ++ [c.curve.getD i 0], acc.2)) ([], s)
  r.2.modChan ch fun c =>
    { c with curve := r.1, points := [], state := if c.state = 2 && !cornersOk r.1 then 3 else c.state }

/-- CURVE_REFIT_TIMER. -/
def execCurveRefitTimer (ch : Fin 32) (s : State) : Out :=
  enabled (s.up ch.val && (s.chan ch.val).refRunning && !(s.chan ch.val).handoff) "no refit runs" <| .next (s.refit ch.val)

/-! ## Trips, undervoltage, the coolant stop (R384, R396 to R403) -/

/-- THERMAL_TRIP: 110 °C or more on a die, 100 °C or more on a stack; the readings are in units of 0.125 °C. -/
def execThermalTrip (ch : Fin 32) (die stack : Int) (s : State) : Out :=
  let c := s.chan ch.val
  enabled (s.up ch.val && !c.tripped && (decide (880 ≤ die) || decide (800 ≤ stack))) "the channel does not trip" <|
    let s1 := (s.modChan ch.val fun c =>
      { c with tripped := true, trips := c.trips + 1, hottestDie := die, hottestStack := stack }).setHub fun h => { h with trip := true }
    .next ((if s.hub.trip then s1 else (s1.noteChange 0x7030 1).coolantEvent).holdRails)

/-- TRIP_RECOVERY: both readings at or below their limits. TRIP stays (R396). -/
def execTripRecovery (ch : Fin 32) (die stack : Int) (s : State) : Out :=
  let d := s.hub.inForce
  enabled ((s.chan ch.val).tripped && s.up ch.val && decide (die ≤ 8 * d.tjLimit.toNat) && decide (stack ≤ 8 * d.stackLimit.toNat))
      "the channel has not recovered" <|
    .next (s.modChan ch.val fun c => { c with tripped := false, hottestDie := die, hottestStack := stack })

/-- INPUT_UNDERVOLTAGE. -/
def execInputUndervoltage (s : State) : Out :=
  enabled s.hub.powered "the module is unpowered" <| .next ((s.setHub fun h => { h with undervolt := true }).repace.holdRails)

/-- UNDERVOLTAGE_END. -/
def execUndervoltageEnd (s : State) : Out :=
  enabled (s.hub.powered && s.hub.undervolt) "no undervoltage lasts" <| .next ((s.setHub fun h => { h with undervolt := false }).repace)

/-- COOLANT_FAIL: COOLANT is latched, the sustainable pace is 0, every channel enters hold (R402). -/
def execCoolantFail (s : State) : Out :=
  enabled (s.hub.powered && !s.hub.pin) "the pin is asserted, or the module is unpowered" <|
    let s1 := s.setHub fun h => { h with pin := true, coolant := true, coolantStops := satAdd h.coolantStops 1 }
    .next ((if s.hub.coolant then s1 else s1.noteChange 0x7030 1).coolantEvent.repace.holdRails)

/-- The coolant stop ends once the pin is deasserted and COOLANT is clear (R398, R403). -/
def State.coolantOver (s : State) : State := if s.hub.pin || s.hub.coolant then s else s.restartPace

/-- COOLANT_FAIL_DEASSERT. -/
def execCoolantFailDeassert (s : State) : Out :=
  enabled (s.hub.powered && s.hub.pin) "the pin is not asserted" <| .next ((s.setHub fun h => { h with pin := false }).coolantOver)

/-! ## Energy (R393, R394) -/

/-- Add microjoules to an accumulator of millijoules with its remainder. -/
def addEnergy (milli micro amount : Nat) : Nat × Nat := (milli + (micro + amount) / 1000, (micro + amount) % 1000)

/-- Charge a channel's report, already scaled: a context and its function, or the channel's idle accumulator. -/
def State.charge (s : State) (ch : Nat) (ctx : Option (Fin 2048)) (amount : Nat) : State :=
  let s1 := s.modChan ch fun c =>
    let r := addEnergy c.energy c.energyMicro amount
    { c with energy := r.1, energyMicro := r.2 }
  match ctx with
  | none =>
    (s1.modChan ch fun c =>
      let r := addEnergy c.idle c.idleMicro amount
      { c with idle := r.1, idleMicro := r.2 }).setHub fun h =>
        let r := addEnergy h.deviceIdle h.deviceIdleMicro amount
        { h with deviceIdle := r.1, deviceIdleMicro := r.2 }
  | some k =>
    let s2 := s1.modFn (s1.ctx k.val).fn.val fun f =>
      let r := addEnergy f.energy f.energyMicro amount
      { f with energy := r.1, energyMicro := r.2 }
    if (s2.ctx k.val).state = .absent then s2
    else s2.modCtx k.val fun c =>
      let r := addEnergy c.energy c.energyMicro amount
      { c with energy := r.1, energyMicro := r.2 }

/-- ENERGY_INTERVAL, with the input energy and the channel reports of the interval in microjoules: every charge is scaled by
E_in ÷ ΣE_ch. A retired channel reports nothing. -/
def execEnergyInterval (input : Nat) (reports : List (Fin 32 × Option (Fin 2048) × Nat)) (s : State) : Out :=
  enabled s.hub.powered "the module is unpowered" <|
    let rs := reports.filter fun r => decide ((s.chan r.1.val).state ≠ 4)
    let sum := (rs.map fun r => r.2.2).sum
    let s1 := s.setHub fun h =>
      let r := addEnergy h.deviceEnergy h.deviceMicro input
      { h with deviceEnergy := r.1, deviceMicro := r.2 }
    .next (rs.foldl (fun acc r => acc.charge r.1.val r.2.1 (r.2.2 * input / Nat.max 1 sum)) s1)

end Sys2Proof.Machine
end

