-- ==== Sys2Proof/Machine/Resets.lean ====
section
/-! DEFINITION. Resets and bring-up (R17, R20 to R22, R26, R57, R206, R228, R231, R245, R251, R271, R274, R287, R288, R343 to
R346, R350 to R353, R390, R410, R436, R439, R443 to R448): channel resets, the hub reset with its boot chain, power-on. -/

namespace Sys2Proof.Machine

/-! ## Starting a channel reset (R350 steps 1 and 2) -/

/-- An agent of a channel: its clusters, their move engines, its cores. -/
def agentOf (ch : Nat) : Agent → Bool
  | .cluster k => decide (k.val / 128 = ch)
  | .engine k => decide (k.val / 128 = ch)
  | .core k => decide (channelOfCore k.val = ch)
  | _ => false

/-- The launches that have blocks resident on a channel or saved for its cores. -/
def State.hitLaunches (s : State) (ch : Nat) : List Nat :=
  ((s.cores.filter fun c => decide (channelOfCore c.1 = ch)).flatMap (fun c => c.2.liveBlocks.map fun b => b.2.launch)
    ++ (s.savedBlocks.filter fun b => decide (channelOfCore b.2.core = ch)).map fun b => b.2.block.launch).eraseDups

/-- A launch loses its blocks on a channel, and those not placed there are not placed (R352). -/
def Launch.loseChannel (ch : Nat) (l : Launch) : Launch :=
  let r := tget (0, 0) l.next ch
  { l with channelReset := true, next := if r.1 < r.2 then tset (0, 0) l.next ch (r.2, r.2) else l.next }

/-- Count ended work of a context for its notice (R355). -/
def Channel.noteEnded (c : Channel) (ctx : Fin 2048) (n : Nat) : Channel :=
  let old := (c.resetAborted.find? fun x => decide (x.1 = ctx)).map Prod.snd
  { c with resetAborted := (c.resetAborted.filter fun x => !decide (x.1 = ctx)) ++ [(ctx, old.getD 0 + n)] }

/-- Cores, clusters and ports of a channel hold nothing, and nothing travels to or from its agents. -/
def State.emptyChannel (s : State) (ch : Nat) : State :=
  { s with
    cores := tdrop s.cores fun k => decide (channelOfCore k = ch)
    clusters := tmapIf Cluster.idle s.clusters (fun k => decide (k / 128 = ch)) fun c =>
      { Cluster.idle with coreMap := c.coreMap, spares := c.spares, pmc := c.pmc, ovf := c.ovf, latched := c.latched }
    msgs := s.msgs.filter fun m => !(agentOf ch m.src || agentOf ch m.dst) }

/-- The CHANNEL_FAULT codes due once the cause is added: 1 for a supply fault, 2 for a lost reference (R346). -/
def Channel.faultDue (c : Channel) (cause : Fin 4) : List Byte :=
  let code : Byte := BitVec.ofNat 8 cause.val
  if (cause = 1 ∨ cause = 2) ∧ code ∉ c.faultCodes then c.faultCodes ++ [code] else c.faultCodes

/-- A cause met while the channel is resetting: the reset in progress takes it over, and its CHANNEL_FAULT is due (R346, R353). A
bring-up becomes the reset of R17. -/
def Channel.alsoFor (c : Channel) (cause : Fin 4) : Channel :=
  { c with resetCause := some (c.resetCause.getD cause), faultCodes := c.faultDue cause }

/-- The controllers complete the writes that they have accepted, each at both of its places, whatever becomes of the core rail (R245). -/
def State.finishWrites (s : State) (ch : Nat) : State :=
  let mine := (s.lines.filter fun e => e.2.writing).map fun e => (BitVec.ofNat 50 e.1 : LineAddr)
  (mine.filter fun l => s.isLocal l && decide (lineChan l = ch)).foldl (fun acc l =>
    let e := acc.slice l
    (acc.memWrite l e.data e.poison e.fe e.cls).setSlice l { e with writing := false, dirty := false }) s

/-- The channel is resetting: its blocks are discarded without a save, its engines stop, and every home treats its agents as
holding nothing (R228, R350). A channel that is resetting or retired stays as it is. -/
def State.startReset (s : State) (ch : Nat) (cause : Fin 4) : State :=
  let st := (s.chan ch).state
  if st = 1 ∨ st = 4 then s
  else
    let hit := s.hitLaunches ch
    let s1 := (s.finishWrites ch).modChan ch fun c =>
      { c with
        state := 1, resetCause := some cause, faultCodes := c.faultDue cause, refcnt := 0, refRunning := false, wakes := [], walks := []
        faults := [], releaseStep := none, ports := [], resetAborted := [], issueStopped := true, selfRefresh := true }
    let s2 := hit.foldl (fun acc l => (acc.modLaunch l (Launch.loseChannel ch)).modChan ch fun c => c.noteEnded (acc.launchOf l).ctx 1) s1
    let mine := (s2.cores.filter fun c => decide (channelOfCore c.1 = ch)).map Prod.fst
    let s3 := mine.foldl (fun acc k => acc.discardCore k .dropped id) s2
    let s4 := (s3.discardSaved (fun b => decide (channelOfCore b.core = ch)) .dropped id).emptyChannel ch
    s4.holdersGone (fun _ => true) (agentOf ch)

/-! ## Ending a channel reset (R350 steps 3 to 6) -/

/-- The newest value of every line that the channel's slices hold dirty goes to memory. Copies that clusters of other channels
hold dirty are written too (notes/assumptions/21.md). -/
def State.flushChan (s : State) (ch : Nat) : State :=
  let mine := (s.lines.map fun e => (BitVec.ofNat 50 e.1 : LineAddr)).filter fun l => s.isLocal l && decide (lineChan l = ch)
  mine.foldl (fun acc l =>
    let e := acc.slice l
    let n := acc.newest l
    if e.present && (e.dirty || (acc.dirtyCopy l).isSome) then acc.memWrite l n.data n.poison e.fe e.cls else acc) s

/-- Commands of a context that wait for lines of a channel. -/
def Context.waitsOn (c : Context) (p : LineAddr → Bool) : Nat :=
  ((outstandingOf c.streams).filter fun x => x.lines.any fun l => p l.1).length

/-- Lines of the channel are lost to those who have accesses outstanding (R288 step 1, R352). -/
def State.endTraffic (s : State) (ch : Nat) : State :=
  let here (l : LineAddr) : Bool := decide (lineChan l = ch)
  let s1 := (s.ctxs.filter fun c => decide (c.2.waitsOn here ≠ 0)).foldl (fun acc c =>
    acc.modChan ch fun x => x.noteEnded (BitVec.ofNat 11 c.1).toFin (c.2.waitsOn here)) s
  (s1.loseCommands stChannelReset here).loseLines here

/-- The core map of a cluster in which some physical cores failed or are retired: presented cores take the good ones in ascending
order, the rest are spares (R57). -/
def clusterMap (bad : List (Fin 264)) : Cluster :=
  let good := (List.finRange 264).filter fun i => !decide (i ∈ bad)
  let c := (List.finRange 256).foldl (fun (c : Cluster) k => c.mapCore k good[k.val]?) Cluster.idle
  { c with spares := some (good.drop 256) }

/-- The clusters of a channel after their self-test; CORE_UNAVAILABLE reports the presented cores that lose their physical core
(R57, R62). -/
def State.testCores (s : State) (ch : Nat) (found : List (Fin 128 × Fin 264)) : State :=
  let retired := (s.hub.retiredCores.filter fun r => decide (r.1 / 128 = ch)).map fun r => (r.1 % 128, r.2)
  let bad := found.map (fun r => (r.1.val, r.2)) ++ retired
  let was (k : Nat) : Bool := s.available k
  let s1 : State := { s with clusters := tdrop s.clusters fun k => decide (k / 128 = ch) }
  let s2 := ((bad.map Prod.fst).eraseDups).foldl (fun acc cl =>
    acc.setCluster (128 * ch + cl) (clusterMap ((bad.filter fun r => decide (r.1 = cl)).map Prod.snd))) s1
  let gone := ((bad.map Prod.fst).eraseDups).flatMap fun cl =>
    ((List.range 256).map fun i => 256 * (128 * ch + cl) + i).filter fun k => was k && !s2.available k
  gone.foldl (fun acc k => acc.ownerEvent 5 (BitVec.ofNat 8 ch) 0 (BitVec.ofNat 64 k)) s2

/-- The channel's objects are broken where they are allocated, and their waits are withdrawn (R206). -/
def State.breakObjects (s : State) (ch : Nat) : State :=
  (s.objs.filter fun o => decide (objChan o.1 = ch)).foldl (fun acc o =>
    if (acc.obj o.1).alloc then (acc.withdrawAll o.1 true).modObj o.1 fun x => { x with flag := false, payload := 0, broken := true, waits := [] }
    else acc.modObj o.1 fun x => { x with flag := false, payload := 0, broken := false, waits := [] }) s

/-- Every register of the channel reset domain takes its Reset value; what the hub, its store and the stacks hold stays (R9,
R251, R287, R436). -/
def Channel.afterReset (c : Channel) : Channel :=
  { Channel.ready with
    state := c.state, supplyFault := c.supplyFault, refLost := c.refLost, refOk := c.refOk, ccErrlog := c.ccErrlog
    memErrlog := c.memErrlog, evacPc := c.evacPc, evacState := c.evacState, mapOrder := c.mapOrder, storeOrder := c.storeOrder
    evacTotal := c.evacTotal, evacDone := c.evacDone, granted := c.granted, pinFail := c.pinFail, failedPins := c.failedPins
    nominations := c.nominations, journal := c.journal, journalB := c.journalB, isolations := c.isolations, incarnation := c.incarnation + 1
    awaitRestart := true, railMilliVolts := c.railMilliVolts, stretch := c.stretch, hottestDie := c.hottestDie
    hottestStack := c.hottestStack, pTherm := c.pTherm, trips := c.trips, tripped := c.tripped, rest := c.rest
    selfRefresh := c.rest, curve := c.curve, curveClear := c.curveClear, energy := c.energy, energyMicro := c.energyMicro
    idle := c.idle, idleMicro := c.idleMicro, fwSlotB := c.fwSlotB, fwVersion := c.fwVersion, resetCause := c.resetCause
    faultCodes := c.faultCodes, railNow := c.railMilliVolts, memInit := c.memInit, retireAsked := c.retireAsked, reinstateAsked := c.reinstateAsked, resetAborted := c.resetAborted }

/-- The curve sweep measures eight rates, which rise with the rail voltage and which the spec bounds in no other way: free values
(R445, R450). -/
def State.sweep (s : State) (ch : Nat) : State :=
  let r := (List.range 8).foldl (fun (acc : List (BitVec 16) × State) i =>
    let f := acc.2.takeFree
    let lo := match acc.1.getLast? with | some p => p.toNat + 1 | none => 0
    (acc.1 ++ [rateBetween lo (0xFFFF - (7 - i)) f.1.toNat], f.2)) ([], s)
  r.2.modChan ch fun c => c.takeCurve r.1

/-- The Governor starts: at PACE_START with the device, else at the pace that the device runs at (R390). -/
def State.startGovernor (s : State) (ch : Nat) : State :=
  let others := s.upChans.filter fun i => !decide (i = ch)
  let therm : BitVec 16 := if s.hub.ready && decide (others ≠ []) then
      BitVec.ofNat 16 (others.foldl (fun m i => Nat.min m (s.chan i).pTherm.toNat) s.hub.inForce.paceTarget.toNat)
    else s.hub.inForce.paceStart
  let s1 := s.modChan ch fun c => { c with pTherm := therm }
  let pace := if s.hub.ready then s.hub.applied.toNat else s.hub.inForce.paceStart.toNat
  if s1.inHold ch then s1.modChan ch fun c => { c with railMilliVolts := 400, stretch := false } else s1.startRail ch pace

/-- The six ports start training (R290). -/
def State.trainPorts (s : State) (ch : Nat) : State := (List.range 6).foldl (fun acc p => acc.startTraining ch p) s

/-- The channel tells every coherent node, at the channel of its own number, and every channel of its device of its reset (R288). -/
def State.tellReset (s : State) (ch : Nat) : State :=
  let s1 := ((List.range 32).filter fun d => decide (d ≠ ch)).foldl (fun acc d => acc.mgtSend ch s.hub.node d .channelReset) s
  s.coherentNodes.foldl (fun acc n => acc.mgtSend ch n ch .channelReset) s1

/-- The notices of a channel reset (R346, R355). -/
def State.resetNotices (s : State) (ch : Nat) : State :=
  let c := s.chan ch
  let s1 := c.resetAborted.foldl (fun acc x =>
    if (acc.ctx x.1.val).state = .absent then acc else acc.contextNotice x.1.val (BitVec.ofNat 8 ch) 3 x.2) s
  let s2 := c.faultCodes.foldl (fun acc code => acc.ownerEvent 8 (BitVec.ofNat 8 ch) code 0) s1
  (if c.state = 0 then s2.ownerEvent 8 (BitVec.ofNat 8 ch) 3 0 else s2).modChan ch fun c => { c with resetCause := none, faultCodes := [], resetAborted := [] }

/-- The commands that a channel reset ends or completes: CHAN_RESET with the state that the channel reaches, and a CLUSTER_RESET
that it has overtaken (R332, R353). -/
def State.endChanResets (s : State) (ch : Nat) : State :=
  let down := decide ((s.chan ch).state = 0)
  let fin (y : Cmd) : Cmd :=
    if y.stage ≠ .started ∨ recNat y.record 12 1 ≠ ch then y
    else if y.opcode = 0x16 then y.finish (if down then fails stChannelReset else succeeds 0)
    else if y.opcode = 0x17 then y.finish (fails stChannelReset)
    else y
  { s with fns := tmapIf Func.reset s.fns (fun _ => true) fun f =>
      { f with streams := tmapIf Stream.fresh f.streams (fun _ => true) fun x => { x with cmds := x.cmds.map fin } } }

/-- The reset ends in state 0 after the third isolation in succession (R274), else in state 2, or in state 3 where a new curve falls short. A kept
curve is not checked again (R14; DESIGN CHOICE, notes/assumptions/71.md). -/
def Channel.restart (c : Channel) : Channel :=
  { c with state := if c.resetCause = some 0 && decide (3 ≤ c.isolations) then 0 else 2 }

/-- Memory of the channel is initialised: zero data, empty bits (R245). -/
def State.initMemory (s : State) (ch : Nat) : State :=
  { s with
    mem := tdrop s.mem fun a => decide (a / 2 ^ 43 % 32 = ch)
    halves := tdrop s.halves fun k => decide (k / 2 ^ 37 % 32 = ch)
    upsets := tdrop s.upsets fun k => decide (k / 2 ^ 37 % 32 = ch) }

/-- Pseudo-channels map out at once, up to eight (R246, R251). -/
def Channel.mapOutNow (c : Channel) (ds : List (Fin 64)) : Channel :=
  let m := ds.foldl (fun (m : List (Fin 64)) d => if d ∈ m ∨ 8 ≤ m.length then m else d :: m) c.mapOrder
  { c with mapOrder := m, storeOrder := m, degraded := c.degraded || ds.any fun d => !decide (d ∈ m) }

/-- Maps after power-on: the hub's store, with nominations that have no commit mapped out (R251). -/
def Channel.powerOnMap (c : Channel) : Channel :=
  ({ c with
    mapOrder := c.storeOrder, evacState := 0, evacTotal := 0, evacDone := 0, granted := false, journal := [], journalB := [], nominations := [] }).mapOutNow
      c.nominations

/-- The maps of a channel that comes up: from the store after power-on, else as its journal says (R251); pseudo-channels that failed are
mapped out, or nominated (R246). -/
def State.memoryUp (s : State) (ch : Nat) (failed : List (Fin 64)) (journal : List (Fin 2 × Nat × BitVec 512)) : State :=
  if (s.chan ch).memInit then
    (s.initMemory ch).modChan ch fun c =>
      let c1 := (c.powerOnMap).mapOutNow failed
      { c1 with memInit := false, journalPcs := c1.lowestLive }
  else failed.foldl (fun acc d => acc.nominate ch d) (s.readJournal ch journal)

/-- Steps 3 to 6 of R350. -/
def State.finishReset (s : State) (ch : Nat) (bad : List (Fin 128 × Fin 264)) (failed : List (Fin 64))
    (journal : List (Fin 2 × Nat × BitVec 512)) : State :=
  let s1 := if 1 ∈ (s.chan ch).faultCodes then s else s.flushChan ch
  let s2 := ((s1.endTraffic ch).emptyChannel ch).testCores ch bad
  let s3 := ((s2.breakObjects ch).modChan ch fun c => (c.afterReset).restart).memoryUp ch failed journal
  let s4 := if (s3.chan ch).state = 0 then s3.modChan ch fun c => { c with refRunning := false }
    else
      let s4 := if (s3.chan ch).curveClear || decide ((s3.chan ch).curve = []) then s3.sweep ch else s3
      ((s4.startGovernor ch).trainPorts ch).tellReset ch
  ((((s4.rebuild ch).resetNotices ch).endChanResets ch).repace.rerouteAll).postNotices

/-- CHANNEL_RESET_SEQUENCE, with the physical cores and the pseudo-channels that fail their self-test, and the errors that the journal's
copies show: a reset that has begun, or is due, ends once the
reference is qualified (R21, R350). -/
def execChannelResetSequence (ch : Fin 32) (badCores : List (Fin 128 × Fin 264)) (failedPcs : List (Fin 64))
    (journalErrors : List (Fin 2 × Nat × BitVec 512)) (s : State) : Out :=
  let k := ch.val
  match (s.chan k).resetCause with
  | none => enabled false "no reset of the channel is due" (.next s)
  | some cause =>
    let s1 := s.startReset k cause
    enabled ((s1.chan k).refOk && decide ((s1.chan k).state = 1)) "the reference is not qualified" <| .next (s1.finishReset k badCores failedPcs journalErrors)

/-! ## What starts a channel reset (R343) -/

/-- CHAN_RESET: it starts a reset, or joins the one in progress (R332); the succession of isolations starts again (R274). -/
def execChanReset (c : CmdRef) (s : State) : Out :=
  starting c 0x16 s fun x s =>
    let ch := recNat x.record 12 1
    if (s.chan ch).state = 4 then (some (fails stInvalidArgument), s)
    else if (s.chan ch).state = 1 then (none, s)
    else (none, (s.modChan ch fun c => { c with isolations := 0 }).startReset ch 3)

/-- CHANNEL_ISOLATION_TIMEOUT: none of the four on-module ports has been COHERENT (R274). -/
def execChannelIsolationTimeout (ch : Fin 32) (s : State) : Out :=
  let k := ch.val
  enabled (s.up k && (List.range 4).all fun i => decide ((s.port k (2 + i)).state ≠ .coherent)) "the channel is not isolated" <|
    .next ((s.modChan k fun c => { c with isolations := c.isolations + 1 }).startReset k 0)

/-- SUPPLY_FAULT: the channel stops, the fault is set and reported, and the reset starts (R17); a reset or bring-up in progress takes the
fault over. -/
def execSupplyFault (ch : Fin 32) (s : State) : Out :=
  let k := ch.val
  let s1 := s.modChan k fun c => { c with supplyFault := true, issueStopped := true }
  enabled (s.hub.powered && decide ((s.chan k).state ≠ 4)) "the module is unpowered, or the channel is retired" <|
    .next (if (s.chan k).state = 1 then s1.modChan k fun c => c.alsoFor 1 else s1.startReset k 1)

/-- LEAT_REFERENCE_LOSS: the counter stops, REF_OK clears, REF_LOST sets, the stacks enter self-refresh, the ports send nothing, and the
reset starts (R26). A reset in progress takes the loss over; a bring-up waits at its step 1 until the reference is qualified (R444). -/
def execLeatReferenceLoss (ch : Fin 32) (s : State) : Out :=
  let k := ch.val
  enabled (s.hub.powered && (s.chan k).refOk && decide ((s.chan k).state ≠ 4)) "the reference is not qualified" <|
    let s1 := s.modChan k fun c => { c with refOk := false, refLost := true, refRunning := false, issueStopped := true, selfRefresh := true }
    .next (if (s.chan k).state = 1 then s1.modChan k fun c => if c.resetCause = none then c else c.alsoFor 2 else s1.startReset k 2)

/-- LEAT_REFERENCE_QUALIFIED: a reset or bring-up that waits may go on (R21, R444). -/
def execLeatReferenceQualified (ch : Fin 32) (s : State) : Out :=
  enabled (s.hub.powered && !(s.chan ch.val).refOk) "the reference is qualified" <|
    .next (s.modChan ch.val fun c => { c with refOk := true })

/-- CONTROLLER_WATCHDOG. -/
def execControllerWatchdog (ch : Fin 32) (s : State) : Out :=
  enabled (s.up ch.val) "the channel is down" <| .next (s.startReset ch.val 3)

/-! ## The boot chain (R408, R410, R443) -/

/-- An image slot that verifies under a floor. -/
def FwSlot.verifies (x : FwSlot) (floor : Word) : Bool := x.full && x.good && decide (floor ≤ x.svn)

def Hub.hubSlot (h : Hub) (b : Bool) : FwSlot := if b then h.hubB else h.hubA
def Hub.chanSlot (h : Hub) (b : Bool) : FwSlot := if b then h.chanB else h.chanA

/-- The log has room for another entry (R415). -/
def Hub.logRoom (h : Hub) : Bool := decide (h.log.length < 4096)
/-- Add an entry to the log. -/
def Hub.addLog (h : Hub) (kind : Fin 7) (channel : Byte) (version svn : Word) (digest : BitVec 256) : Hub :=
  { h with log := h.log ++ [⟨kind, channel, version, svn, digest⟩] }

/-- The SHA-256 of the owner key, shown in 0x1F20; zero while none is installed. -/
def Hub.ownerHash (h : Hub) : BitVec 256 :=
  match h.ownerKey with
  | none => 0
  | some k => sha256 k

/-- Steps 1 to 3 of R410: the log is cleared, and a hub image is found, or none. -/
def Hub.bootRom (h : Hub) : Hub :=
  let h1 := { h with log := [] }.addLog 1 0xFF Config.romVersion 0 0
  let pick := if (h.hubSlot h.bootB).verifies h.floorHub then some h.bootB
    else if (h.hubSlot !h.bootB).verifies h.floorHub then some !h.bootB else none
  match pick with
  | none => { h1 with bootFailed := true }
  | some b =>
    let i := h.hubSlot b
    ((({ h1 with bootB := b, hubVersion := i.version, bootFailed := false }.addLog 2 0xFF i.version i.svn i.bodyHash).addLog
      5 0xFF 1 h.floorHub 0).addLog 5 0xFF 2 h.floorChan 0)

/-- Step 4 of R410 for one channel: its image is verified, loaded and logged, and its bring-up starts; without one it is down. -/
def State.bootChannel (s : State) (ch : Nat) : State :=
  let c := s.chan ch
  if c.state = 4 then s
  else
    let h := s.hub
    let pick := if (h.chanSlot c.fwSlotB).verifies h.floorChan then some c.fwSlotB
      else if (h.chanSlot !c.fwSlotB).verifies h.floorChan then some !c.fwSlotB else none
    match pick with
    | none => s.modChan ch fun c => { c with state := 0 }
    | some b =>
      let i := h.chanSlot b
      (s.modChan ch fun c => { c with fwSlotB := b, fwVersion := i.version, state := 1 }).setHub fun h =>
        h.addLog 3 (BitVec.ofNat 8 ch) i.version i.svn i.bodyHash

/-- The boot chain runs once PERST_N is high and the hub reference is stable (R443 steps 2 to 5). -/
def State.tryBoot (s : State) : State :=
  if !(s.hub.powered && s.hub.inReset && s.hub.perstN && !s.hub.refLost) then s
  else
    let s1 := s.setHub Hub.bootRom
    if s1.hub.bootFailed then s1
    else
      let s2 := (List.range 32).foldl (fun acc ch => acc.bootChannel ch) (s1.setHub fun h => { h with inReset := false })
      s2.setHub fun h => (h.addLog 4 0xFF 0 h.ownerCount h.ownerHash).addLog 6 0xFF 0 0 (h.digest.setWidth 256)

/-! ## Hub reset and power (R344, R345, R443 to R448) -/

/-- The dictionary that a hub reset leaves: entries without flag P return to their defaults; so do all after a restore (R378). -/
def Hub.dictAfter (h : Hub) : Dict := if h.restoreAsked then .defaults else h.dict

/-- Byte `i` of a route word (R381). -/
def routeByte (w : Word) (i : Nat) : Byte := byteOf w.toNat i

/-- The entries whose values differ between two settings of the dictionary, as 256 × index + subindex. -/
def Dict.changed (d e : Dict) : List Nat :=
  let flat : List (Nat × Bool) :=
    [(0x1F0101, decide (d.arbRate ≠ e.arbRate)), (0x1F0102, decide (d.fdRate ≠ e.fdRate)), (0x1F0103, decide (d.xlRate ≠ e.xlRate)),
      (0x1F0104, decide (d.frameMode ≠ e.frameMode)), (0x1F0201, decide (d.prioBase ≠ e.prioBase)), (0x1F0202, decide (d.sdt ≠ e.sdt)),
      (0x1F0203, decide (d.vcid ≠ e.vcid)), (0x1F0204, decide (d.fdMarker ≠ e.fdMarker)), (0x1F0300, decide (d.eventEn ≠ e.eventEn)),
      (0x1F1100, decide (d.sessionIdle ≠ e.sessionIdle)), (0x200100, decide (d.epoch ≠ e.epoch)),
      (0x200201, decide (d.nodeNext ≠ e.nodeNext)), (0x200300, decide (d.nodeTable ≠ e.nodeTable)),
      (0x200400, decide (d.linkDead ≠ e.linkDead)), (0x701000, decide (d.powerLimit ≠ e.powerLimit)),
      (0x701100, decide (d.tjLimit ≠ e.tjLimit)), (0x701200, decide (d.stackLimit ≠ e.stackLimit)),
      (0x702000, decide (d.paceTarget ≠ e.paceTarget)), (0x702100, decide (d.paceFloor ≠ e.paceFloor)),
      (0x702200, decide (d.paceStart ≠ e.paceStart)), (0x702400, decide (d.peerMask ≠ e.peerMask))]
  let nodes := ((d.routes ++ e.routes).map Prod.fst).eraseDups
  (flat.filter Prod.snd).map Prod.fst
    ++ ((List.range 3).filter fun i => decide (d.weights.getD i 0 ≠ e.weights.getD i 0)).map (fun i => 0x600001 + i)
    ++ nodes.flatMap fun n => ((List.range 4).filter fun i =>
        decide (routeByte (tget 0 d.routes n) i ≠ routeByte (tget 0 e.routes n) i)).map fun i => 256 * (0x2100 + n) + 1 + i

/-- The change counts after a hub reset: each entry that changes with it counts once (R378, R379). -/
def Hub.changesAfter (h : Hub) : Table Nat :=
  ((h.dict.changed h.dictAfter) ++ (if h.restoreAsked then [0x101100] else [])).foldl (fun t k => tmod 0 t k (· + 1)) h.changes

/-- The hub after a reset: what its store and the input pins hold, the coolant status and the device's energy stay (R345, R359,
R394, R403, R439). -/
def Hub.afterReset (h : Hub) : Hub :=
  let d := h.dictAfter
  { Hub.reset with
    powered := h.powered, refLost := h.refLost, perstN := h.perstN, inReset := true, dict := d, inForce := d, changes := h.changesAfter
    node := d.nodeNext.toNat |> fun n => (BitVec.ofNat 9 n).toFin
    address := h.address, frameModeInForce := d.frameMode
    busState := if h.address = 0 || h.address = 127 || h.refLost then 3 else 1
    coolant := h.coolant, trip := h.trip, pin := h.pin, coolantStops := h.coolantStops, undervolt := h.undervolt
    inputMilliVolts := h.inputMilliVolts, pPower := d.paceStart, sustainable := 0, jobPace := 0, applied := 0
    deviceEnergy := h.deviceEnergy, deviceMicro := h.deviceMicro, deviceIdle := h.deviceIdle, deviceIdleMicro := h.deviceIdleMicro
    hubA := h.hubA, hubB := h.hubB, chanA := h.chanA, chanB := h.chanB, bootB := h.bootB, floorHub := h.floorHub
    floorChan := h.floorChan, ownerKey := h.ownerKey, ownerCount := h.ownerCount, powerOn := h.powerOn, hubVersion := h.hubVersion
    log := [], unreachable := h.unreachable, retiredCores := h.retiredCores }

/-- A channel as a hub reset leaves it, before its bring-up: what lies in the hub's own reset domain goes as well; a reinstated
channel comes up with fresh memory and a fresh curve (R394, R448). -/
def Channel.hubReset (c : Channel) (start : BitVec 16) : Channel :=
  let back := decide (c.state = 4) && c.reinstateAsked
  let c1 := c.afterReset
  { c1 with
    state := if c.state = 4 && !back then 4 else 1, supplyFault := false, refLost := false, ccErrlog := 0, memErrlog := 0
    isolations := 0, trips := 0, energy := 0, energyMicro := 0, idle := 0, idleMicro := 0, refRunning := false, pTherm := start
    resetCause := none, faultCodes := [], resetAborted := [], memInit := c.memInit || back, curve := if back then [] else c.curve
    retireAsked := c.retireAsked && !c.reinstateAsked, reinstateAsked := false }

/-- A hub reset: every context and all work goes with no record, slices are flushed, everything volatile is reset (R345). -/
def State.hubReset (s : State) : State :=
  let s1 := (List.range 32).foldl (fun acc ch =>
    let acc := acc.finishWrites ch
    if (acc.up ch || decide ((acc.chan ch).state = 1)) && !decide (1 ∈ (acc.chan ch).faultCodes) then acc.flushChan ch else acc) s
  let h := s1.hub.afterReset
  { s1 with
    hub := h
    chans := (List.range 32).foldl (fun t ch => tmod Channel.ready t ch fun c => c.hubReset h.dict.paceStart) s1.chans
    clusters := [], cores := [], fns := [], ctxs := [], launches := [], objs := [], lines := [], msgs := [], signals := [] }

/-- HUB_RESET: a PCIe Fundamental Reset, after which the boot chain runs. -/
def execHubReset (s : State) : Out :=
  enabled s.hub.powered "the module is unpowered" <| .next ((s.setHub fun h => { h with perstN := true }).hubReset.tryBoot)

/-- HUB_WATCHDOG. -/
def execHubWatchdog (s : State) : Out :=
  enabled (s.hub.powered && !s.hub.inReset) "no hub firmware runs" <| .next (s.hubReset.tryBoot)

/-- PERST_N_RISE: the hub leaves hub reset (R438, R443). -/
def execPerstNRise (s : State) : Out :=
  enabled (s.hub.powered && !s.hub.perstN) "PERST_N is high" <| .next ((s.setHub fun h => { h with perstN := true }).tryBoot)

/-- Every vector that has counted records and waits for its timer, which has stopped, sends its message (R20). -/
def State.unmoderate (s : State) : State :=
  s.fns.foldl (fun acc f => (f.2.vecs.filter fun v => decide (v.2.posted ≠ 0) && decide (v.1 < 32)).foldl
    (fun acc v => acc.sendVector f.1 (BitVec.ofNat 5 v.1).toFin) acc) s

/-- HUB_REFERENCE_LOSS: HUB_REF_LOST sets, completions are posted without timer moderation, and the field bus is held in bus-off (R20). -/
def execHubReferenceLoss (s : State) : Out :=
  enabled (s.hub.powered && !s.hub.refLost) "the reference is lost" <|
    .next (s.unmoderate.setHub fun h => { h with refLost := true, busState := 3, transmit := [] })

/-- HUB_REFERENCE_STABLE: after 1 ms of a stable reference; a hub that waited for it boots (R20, R443). -/
def execHubReferenceStable (s : State) : Out :=
  enabled (s.hub.powered && s.hub.refLost) "the reference is not lost" <|
    .next ((s.setHub fun h =>
      { h with refLost := false, busState := if h.address = 0 || h.address = 127 then 3 else 1 }).tryBoot)

/-- Everything volatile goes with the supply; the store in serial flash stays (R344, R397). -/
def State.unpower (s : State) : State :=
  let s1 := s.hubReset
  let d := s1.hub.dict
  { s1 with
    hub := { s1.hub with
      powered := false, perstN := false, coolant := false, trip := false, pin := false, undervolt := false, deviceEnergy := 0
      deviceMicro := 0, deviceIdle := 0, deviceIdleMicro := 0, unreachable := [] }
    chans := (List.range 32).foldl (fun t ch => tmod Channel.ready t ch fun c =>
      { c with
        state := if c.state = 4 then 4 else 0, refOk := false, memInit := true, incarnation := 0, tripped := false, rest := false
        selfRefresh := false, hottestDie := 0, hottestStack := 0, pTherm := d.paceStart }) s1.chans }

/-- INPUT_OUT_OF_RANGE: the converters stop (R384). -/
def execInputOutOfRange (s : State) : Out := enabled s.hub.powered "the module is unpowered" <| .next s.unpower

/-- DEVICE_POWER_ON: POWERON counts, every coherent node is unreachable, and the power-up order begins; PERST_N is held low
through it (R296, R443). -/
def execDevicePowerOn (s : State) : Out :=
  enabled (!s.hub.powered) "the module is powered" <|
    let s1 := s.setHub fun h => { h with powered := true, powerOn := h.powerOn + 1, inReset := true }
    let s2 : State := { s1 with
      chans := (List.range 32).foldl (fun t ch => tmod Channel.ready t ch fun c => { c with state := if c.state = 4 then 4 else 1 }) s1.chans }
    .next ((s2.setHub fun h => { h with unreachable := s2.coherentNodes }).tryBoot)

/-! ## Bring-up (R444, R445) -/

/-- CHANNEL_BRING_UP, with what it finds: steps 1 to 7 of R444. A step that fails leaves the channel down. A reset command that met the
channel in state 1 completes with it (R332; notes/assumptions/71.md). -/
def execChannelBringUp (ch : Fin 32) (found : BringUp) (s : State) : Out :=
  let k := ch.val
  let c := s.chan k
  let sweeps := decide (c.curve = []) || c.curveClear
  enabled (decide (c.state = 1) && decide (c.resetCause = none) && c.refOk && !s.hub.inReset && s.hub.powered
      && (!sweeps || (rising found.sweep && decide (found.sweep.length = 8))))
      "the channel is not in bring-up, its reference is not qualified, or the measured curve does not rise" <|
    if !(found.trained && found.initOk) then .next ((s.modChan k fun c => { c with state := 0 }).endChanResets k)
    else
      let s2 := (s.testCores k found.badCores).modChan k fun x =>
        { x with state := 2, refRunning := true, issueStopped := false, hottestDie := found.dieTemp }
      let s3 := if sweeps then s2.modChan k fun y => y.takeCurve found.sweep else s2
      let s5 := ((s3.memoryUp k found.failedPcs found.journalErrors).startGovernor k).postNotices
      if !found.portsOk then .next ((s5.modChan k fun c => { c with state := 0, refRunning := false }).endChanResets k)
      else .next (((((s5.trainPorts k).tellReset k).rebuild k).endChanResets k).repace.rerouteAll)

/-- HUB_READY: every channel has reached state 0, 2 or 3, or 250 ms have passed (R443 step 7). -/
def execHubReady (elapsed250 : Bool) (s : State) : Out :=
  enabled (s.hub.powered && !s.hub.inReset && !s.hub.ready
      && (elapsed250 || (List.range 32).all fun ch => decide ((s.chan ch).state ≠ 1))) "bring-up has not ended" <|
    .next (s.setHub fun h => { h with ready := true })

end Sys2Proof.Machine
end

