-- ==== Sys2Proof/Machine/Perf.lean ====
section
/-! DEFINITION. Performance counters (R418 to R436): selectors, freezing, snapshots, the records of tagged instructions, histograms,
and the register reads that change a register (R7, R25, R230). -/

namespace Sys2Proof.Machine

/-! ## Selectors and freezing (R419, R420, R425) -/

/-- The fields of a selector: a core selector has an 11-bit CONTEXT, the others a 2-bit CLASS (R420). -/
def selMask (sel : Nat) : Word := if sel < 8 then 0xFFFFFFFF else 0x803FFFFF

/-- A selector is written, and its counter is zero in every core or cluster that it governs, with its OVF bit (R419). Selectors 0
to 7 are the core's, 8 to 11 the clusters', 12 to 19 the channel's, as OVF numbers them. -/
def State.writeSel (s : State) (ch : Nat) (sel : Nat) (v : Word) : State :=
  let s1 := s.modChan ch fun c =>
    { c with
      sels := tset 0 c.sels sel (v &&& selMask sel), ovf := c.ovf &&& ~~~BitVec.ofNat 20 (2 ^ sel)
      chPmc := if 12 ≤ sel then tset 0 c.chPmc (sel - 12) 0 else c.chPmc
      condBefore := if 12 ≤ sel then c.condBefore &&& ~~~BitVec.ofNat 8 (2 ^ (sel - 12)) else c.condBefore }
  if sel < 8 then
    { s1 with cores := tmapIf Core.idle s1.cores (fun k => decide (channelOfCore k = ch)) fun c =>
        { c with
          pmc := tset 0 c.pmc sel 0, ovf := c.ovf &&& ~~~BitVec.ofNat 8 (2 ^ sel)
          condBefore := c.condBefore &&& ~~~BitVec.ofNat 8 (2 ^ sel) } }
  else if sel < 12 then
    { s1 with clusters := tmapIf Cluster.idle s1.clusters (fun k => decide (k / 128 = ch)) fun c =>
        { c with
          pmc := tset 0 c.pmc (sel - 8) 0, ovf := c.ovf &&& ~~~BitVec.ofNat 4 (2 ^ (sel - 8))
          condBefore := c.condBefore &&& ~~~BitVec.ofNat 8 (2 ^ (sel - 8)) } }
  else s1

/-- PMC_SEL_WRITE. -/
def execPmcSelWrite (ch : Fin 32) (sel : Fin 20) (v : Word) (s : State) : Out := .next (s.writeSel ch.val sel.val v)

/-- Setting FREEZE stops every programmable counter and histogram; clearing it restarts them (R425). -/
def Channel.setFreeze (c : Channel) (b : Bool) : Channel := { c with freeze := b, frozen := b }

/-- PMC_FREEZE. -/
def execPmcFreeze (ch : Fin 32) (s : State) : Out := .next (s.modChan ch.val fun c => c.setFreeze true)

/-- PMC_UNFREEZE. -/
def execPmcUnfreeze (ch : Fin 32) (s : State) : Out := .next (s.modChan ch.val fun c => c.setFreeze false)

/-! ## Snapshots (R426, R427) -/

/-- The bytes of a snapshot record. -/
def snapBytes : Nat := 2627792

/-- `n` bytes from `a` lie in this node's memory, in one channel (R236; two channels never adjoin). -/
def State.wholeIn (s : State) (a n : Nat) : Bool :=
  let p := lineOfPa a
  let q := lineOfPa (a + n - 1)
  decide (a + n ≤ 2 ^ 57) && s.isLocal p && s.isLocal q && decide (lineChan p = lineChan q) && s.inMemory p && s.inMemory q

/-- The context whose blocks a core holds. -/
def Core.heldCtx (c : Core) : Option (Fin 2048) := c.liveBlocks.head?.map fun b => b.2.ctx

/-- Latch the counters of every core and cluster of a channel, and its own with its selectors; what holds no count and no block
latches zero, which no latch says (R426 step 1). -/
def State.latchAll (s : State) (ch : Nat) : State :=
  let s0 := s.elapse ch
  let s1 := s0.modChan ch fun c =>
    { c with
      snapBusy := true
      chLatched := some ((List.range 8).map (fun n => tget 0 c.chPmc n), BitVec.ofNat 8 (c.ovf.toNat / 2 ^ 12),
        (List.range 20).map (fun n => tget 0 c.sels n), c.refcnt) }
  { s1 with
    cores := tmapIf Core.idle s1.cores (fun k => decide (channelOfCore k = ch)) fun c =>
      { c with latched := some (c.hs, (List.range 8).map (fun n => tget 0 c.pmc n), c.ovf, c.heldCtx) }
    clusters := tmapIf Cluster.idle s1.clusters (fun k => decide (k / 128 = ch)) fun c =>
      { c with latched := some ((List.range 4).map (fun n => tget 0 c.pmc n), c.ovf) } }

/-- PMC_CTL.SNAP is written with 1: ignored while a snapshot is in progress; one that is not wholly in memory is refused (R426). -/
def State.snap (s : State) (ch : Nat) : State :=
  let c := s.chan ch
  if c.snapBusy then s
  else if s.wholeIn c.snapAddr.toNat snapBytes then s.latchAll ch
  else s.modChan ch fun c => { c with snapErr := true }

/-- PMC_SNAP. -/
def execPmcSnap (ch : Fin 32) (s : State) : Out :=
  enabled (s.up ch.val) "the channel is not up" <| .next (s.snap ch.val)

/-- Byte `i` of a list of 64-bit values. -/
def qwordByte (l : List DWord) (i : Nat) : Byte := byteOf (l.getD (i / 8) 0).toNat (i % 8)

/-- Byte `i` of the header (R427), but for DONE. -/
def headerByte (ch : Nat) (seq : Nat) (sels : List Word) (latch done : DWord) (i : Nat) : Byte :=
  if i < 4 then byteOf seq i
  else if i = 4 then BitVec.ofNat 8 ch
  else if i < 8 then 0
  else if i < 16 then byteOf latch.toNat (i - 8)
  else if i < 24 then byteOf done.toNat (i - 16)
  else if i < 104 then byteOf (sels.getD ((i - 24) / 4) 0).toNat ((i - 24) % 4)
  else 0

/-- Byte `i` of a core entry. -/
def coreEntryByte (x : DWord × List DWord × Byte × Option (Fin 2048)) (avail : Bool) (i : Nat) : Byte :=
  if i < 64 then qwordByte x.2.1 i
  else if i < 72 then byteOf x.1.toNat (i - 64)
  else if i = 72 then x.2.2.1
  else if i = 73 then (if avail then 1 else 0)
  else if i < 76 then 0
  else byteOf (match x.2.2.2 with | some k => k.val | none => 0xFFFFFFFF) (i - 76)

/-- Byte `i` of a cluster entry. -/
def clusterEntryByte (x : List DWord × BitVec 4) (i : Nat) : Byte :=
  if i < 32 then qwordByte x.1 i else if i = 32 then x.2.setWidth 8 else 0

/-- Byte `i` of the channel entry. -/
def chanEntryByte (pmc : List DWord) (ovf : Byte) (i : Nat) : Byte :=
  if i < 64 then qwordByte pmc i else if i = 64 then ovf else 0

/-- Byte `i` of the record (R427), but for DONE. -/
def State.snapByte (s : State) (ch : Nat) (l : List DWord × Byte × List Word × DWord) (seq : Nat) (done : DWord) (i : Nat) : Byte :=
  if i < 128 then headerByte ch seq l.2.2.1 l.2.2.2 done i
  else if i < 2621568 then
    let k := 32768 * ch + (i - 128) / 80
    coreEntryByte ((s.core k).latched.getD (0, [], 0, none)) (s.available k) ((i - 128) % 80)
  else if i < 2627712 then
    let k := 128 * ch + (i - 2621568) / 48
    clusterEntryByte ((s.cluster k).latched.getD ([], 0)) ((i - 2621568) % 48)
  else chanEntryByte l.1 l.2.1 (i - 2627712)

/-- SNAPSHOT_COMPLETE: the record is written at class C3, DONE last; then SNAP_SEQ increments and SNAP_BUSY clears (R426). -/
def execSnapshotComplete (ch : Fin 32) (s : State) : Out :=
  let k := ch.val
  let c := s.chan k
  match c.chLatched with
  | none => enabled false "no snapshot is in progress" (.next s)
  | some l =>
    enabled (c.snapBusy && s.up k) "no snapshot is in progress" <|
      let s0 := s.elapse k
      let a := c.snapAddr.toNat
      let seq := (c.snapCount.toNat + 1) % 2 ^ 32
      let s1 := (s0.writePhysAt a snapBytes (s0.snapByte k l seq (s0.chan k).refcnt) 3).2
      let s2 := (s1.writePhys (a + 120) (bytesLe 8 (2 ^ 63 + seq)) 3).2
      .next { (s2.modChan k fun c => { c with snapBusy := false, chLatched := none, snapSeq := c.snapSeq + 1, snapCount := c.snapCount + 1 }) with
        cores := tmapIf Core.idle s2.cores (fun i => decide (channelOfCore i = k)) fun c => { c with latched := none }
        clusters := tmapIf Cluster.idle s2.clusters (fun i => decide (i / 128 = k)) fun c => { c with latched := none } }

/-! ## Tagged instructions (R428 to R430) -/

/-- TAG_CFG is written: LOG2N is kept while EN is 1; setting EN sets TAIL, TAG_HEAD and the record numbers to 0 (R430, R434). -/
def Channel.writeTagCfg (c : Channel) (v : Word) : Channel :=
  let was := c.tagCfg.getLsbD 31
  let w := v &&& 0xFFFFFE00
  let cfg := if was then (w &&& ~~~(0x0007C000 : Word)) ||| (c.tagCfg &&& 0x0007C000) else w
  if v.getLsbD 31 && !was then { c with tagCfg := cfg, tagHead := 0, tagTail := 0, tagSeq := 0 } else { c with tagCfg := cfg }

/-- TAG_ENABLE. -/
def execTagEnable (ch : Fin 32) (v : Word) (s : State) : Out := .next (s.modChan ch.val fun c => c.writeTagCfg v)

/-- The records of the ring: LOG2N acts as 10 to 24 (R434). -/
def Channel.ringSize (c : Channel) : Nat := 2 ^ Nat.max 10 (Nat.min ((c.tagCfg.toNat / 2 ^ 14) % 32) 24)

/-- The first core of a channel whose tagged instruction has ended. -/
def State.taggedCore (s : State) (ch : Nat) : Option (Nat × Tagged) :=
  s.cores.findSome? fun c =>
    if channelOfCore c.1 = ch then (match c.2.tagged with | some t => if t.done then some (c.1, t) else none | none => none) else none

/-- The four stage times (R429): ticks pass by amounts that the spec does not give, so the times are free values, each no earlier
than the one before. A stage that does not apply reads 0; every stage reads 0xFFFF after a fault. -/
def stageTimes (t : Tagged) (free : Nat → DWord) : List (BitVec 16) :=
  if t.fault then [0xFFFF, 0xFFFF, 0xFFFF, 0xFFFF]
  else
    let x : BitVec 16 := if t.lines = 0 ∧ !t.flags.getLsbD 4 then 0 else (free 0).setWidth 16
    if t.lines = 0 then [x, 0, 0, satAdd x ((free 3).toNat % 2 ^ 16)]
    else
      let l := satAdd x ((free 1).toNat % 2 ^ 16)
      let f := satAdd l ((free 2).toNat % 2 ^ 16)
      [x, l, f, satAdd f ((free 3).toNat % 2 ^ 16)]

/-- A stage record (R429). -/
def stageBytes (core : Nat) (t : Tagged) (seq : Word) (times : List (BitVec 16)) : List Byte :=
  bytesLe 4 seq.toNat ++ bytesLe 4 (core + 2 ^ 20 * t.slot.val) ++ bytesLe 8 t.ref.toNat ++ bytesLe 8 t.pc.toNat
    ++ bytesLe 4 t.instrHi.toNat ++ bytesLe 2 t.ctx.val ++ bytesLe 1 (t.eff.val + 4 * t.flags.toNat)
    ++ bytesLe 1 (t.lines % 64 + if t.fault then 64 else 0) ++ times.flatMap (fun x => bytesLe 2 x.toNat) ++ bytesLe 24 0

/-- TAG_RECORD_WRITE: the record goes to the ring, or is dropped and counted (R430). -/
def execTagRecordWrite (ch : Fin 32) (s : State) : Out :=
  let k := ch.val
  match s.taggedCore k with
  | none => enabled false "no tagged instruction has ended" (.next s)
  | some (core, t) =>
    let n := s.freeCount
    let s0 : State := { (s.modCore core fun c => { c with tagged := none }) with freeCount := n + 4 }
    let c := s0.chan k
    let size := c.ringSize
    let base := c.tagBase.toNat
    if decide ((c.tagTail - c.tagHead).toNat < size) && s0.wholeIn base (64 * size) then
      let bytes := stageBytes core t c.tagSeq (stageTimes t fun i => Config.free (n + i))
      let s1 := (s0.writePhys (base + 64 * (c.tagTail.toNat % size)) bytes 3).2
      .next (s1.modChan k fun c => { c with tagTail := c.tagTail + 1, tagSeq := c.tagSeq + 1 })
    else .next (s0.modChan k fun c => { c with tagLost := satAdd c.tagLost 1, tagSeq := c.tagSeq + 1 })

/-! ## Histograms (R431) -/

/-- HIST_SEL is written: the histogram takes its fields, and its bins are cleared. -/
def Channel.writeHist (c : Channel) (n : Nat) (v : Word) : Channel :=
  { c with hists := tset Hist.off c.hists n ⟨v &&& 0x80381FFF, []⟩ }

/-- HIST_SEL_WRITE. -/
def execHistSelWrite (ch : Fin 32) (n : Fin 4) (v : Word) (s : State) : Out := .next (s.modChan ch.val fun c => c.writeHist n.val v)

/-! ## Reads that change a register (R7, R25, R230) -/

/-- The data that a register read returns. -/
def State.returns (s : State) (v : DWord) : State := s.setHub fun h => { h with readData := v }

/-- Two 16-bit counters in one register. -/
def pair16 (hi lo : BitVec 16) : DWord := (hi ++ lo).setWidth 64

/-- A flag as a number. -/
def bit (b : Bool) (i : Nat) : Nat := if b then 2 ^ i else 0

/-- FAB_STATUS (R25). -/
def Channel.fabStatus (c : Channel) : Nat := bit c.railSettling 3 + bit c.supplyFault 2 + bit c.refLost 1 + bit c.refOk 0

/-- FAB_PACEMON (R25). -/
def Channel.fabPacemon (c : Channel) : Nat := c.paceMin.toNat * 65536 + c.paceMean.toNat

/-- A read at an offset of the fabric block, of four bytes or, `wide`, of eight: its data, and the state that it leaves. The eight-byte
read of FAB_REFCNT takes both halves of one tick; the four-byte read of its low half latches the high half; the read of offset 4 returns
the live high half and latches nothing (R25). -/
def State.fabRead (s : State) (ch o : Nat) (wide : Bool) : DWord × State :=
  let s1 := s.elapse ch
  let c := s1.chan ch
  let high : Word := c.refcnt.extractLsb' 32 32
  match o, wide with
  | 0x00, true => (c.refcnt, s1)
  | 0x00, false => (c.refcnt &&& 0xFFFFFFFF, s1.modChan ch fun c => { c with reflatch := high })
  | 0x04, false => (high.setWidth 64, s1)
  | 0x08, _ => (c.reflatch.setWidth 64, s1)
  | 0x10, _ => (BitVec.ofNat 64 c.fabStatus, s1)
  | 0x18, _ => (BitVec.ofNat 64 c.fabPacemon, s1)
  | _, _ => (0, s1)

/-- FAB_REFCNT_LOW_READ: COUNT[31:0], with COUNT[63:32] of the same tick into FAB_REFLATCH. The other reads of `State.fabRead` change no
register and have no row of the table. -/
def execFabRefcntLowRead (ch : Fin 32) (s : State) : Out :=
  let r := s.fabRead ch.val 0x00 false
  .next (r.2.returns r.1)

/-- ERRLOG_READ: an aligned 8-byte read of CC_ERRLOG or MEM_ERRLOG. -/
def execErrlogRead (ch : Fin 32) (mem : Bool) (s : State) : Out :=
  let c := s.chan ch.val
  .next (if mem then (s.modChan ch.val fun c => { c with memErrlog := 0 }).returns c.memErrlog
    else (s.modChan ch.val fun c => { c with ccErrlog := 0 }).returns c.ccErrlog)

/-- A counter of a channel window is read and cleared. -/
def State.readClear (s : State) (ch : Fin 32) (v : Channel → DWord) (clear : Channel → Channel) : State :=
  (s.modChan ch.val clear).returns (v (s.chan ch.val))

/-- RC_COUNTER_READ: the value is returned and cleared, by the layouts of the register tables. -/
def execRcCounterRead (r : RcReg) (s : State) : Out :=
  .next (match r with
    | .sluEcc ch => s.readClear ch (fun c => c.sluEcc.setWidth 64) fun c => { c with sluEcc := 0 }
    | .sluDrop ch => s.readClear ch (fun c => pair16 c.feUnreg c.sigDiscard) fun c => { c with feUnreg := 0, sigDiscard := 0 }
    | .sluMeDrop ch => s.readClear ch (fun c => c.meDiscard.setWidth 64) fun c => { c with meDiscard := 0 }
    | .ccCorr ch => s.readClear ch (fun c => pair16 c.ccCorrSlice c.ccCorrCluster) fun c => { c with ccCorrSlice := 0, ccCorrCluster := 0 }
    | .ccUncorr ch => s.readClear ch (fun c => pair16 c.ccPoisoned c.ccDropped) fun c => { c with ccPoisoned := 0, ccDropped := 0 }
    | .ccLost ch => s.readClear ch (fun c => c.ccLost.setWidth 64) fun c => { c with ccLost := 0 }
    | .memCorr ch => s.readClear ch (fun c => c.memCorr.setWidth 64) fun c => { c with memCorr := 0 }
    | .memUncorr ch => s.readClear ch (fun c => pair16 c.uncorr c.oor) fun c => { c with uncorr := 0, oor := 0 }
    | .xltWalks ch => s.readClear ch (fun c => c.xltWalks.setWidth 64) fun c => { c with xltWalks := 0 }
    | .xltFaults ch => s.readClear ch (fun c => pair16 c.xltMerged c.xltOpened) fun c => { c with xltMerged := 0, xltOpened := 0 }
    | .ltFec ch => s.readClear ch (fun c => c.ltFec.setWidth 64) fun c => { c with ltFec := 0 }
    | .ltLinkErr ch => s.readClear ch (fun c => pair16 c.ltReplays c.ltBadBlocks) fun c => { c with ltReplays := 0, ltBadBlocks := 0 }
    | .ltDup ch => s.readClear ch (fun c => pair16 c.ltResent c.ltDuplicates) fun c => { c with ltResent := 0, ltDuplicates := 0 }
    | .tagLost ch => s.readClear ch (fun c => c.tagLost.setWidth 64) fun c => { c with tagLost := 0 }
    | .fnCounts fn =>
      let f := s.fnOf fn.val
      (s.modFn fn.val fun g => { g with badWrite := 0, stale := 0, dup := 0, evLost := 0 }).returns
        ((f.badWrite ++ f.stale ++ f.dup ++ f.evLost).setWidth 64))

end Sys2Proof.Machine
end

