-- ==== Sys2Proof/Machine/Registers.lean ====
section
/-! DEFINITION. Writes of registers (R7, R8, R301, R322, R328, R329, R383, R434 and the register tables): the function block, the
channel windows and the mailboxes. A wide write is its two halves, the lower first. -/

namespace Sys2Proof.Machine

/-- The low and the high half of a 64-bit register replaced. -/
def setHalf (x : DWord) (high : Bool) (w : Word) : DWord :=
  if high then (w ++ x.extractLsb' 0 32 : BitVec 64) else (x.extractLsb' 32 32 ++ w : BitVec 64)

/-! ## The function block -/

/-- A BASE register: bits [63:12], while the area is off. -/
def Area.setBase {α : Type} (a : Area α) (high : Bool) (w : Word) : Area α :=
  if a.enabled then a else { a with base := setHalf a.base high w &&& 0xFFFFFFFFFFFFF000 }

/-- A doubleword of the MSI-X table, four to a vector: address, data, mask bit. -/
def State.writeMsix (s : State) (fn : Nat) (v : Fin 32) (part : Nat) (w : Word) : State :=
  let set (f : Vec → Vec) : State := s.modFn fn fun g => { g with vecs := tmod Vec.reset g.vecs v.val f }
  match part with
  | 0 => set fun x => { x with addr := setHalf x.addr false w }
  | 1 => set fun x => { x with addr := setHalf x.addr true w }
  | 2 => set fun x => { x with data := w }
  | _ => if w.getLsbD 0 then set fun x => { x with masked := true } else s.unmask fn v

/-- The area of a function block's 16-byte group of registers from 0x08. -/
def areaAt (i : Nat) : AreaRef := match i with | 0 => .fnCq | 1 => .fault | _ => .event

/-- The BASE of an area of the function block. -/
def State.writeBase (s : State) (fn : Nat) (i : Nat) (high : Bool) (w : Word) : State :=
  s.modFn fn fun f => match i with
    | 0 => { f with cq := f.cq.setBase high w }
    | 1 => { f with fault := f.fault.setBase high w }
    | _ => { f with event := f.event.setBase high w }

/-- A 32-bit write in the function block. -/
def State.writeFnReg (s : State) (fn : Fin 257) (o : Nat) (w : Word) : State :=
  let n := fn.val
  if 0x08 ≤ o ∧ o < 0x38 then
    let i := (o - 8) / 16
    match (o - 8) % 16 with
    | 0 => s.writeBase n i false w
    | 4 => s.writeBase n i true w
    | 8 => s.writeCfg n (areaAt i) w
    | _ => s.writeHead fn (areaAt i) w
  else if o = 0x48 then s.writeFnStore n (setHalf ((s.fnOf n).storeBase) false w)
  else if o = 0x4C then
    if (s.fnOf n).storeEn then s else s.modFn n fun f => { f with storeBase := setHalf f.storeBase true w }
  else if 0x100 ≤ o ∧ o < 0x180 then
    s.modFn n fun f => { f with vecs := tmod Vec.reset f.vecs ((o - 0x100) / 4) fun x =>
      { x with count := w.extractLsb' 24 8, time := w.extractLsb' 8 16 } }
  else if 0x2000 ≤ o ∧ o < 0x4000 then s.writeHead fn (.ctxCq (BitVec.ofNat 11 ((o - 0x2000) / 4)).toFin) w
  else if 0x8000 ≤ o ∧ o < 0x8200 then s.writeMsix n (BitVec.ofNat 5 ((o - 0x8000) / 16)).toFin ((o % 16) / 4) w
  else s

/-! ## A channel window -/

/-- PMC_CTL (R424, R425, R426, R434). -/
def State.writePmcCtl (s : State) (ch : Nat) (w : Word) : State :=
  let s1 := s.modChan ch fun c =>
    ({ c with pmcUser := w.extractLsb' 16 8, freezeOnOvf := w.getLsbD 2 }).setFreeze (w.getLsbD 0)
  if w.getLsbD 1 && s.up ch then s1.snap ch else s1

/-- LT_CFG: the ports whose PORT_EN bit changes, AUTO_RETRAIN, and the ports to retrain (R294). -/
def State.writeLtCfg (s : State) (ch : Nat) (w : Word) : State :=
  let s1 := s.modChan ch fun c => { c with autoRetrain := w.getLsbD 6 }
  let s2 := (List.range 6).foldl (fun acc p =>
    let was := (acc.chan ch).portEn.getLsbD p
    if w.getLsbD p = was then acc else if was then acc.disablePort ch p else acc.enablePort ch p) s1
  (List.range 6).foldl (fun acc p => if w.getLsbD (8 + p) then acc.askRetrain ch p else acc) s2

/-- A 32-bit write in the window of a channel. Registers that only the device writes ignore it. -/
def State.writeChanReg (s : State) (ch : Nat) (o : Nat) (w : Word) : State :=
  let set (f : Channel → Channel) : State := s.modChan ch f
  if o = 0x10 then set fun c => { c with supplyFault := c.supplyFault && !w.getLsbD 2, refLost := c.refLost && !w.getLsbD 1 }
  else if o = 0x100 then
    set fun c => { c with demoteWait := w.extractLsb' 24 5, waithintBackoff := w.extractLsb' 16 8, rotateQuantum := w.extractLsb' 0 16 }
  else if o = 0x200 then set fun c => { c with rampUnits := w.extractLsb' 0 8 }
  else if o = 0x204 then set fun c => { c with stallLimit := w }
  else if o = 0x300 then set fun c => { c with prefEn := w.getLsbD 1, stashEn := w.getLsbD 0 }
  else if o = 0x400 then
    let s1 := set fun c => { c with autoGrant := w.getLsbD 16, evacRate := w.extractLsb' 8 8, scrubPeriod := w.extractLsb' 0 8 }
    if w.getLsbD 16 && decide ((s.chan ch).evacState = 1) && s.up ch then s1.startEvacuation ch else s1
  else if o = 0x620 then s.writeLtCfg ch w
  else if o = 0x700 then s.writePmcCtl ch w
  else if o = 0x704 then set fun c => { c with snapErr := c.snapErr && !w.getLsbD 21, ovf := c.ovf &&& ~~~(w.extractLsb' 0 20) }
  else if o = 0x708 ∨ o = 0x70C then
    set fun c => if c.snapBusy then c else { c with snapAddr := setHalf c.snapAddr (o = 0x70C) w &&& 0x01FFFFFFFFFFFFC0 }
  else if 0x720 ≤ o ∧ o < 0x740 then s.writeSel ch ((o - 0x720) / 4) w
  else if 0x740 ≤ o ∧ o < 0x750 then s.writeSel ch (8 + (o - 0x740) / 4) w
  else if 0x750 ≤ o ∧ o < 0x770 then s.writeSel ch (12 + (o - 0x750) / 4) w
  else if o = 0x7C0 then set fun c => c.writeTagCfg w
  else if o = 0x7C4 then set fun c => { c with tagHead := w }
  else if o = 0x7D0 ∨ o = 0x7D4 then
    set fun c => if c.tagCfg.getLsbD 31 then c else { c with tagBase := setHalf c.tagBase (o = 0x7D4) w &&& 0x01FFFFFFFFFFF000 }
  else if 0x7E0 ≤ o ∧ o < 0x7F0 then set fun c => c.writeHist ((o - 0x7E0) / 4) w
  else s

/-! ## A mailbox (R383) -/

/-- The services that a request can ask for (R365). -/
def svcDefined (svc : Nat) : Bool := decide (svc ∈ [0x01, 0x02, 0x03, 0x04, 0x10, 0x12, 0x14])

/-- GO is busy. -/
def Mailbox.go (x : Mailbox) : Bool := x.ctrl.getLsbD 31

/-- A 32-bit write to a mailbox, ignored while GO is 1. An undefined service is counted in MALFORMED; the status that answers it is a
free value. -/
def State.writeMailbox (s : State) (m : Nat) (o : Nat) (w : Word) : State :=
  let x := tget Mailbox.reset s.hub.mailboxes m
  let put (s : State) (y : Mailbox) : State := s.setHub fun h => { h with mailboxes := tset Mailbox.reset h.mailboxes m y }
  if x.go then s
  else if o = 0x000 then put s { x with key := w }
  else if o = 0x004 then
    let c := w &&& 0xE00000FF
    if c.getLsbD 31 && !svcDefined (x.key.toNat / 2 ^ 24) then
      let f := s.takeFree
      put (f.2.setHub fun h => { h with malformed := satAdd h.malformed 1 })
        { x with ctrl := c &&& 0x7FFFFFFF, status := (f.1.extractLsb' 0 16).setWidth 32 }
    else put s { x with ctrl := c }
  else if o = 0x008 then put s { x with offset := w &&& 0xFFFF }
  else if o = 0x00C then put s { x with len := w &&& 0xFFF }
  else if o = 0x010 then put s { x with txn := w }
  else if o = 0x018 then put s { x with tag := setHalf x.tag false w }
  else if o = 0x01C then put s { x with tag := setHalf x.tag true w }
  else if 0x800 ≤ o then
    put s { x with data := (List.range 4).foldl (fun t i => tset 0 t (o - 0x800 + i) (byteOf w.toNat i)) x.data }
  else s

/-! ## Any register -/

/-- A 32-bit write at an offset of BAR0, or of BAR4; only the owner function reaches beyond the function block (R301). -/
def State.writeReg (s : State) (fn : Fin 257) (bar4 : Bool) (o : Nat) (w : Word) : State :=
  if bar4 then (if fn.val = 0 ∧ o < 0x4000 then s.writeMailbox (o / 0x1000) (o % 0x1000) w else s)
  else if o < 0x10000 then s.writeFnReg fn o w
  else if fn.val = 0 ∧ 0x100000 ≤ o ∧ o < 0x300000 then s.writeChanReg ((o - 0x100000) / 0x10000) (o % 0x10000) w
  else s

/-- REGISTER_WRITE: four bytes, or eight. A write of FN_STORE takes BASE with EN. -/
def execRegisterWrite (fn : Fin 257) (bar4 : Bool) (offset : BitVec 22) (wide : Bool) (v : DWord) (s : State) : Out :=
  let o := offset.toNat
  let lo : Word := v.extractLsb' 0 32
  enabled s.hub.ready "the host port is not up" <|
    if !wide then .next (s.writeReg fn bar4 o lo)
    else if !bar4 && decide (o = 0x48) then .next (s.writeFnStore fn.val v)
    else .next ((s.writeReg fn bar4 o lo).writeReg fn bar4 (o + 4) (v.extractLsb' 32 32))

end Sys2Proof.Machine
end

