-- ==== Sys2Proof/Machine/Dictionary.lean ====
section
/-! DEFINITION. The object dictionary (R356, R375 to R382, R404 to R406, R435, R446): its entries, what each holds, and what a write of
each does. -/

namespace Sys2Proof.Machine

/-! ## Entries (R375, R381, R382, R404, R405, R435) -/

/-- Types (R375): their codes. -/
def tU8 : Nat := 0x01
def tU16 : Nat := 0x02
def tU32 : Nat := 0x03
def tU64 : Nat := 0x04
def tI16 : Nat := 0x06
def tText : Nat := 0x0A
def tOctets : Nat := 0x0B
def tDomain : Nat := 0x0C

/-- Access codes (R375). -/
inductive EntryAccess where
  | const | ro | rw | wo | rwa
  deriving DecidableEq, Repr

def EntryAccess.code : EntryAccess → Nat
  | .const => 0
  | .ro => 1
  | .rw => 2
  | .wo => 3
  | .rwa => 4

/-- The attributes of an entry: its type, size in bytes, access, default (none: none is stated), flags P and C. -/
structure Entry where
  type : Nat
  size : Nat
  access : EntryAccess
  dflt : Option Nat
  p : Bool
  c : Bool
  deriving DecidableEq, Repr

/-- The size of a number type. -/
def sizeOfType (t : Nat) : Nat :=
  if t = tU8 then 1 else if t = tU16 ∨ t = tI16 then 2 else if t = tU32 then 4 else if t = tU64 then 8 else 0

/-- An entry of a number type that is read only. -/
def Entry.ro (t : Nat) (dflt : Option Nat) : Entry := ⟨t, sizeOfType t, .ro, dflt, false, false⟩
/-- An entry of a number type that is persistent. -/
def Entry.kept (t : Nat) (access : EntryAccess) (dflt : Nat) : Entry := ⟨t, sizeOfType t, access, some dflt, true, false⟩
/-- A subindex 0 that gives the highest subindex (R375). -/
def Entry.top (n : Nat) : Entry := ⟨tU8, 1, .const, some n, false, false⟩

/-- The indices 0x4000 to 0x47FF: channel and k (R382). -/
def chanIndex (idx : Nat) : Option (Nat × Nat) :=
  if 0x4000 ≤ idx ∧ idx < 0x4800 then some ((idx - 0x4000) / 0x40, (idx - 0x4000) % 0x40) else none

/-- The highest subindex of an index; 0 where subindex 0 is the entry itself; none where there is no object. -/
def topSub (idx : Nat) : Option Nat :=
  match idx with
  | 0x1008 | 0x100A | 0x1011 | 0x1F00 | 0x1F03 | 0x1F11 | 0x1F20 | 0x1F21 | 0x2000 | 0x2001 | 0x2003 | 0x2004 => some 0
  | 0x7010 | 0x7011 | 0x7012 | 0x7013 | 0x7014 | 0x7015 | 0x7020 | 0x7021 | 0x7022 | 0x7024 | 0x7025 | 0x7026 | 0x7027 => some 0
  | 0x1018 | 0x1F01 | 0x1F02 => some 4
  | 0x1F04 => some 7
  | 0x1F10 | 0x2002 | 0x7040 => some 2
  | 0x6000 | 0x7030 => some 3
  | 0x7050 => some 128
  | 0x7051 => some 129
  | 0x8100 | 0x8101 => some 32
  | _ =>
    if 0x2100 ≤ idx ∧ idx < 0x2300 then some 4
    else if 0x6101 ≤ idx ∧ idx ≤ 0x6200 then some 3
    else if 0x6800 ≤ idx ∧ idx < 0x7000 then some 6
    else if 0x8000 ≤ idx ∧ idx < 0x8020 then some 9
    else if 0x8040 ≤ idx ∧ idx < 0x80C0 then some 16
    else
      match chanIndex idx with
      | some (_, k) =>
        match k with
        | 0x00 | 0x02 => some 3
        | 0x01 | 0x03 | 0x13 => some 2
        | 0x04 | 0x12 | 0x14 => some 0
        | 0x08 | 0x09 | 0x0A | 0x0B | 0x0C | 0x0D => some 3
        | 0x10 => some 7
        | 0x11 => some 8
        | _ => none
      | none => none

/-- The entry of an index below 0x4000, or from 0x6000, with a named subindex. -/
def deviceEntry (idx sub : Nat) : Entry :=
  match idx, sub with
  | 0x1008, _ => ⟨tText, 8, .const, some (leNat [0x53, 0x4C, 0x57, 0x2D, 0x39, 0x31, 0x36, 0x30]), false, false⟩
  | 0x100A, _ => ⟨tText, 16, .ro, none, false, false⟩
  | 0x1011, _ => ⟨tU8, 1, .rwa, some 0, false, false⟩
  | 0x1018, 1 => ⟨tU32, 4, .const, some 0x00004B4D, false, false⟩
  | 0x1018, 2 => ⟨tU32, 4, .const, some 0x00009160, false, false⟩
  | 0x1018, 3 => ⟨tU32, 4, .const, some Config.hardwareRevision.toNat, false, false⟩
  | 0x1018, _ => ⟨tU32, 4, .const, some Config.serial.toNat, false, false⟩
  | 0x1F00, _ => .ro tU8 (some Config.straps.val)
  | 0x1F01, 1 => .kept tU16 .rw 500
  | 0x1F01, 2 => .kept tU16 .rw 2000
  | 0x1F01, 3 => .kept tU16 .rw 5000
  | 0x1F01, _ => .kept tU8 .rw 1
  | 0x1F02, 1 => .kept tU16 .rw 0x0400
  | 0x1F02, 2 => .kept tU8 .rw 0xC5
  | 0x1F02, 3 => .kept tU8 .rw 0
  | 0x1F02, _ => .kept tU8 .rw 5
  | 0x1F03, _ => .kept tU8 .rw 1
  | 0x1F04, _ => .ro tU32 (some 0)
  | 0x1F10, _ => .ro tU32 (some 0)
  | 0x1F11, _ => .kept tU16 .rwa 30
  | 0x1F20, _ => ⟨tOctets, 32, .ro, some 0, false, false⟩
  | 0x1F21, _ => ⟨tDomain, Config.certificate.length, .const, some (leNat Config.certificate), false, false⟩
  | 0x2000, _ => ⟨tOctets, 16, .ro, none, false, false⟩
  | 0x2001, _ => .kept tU32 .rwa 0
  | 0x2002, 1 => .kept tU16 .rwa 0
  | 0x2002, _ => .ro tU16 none
  | 0x2003, _ => ⟨tOctets, 64, .rwa, some 0, true, true⟩
  | 0x2004, _ => ⟨tU32, 4, .rwa, some 20, true, true⟩
  | 0x6000, 1 => .kept tU8 .rw 8
  | 0x6000, 2 => .kept tU8 .rw 4
  | 0x6000, _ => .kept tU8 .rw 1
  | 0x7010, _ => .kept tU32 .rwa 6500
  | 0x7011, _ => .kept tU8 .rwa 100
  | 0x7012, _ => .kept tU8 .rwa 90
  | 0x7013, _ => .ro tU32 none
  | 0x7014, _ => .ro tU32 none
  | 0x7015, _ => .ro tU8 (some 0)
  | 0x7020, _ => .kept tU16 .rwa 0x1000
  | 0x7021, _ => .kept tU16 .rwa 0x0334
  | 0x7022, _ => .kept tU16 .rwa 0x0800
  | 0x7024, _ => ⟨tOctets, 64, .rwa, some 0, true, false⟩
  | 0x7025, _ | 0x7026, _ | 0x7027, _ => .ro tU16 none
  | 0x7030, 1 => ⟨tU8, 1, .rwa, some 0, false, false⟩
  | 0x7030, 2 => .ro tU8 none
  | 0x7030, _ => ⟨tU32, 4, .ro, some 0, true, false⟩
  | 0x7040, _ | 0x7050, _ | 0x7051, _ => .ro tU64 (some 0)
  | 0x8100, _ | 0x8101, _ => .ro tU32 none
  | _, _ =>
    if idx < 0x2300 then .kept tU8 .rwa 0
    else if idx ≤ 0x6200 then .ro tU16 (some (match sub with | 1 => 1 | 2 => 8 | _ => 0))
    else if idx < 0x7000 then .ro (match sub with | 1 | 2 => tU8 | 3 => tU16 | _ => tU32) none
    else if idx < 0x8020 then .ro (if sub = 9 then tU8 else tU64) none
    else .ro tU32 none

/-- The entry of k of a channel, with a named subindex (R382, R405, R446). -/
def chanEntry (k sub : Nat) : Entry :=
  match k, sub with
  | 0x00, 1 => .ro tU8 none
  | 0x02, 2 => .ro tU64 none
  | 0x03, 1 => ⟨tU8, 1, .wo, none, false, false⟩
  | 0x03, _ => ⟨tU8, 1, .rwa, none, false, false⟩
  | 0x04, _ => ⟨tU8, 1, .rwa, some 0, false, false⟩
  | 0x10, 3 | 0x10, 4 => .ro tI16 none
  | 0x10, 6 => .ro tU32 none
  | 0x10, 7 => .ro tU8 none
  | 0x10, _ => .ro tU16 none
  | 0x11, _ => .ro tU16 none
  | 0x12, _ => ⟨tU8, 1, .wo, none, false, false⟩
  | 0x13, _ => .ro tU64 none
  | 0x14, _ => ⟨tU8, 1, .rwa, none, false, false⟩
  | _, _ => .ro tU32 none

/-- Status codes (R368). -/
def ebOk : Byte := 0x00
def ebNoObject : Byte := 0x01
def ebNoSubindex : Byte := 0x02
def ebReadOnly : Byte := 0x03
def ebWriteOnly : Byte := 0x04
def ebAuthRequired : Byte := 0x05
def ebAuthFailed : Byte := 0x06
def ebLength : Byte := 0x07
def ebRange : Byte := 0x08
def ebStale : Byte := 0x09
def ebBusy : Byte := 0x0A
def ebSegment : Byte := 0x0B
def ebNotReady : Byte := 0x0C
def ebNoSession : Byte := 0x0D
def ebNotPermitted : Byte := 0x0E

/-- Look an entry up: NO_OBJECT, NO_SUBINDEX, or its attributes. -/
def lookup (idx sub : Nat) : Except Byte Entry :=
  match topSub idx with
  | none => .error ebNoObject
  | some n =>
    if n < sub ∨ sub = 0xFF then .error ebNoSubindex
    else if n ≠ 0 ∧ sub = 0 then .ok (.top n)
    else
      match chanIndex idx with
      | some (_, k) => .ok (chanEntry k sub)
      | none => .ok (deviceEntry idx sub)

/-- The channel that holds an entry is resetting (R382, R405, R435). -/
def State.notReady (s : State) (idx : Nat) : Bool :=
  match chanIndex idx with
  | some (ch, k) => decide ((s.chan ch).state = 1) && !decide (k = 0x00) && !decide (k = 0x11) && !decide (k = 0x13)
  | none =>
    if 0x8000 ≤ idx ∧ idx < 0x8020 then decide ((s.chan (idx - 0x8000)).state = 1)
    else if 0x8040 ≤ idx ∧ idx < 0x80C0 then decide ((s.chan ((idx - 0x8040) / 4)).state = 1)
    else false

/-! ## What the entries hold -/

/-- MEM_STATUS. -/
def Channel.memStatus (c : Channel) : Nat := 4096 * c.evacPc.val + 1024 * c.evacState.val + bit c.degraded 9 + c.mappedOut
/-- MEM_EVAC. -/
def Channel.memEvac (c : Channel) : Nat := 2 ^ 24 * c.mappedOut + 4096 * (c.evacTotal % 4096) + c.evacDone % 4096

/-- STATE of a port (R290). -/
def PortState.code : PortState → Nat
  | .down => 0
  | .training => 1
  | .ident => 2
  | .coherent => 3
  | .quarantine => 4
  | .dead => 5
  | .retrain => 6

/-- LT_PORT. -/
def Port.reg (x : Port) : Nat :=
  let far := match x.far with
    | some r => 2 ^ 25 * r.port.val + 2 ^ 20 * r.channel.val + 2 ^ 11 * r.node.val
    | none => 0
  far + 2 ^ 6 * x.mismatch.toNat + 8 * x.width.val + x.state.code

/-- Presented cores of a channel that are unavailable (R62). -/
def State.unavailableCores (s : State) (ch : Nat) : Nat :=
  ((List.range 32768).filter fun i => !s.available (32768 * ch + i)).length

/-- The power state of a channel: 0 run, 1 hold, 2 rest. -/
def State.powerState (s : State) (ch : Nat) : Nat := if (s.chan ch).rest then 2 else if s.inHold ch then 1 else 0

/-- The retire entry: 1 from the write that retires to the write that reinstates (R446, R448). -/
def Channel.retireValue (c : Channel) : Nat := if c.retireAsked && !c.reinstateAsked then 1 else 0

/-- The value of an entry of a channel. -/
def State.chanValue (s : State) (ch k sub : Nat) : Nat :=
  let c := s.chan ch
  match k, sub with
  | 0x00, 1 => c.state.val
  | 0x00, 2 => s.unavailableCores ch
  | 0x00, _ => c.fwVersion.toNat
  | 0x01, 1 => c.fabStatus
  | 0x01, _ => c.fabPacemon
  | 0x02, 1 => c.memStatus
  | 0x02, 2 => c.memMap.toNat
  | 0x02, _ => c.memEvac
  | 0x03, _ => bit c.granted 0
  | 0x04, _ => c.retireValue
  | 0x10, 1 => c.railMilliVolts
  | 0x10, 2 => bit c.stretch 0
  | 0x10, 3 => (BitVec.ofInt 16 c.hottestDie).toNat
  | 0x10, 4 => (BitVec.ofInt 16 c.hottestStack).toNat
  | 0x10, 5 => c.pTherm.toNat
  | 0x10, 6 => c.trips.toNat
  | 0x10, _ => s.powerState ch
  | 0x11, i => (c.curve.getD (i - 1) 0).toNat
  | 0x13, 1 => c.energy
  | 0x13, _ => c.idle
  | 0x14, _ => bit c.rest 0
  | k, 1 => (s.port ch (k - 8)).reg
  | k, 2 => match (s.port ch (k - 8)).far with | some r => r.firmware.toNat | none => 0
  | k, _ => match (s.port ch (k - 8)).far with | some r => r.powerOn.toNat | none => 0

/-- The channels on which a context is resident (R330). -/
def State.residentMask (s : State) (ctx : Nat) : Nat := bitsOf (fun ch => s.residentOn ctx ch) 32

/-- Object 0x6800 + n (R356); a number that names no context reads a free value. -/
def State.contextValue (s : State) (n sub : Nat) (free : Nat) : Nat :=
  let c := s.ctx n
  if c.state = .absent then free
  else
    match sub with
    | 1 => c.cls.val
    | 2 => c.weight.toNat
    | 3 => c.reserve
    | 4 => c.tokens
    | 5 => c.demoted.toNat
    | _ => s.residentMask n

/-- Sessions that are open. -/
def Hub.openSessions (h : Hub) : Nat := (h.sessions.filter fun e => decide (e.2.source ≠ none)).length

/-- The value of an entry that is not a channel's. TEC and REC, which no step counts, and what the spec leaves open are the free
value. -/
def State.deviceValue (s : State) (idx sub : Nat) (free : Nat) : Nat :=
  let h := s.hub
  let d := h.dict
  match idx, sub with
  | 0x100A, _ => (Config.versionText h.hubVersion).toNat
  | 0x1011, _ => bit h.restoreAsked 0
  | 0x1F00, _ => h.address.val
  | 0x1F01, 1 => d.arbRate.toNat
  | 0x1F01, 2 => d.fdRate.toNat
  | 0x1F01, 3 => d.xlRate.toNat
  | 0x1F01, _ => d.frameMode.toNat
  | 0x1F02, 1 => d.prioBase.toNat
  | 0x1F02, 2 => d.sdt.toNat
  | 0x1F02, 3 => d.vcid.toNat
  | 0x1F02, _ => d.fdMarker.toNat
  | 0x1F03, _ => d.eventEn.toNat
  | 0x1F04, 1 => h.busState.val
  | 0x1F04, 2 | 0x1F04, 3 => free
  | 0x1F04, 4 => h.busOffs.toNat
  | 0x1F04, 5 => h.overrun.toNat
  | 0x1F04, 6 => h.malformed.toNat
  | 0x1F04, _ => h.addrConflict.toNat
  | 0x1F10, 1 => h.openSessions
  | 0x1F10, _ => h.failedTags.toNat
  | 0x1F11, _ => d.sessionIdle.toNat
  | 0x1F20, _ => h.ownerHash.toNat
  | 0x2000, _ => h.digest.toNat
  | 0x2001, _ => d.epoch.toNat
  | 0x2002, 1 => d.nodeNext.toNat
  | 0x2002, _ => h.node.val
  | 0x2003, _ => d.nodeTable.toNat
  | 0x2004, _ => d.linkDead.toNat
  | 0x6000, i => (d.weights.getD (i - 1) 0).toNat
  | 0x7010, _ => d.powerLimit.toNat
  | 0x7011, _ => d.tjLimit.toNat
  | 0x7012, _ => d.stackLimit.toNat
  | 0x7013, _ => h.powerMeans.sum / (1000 * Nat.max 1 h.powerMeans.length)
  | 0x7014, _ => h.inputMilliVolts.toNat
  | 0x7015, _ => bit h.undervolt 2 + bit h.currentBinding 1 + bit h.powerShort 0
  | 0x7020, _ => d.paceTarget.toNat
  | 0x7021, _ => d.paceFloor.toNat
  | 0x7022, _ => d.paceStart.toNat
  | 0x7024, _ => d.peerMask.toNat
  | 0x7025, _ => h.sustainable.toNat
  | 0x7026, _ => h.jobPace.toNat
  | 0x7027, _ => h.applied.toNat
  | 0x7030, 1 => bit h.trip 1 + bit h.coolant 0
  | 0x7030, 2 => bit h.pin 0
  | 0x7030, _ => h.coolantStops.toNat
  | 0x7040, 1 => h.deviceEnergy
  | 0x7040, _ => h.deviceIdle
  | 0x7050, i => (s.fnOf (i - 1)).energy
  | 0x7051, i => (s.fnOf (i + 127)).energy
  | 0x8100, i => tget 0 h.histStart (i - 1)
  | 0x8101, i => tget 0 h.histEnd (i - 1)
  | _, _ =>
    if idx < 0x2300 then (routeByte (tget 0 d.routes (idx - 0x2100)) (sub - 1)).toNat
    else if idx ≤ 0x6200 then
      let f := s.fnOf (idx - 0x6100)
      match sub with
      | 1 => f.minClass.val
      | 2 => f.maxCtx
      | _ => f.maxRes
    else if idx < 0x7000 then s.contextValue (idx - 0x6800) sub free
    else if idx < 0x8020 then
      let c := s.chan (idx - 0x8000)
      if sub = 9 then c.snapSeq.toNat else (tget 0 c.chPmc (sub - 1)).toNat
    else
      let i := idx - 0x8040
      tget 0 (tget Hist.off (s.chan (i / 4)).hists (i % 4)).bins (sub - 1)

/-- The value of an entry as a number, whose bytes are stored little-endian (R7). -/
def State.entryNat (s : State) (e : Entry) (idx sub : Nat) (free : Nat) : Nat :=
  match e.access, e.dflt with
  | .const, some n => n
  | _, _ =>
    match chanIndex idx with
    | some (ch, k) => s.chanValue ch k sub
    | none => s.deviceValue idx sub free

/-- The bytes of an entry. -/
def State.entryBytes (s : State) (e : Entry) (idx sub : Nat) (free : Nat) : List Byte := bytesLe e.size (s.entryNat e idx sub free)

/-- VER (R379): counted for the entries that a write can change, 0 for constants, free for what the device itself changes. -/
def State.verOf (s : State) (e : Entry) (idx sub : Nat) (free : Nat) : Byte :=
  match e.access with
  | .const => 0
  | .ro => BitVec.ofNat 8 free
  | _ => BitVec.ofNat 8 (tget 0 s.hub.changes (256 * idx + sub))

/-! ## Writes (R376 to R382, R404) -/

/-- Arbitration, CAN FD and CAN XL rates (R358). -/
def arbRates : List Nat := [125, 250, 500, 1000]
def fdRates : List Nat := [1000, 2000, 4000, 5000, 8000]

/-- A value between two bounds. -/
def inside (lo hi v : Nat) : Bool := decide (lo ≤ v) && decide (v ≤ hi)

/-- The order of the pace entries (R404). -/
def Dict.pacesOk (d : Dict) : Bool :=
  decide (d.paceFloor ≤ d.paceStart) && (decide (d.paceTarget = 0) || decide (d.paceFloor ≤ d.paceTarget))

/-- A route byte replaced. -/
def setRoute (w : Word) (i : Nat) (v : Nat) : Word :=
  BitVec.ofNat 32 (leNat ((List.range 4).map fun j => if j = i then BitVec.ofNat 8 v else routeByte w j))

/-- A write to an entry of the dictionary: none where the value is outside the entry's range. -/
def Dict.write (d : Dict) (idx sub v : Nat) : Option Dict :=
  let keep (b : Bool) (x : Dict) : Option Dict := if b then some x else none
  let pace (b : Bool) (x : Dict) : Option Dict := keep (b && x.pacesOk) x
  match idx, sub with
  | 0x1F01, 1 => keep (decide (v ∈ arbRates)) { d with arbRate := BitVec.ofNat 16 v }
  | 0x1F01, 2 => keep (decide (v ∈ fdRates)) { d with fdRate := BitVec.ofNat 16 v }
  | 0x1F01, 3 => keep (inside 2000 10000 v && decide (v % 1000 = 0)) { d with xlRate := BitVec.ofNat 16 v }
  | 0x1F01, _ => keep (decide (v ≤ 1)) { d with frameMode := BitVec.ofNat 8 v }
  | 0x1F02, 1 => keep (decide (v ≤ 0x600) && decide (v % 0x200 = 0)) { d with prioBase := BitVec.ofNat 16 v }
  | 0x1F02, 2 => some { d with sdt := BitVec.ofNat 8 v }
  | 0x1F02, 3 => some { d with vcid := BitVec.ofNat 8 v }
  | 0x1F02, _ => keep (decide (v ≤ 7)) { d with fdMarker := BitVec.ofNat 8 v }
  | 0x1F03, _ => some { d with eventEn := BitVec.ofNat 8 v }
  | 0x1F11, _ => keep (inside 1 3600 v) { d with sessionIdle := BitVec.ofNat 16 v }
  | 0x2001, _ => some { d with epoch := BitVec.ofNat 32 v }
  | 0x2002, _ => keep (decide (v ≤ 511)) { d with nodeNext := BitVec.ofNat 16 v }
  | 0x2003, _ => some { d with nodeTable := BitVec.ofNat 512 v }
  | 0x2004, _ => keep (inside 1 60000 v) { d with linkDead := BitVec.ofNat 32 v }
  | 0x6000, i => some { d with weights := d.weights.set (i - 1) (BitVec.ofNat 8 v) }
  | 0x7010, _ => keep (inside 2000 6500 v) { d with powerLimit := BitVec.ofNat 32 v }
  | 0x7011, _ => keep (inside 60 105 v) { d with tjLimit := BitVec.ofNat 8 v }
  | 0x7012, _ => keep (inside 60 95 v) { d with stackLimit := BitVec.ofNat 8 v }
  | 0x7020, _ => pace (decide (v = 0) || inside 0x0334 0x1599 v) { d with paceTarget := BitVec.ofNat 16 v }
  | 0x7021, _ => pace (inside 0x0334 0x1000 v) { d with paceFloor := BitVec.ofNat 16 v }
  | 0x7022, _ => pace (inside 0x0334 0x1599 v) { d with paceStart := BitVec.ofNat 16 v }
  | 0x7024, _ => some { d with peerMask := BitVec.ofNat 512 v }
  | _, _ =>
    -- the route tables: [6] of a byte is zero
    keep (decide (v / 64 % 2 = 0)) { d with routes := tmod 0 d.routes (idx - 0x2100) fun w => setRoute w (sub - 1) v }

/-- What follows a change of an entry (R289, R380): a coherence-relevant entry or the epoch starts the IDENT exchange on every channel,
and a route is taken by what waits for one. -/
def State.afterChange (s : State) (idx : Nat) : State :=
  if idx = 0x2001 ∨ idx = 0x2003 ∨ idx = 0x2004 then s.identAll
  else if 0x2100 ≤ idx ∧ idx < 0x2300 then s.rerouteAll
  else s

/-! ## Rest, retirement (R401, R446) -/

/-- A node other than this one may hold the line. -/
def SliceLine.heldAfar (e : SliceLine) : Bool :=
  decide (e.nodes ≠ []) || e.wide || (match e.owner with | some (.node _) => true | _ => false)

/-- Every line that a channel homes is recalled, written back where it is newer than memory, and leaves its slice (R401, R446). A
line that another node holds is recalled by message, and leaves when the answer comes; so does one in a transaction. -/
def State.recallChan (s : State) (ch : Nat) : State :=
  let mine := (s.lines.map fun e => (BitVec.ofNat 50 e.1 : LineAddr)).filter fun l => s.isLocal l && decide (lineChan l = ch)
  mine.foldl (fun acc l =>
    let e := acc.slice l
    if !e.present || !acc.quiet l then acc
    else if e.heldAfar then acc.recallAll l false false false
    else
      let n := acc.newest l
      let acc := if e.dirty || (acc.dirtyCopy l).isSome then acc.memWrite l n.data n.poison e.fe e.cls else acc
      (acc.dropCopies l).dropLine l) s

/-- No slice of the channel holds a line. -/
def State.recalled (s : State) (ch : Nat) : Bool :=
  s.lines.all fun e => !(s.isLocal (BitVec.ofNat 50 e.1) && decide (lineChan (BitVec.ofNat 50 e.1) = ch) && e.2.present)

/-- A channel enters rest: hold, lines to memory, caches invalid, stacks in self-refresh (R401). -/
def State.enterRest (s : State) (ch : Nat) : State :=
  let s1 := s.modChan ch fun c => { c with rest := true, selfRefresh := true }
  (((List.range 128).foldl (fun acc i => acc.emptyCluster (128 * ch + i)) s1).recallChan ch).holdRails

/-- A channel leaves rest. -/
def State.leaveRest (s : State) (ch : Nat) : State := s.modChan ch fun c => { c with rest := false, selfRefresh := false }

/-- Step 1 of a retirement: the channel leaves every context's set, and its reservations go, with a notice to each (R446). -/
def State.askRetire (s : State) (ch : Nat) : State :=
  let s1 := s.modChan ch fun c => { c with retireAsked := true, reinstateAsked := false }
  let ks := (s1.ctxs.filter fun c => decide (c.2.state ≠ .absent) && c.2.chset.getLsbD ch).map Prod.fst
  ks.foldl (fun acc k =>
    (acc.modCtx k fun c =>
      { c with
        chset := c.chset &&& ~~~BitVec.ofNat 32 (2 ^ ch), complete := c.complete &&& ~~~BitVec.ofNat 32 (2 ^ ch)
        reserved := c.reserved.filter fun i => !decide (channelOfCore i = ch) }).contextNotice k (BitVec.ofNat 8 ch) 5 0) s1

/-- A context's channel set holds only the channel. -/
def State.onlyChannel (s : State) (ch : Nat) : Bool :=
  s.ctxs.any fun c => decide (c.2.state ≠ .absent) && decide (c.2.chset = BitVec.ofNat 32 (2 ^ ch))

/-- COOLANT and TRIP are cleared (R403); a coolant stop ends with COOLANT, not with TRIP alone. -/
def State.clearCoolant (s : State) : State :=
  let s1 := (s.setHub fun h => { h with coolant := false, trip := false }).coolantEvent
  if s.hub.coolant then s1.coolantOver else s1

/-- A write of an entry of a channel: none answers RANGE. -/
def State.writeChanEntry (s : State) (ch k sub v : Nat) : Option State :=
  let c := s.chan ch
  match k, sub with
  | 0x03, 1 => if v < 64 then some (s.nominate ch (BitVec.ofNat 6 v).toFin).postNotices else none
  | 0x03, _ =>
    if v = 1 ∧ c.evacState = 1 then some (s.startEvacuation ch)
    else if v = 0 ∧ (c.evacState = 1 ∨ c.evacState = 2) then some (s.abandonEvacuation ch)
    else none
  | 0x04, _ =>
    if v = 1 then
      if s.onlyChannel ch || decide (c.state = 1) || decide (2 ≤ c.evacState) then none else some (s.askRetire ch)
    else if v = 0 then some (s.modChan ch fun c => { c with reinstateAsked := true })
    else none
  | 0x12, _ => if v = 1 then some (s.refit ch) else if v = 2 then some (s.modChan ch fun c => { c with curveClear := true }) else none
  | 0x14, _ =>
    if v = 1 then (if s.contextsOn ch = 0 then some (s.enterRest ch) else none)
    else if v = 0 then some (s.leaveRest ch)
    else none
  | _, _ => none

/-- A write of an entry that is checked and takes effect: none answers RANGE (R377). -/
def State.writeEntry (s : State) (idx sub v : Nat) : Option State :=
  match chanIndex idx with
  | some (ch, k) => s.writeChanEntry ch k sub v
  | none =>
    if idx = 0x1011 then (if v ≤ 1 then some (s.setHub fun h => { h with restoreAsked := decide (v = 1) }) else none)
    else if idx = 0x7030 then (if v = 0 ∧ !s.hub.pin then some s.clearCoolant else none)
    else (s.hub.dict.write idx sub v).map fun d => s.setHub fun h => { h with dict := d }

/-- The entry acts at every write: a write-only entry, and the grant, which the device clears itself. -/
def actsAlways (e : Entry) (idx sub : Nat) : Bool :=
  decide (e.access = .wo) || (match chanIndex idx with | some (_, k) => decide (k = 0x03) && decide (sub = 2) | none => false)

/-- The retire entry answers RANGE, not NOT_READY, to a write of 1 while its channel is resetting (R446). -/
def retires (idx v : Nat) : Bool := match chanIndex idx with | some (_, k) => decide (k = 0x04) && decide (v = 1) | none => false

/-- Commit a whole value: LENGTH, RANGE, or the effect (R377). An equal value changes nothing. -/
def State.commit (s : State) (e : Entry) (idx sub : Nat) (value : List Byte) : Byte × State :=
  let v := leNat value
  if value.length ≠ e.size then (ebLength, s)
  else
    match s.writeEntry idx sub v with
    | none => (ebRange, s)
    | some t =>
      let old := s.entryNat e idx sub 0
      if v = old ∧ actsAlways e idx sub = false then (ebOk, s)
      else if t.entryNat e idx sub 0 = old then (ebOk, t.afterChange idx)
      else (ebOk, (t.noteChange idx sub).afterChange idx)

/-- A write is allowed at all (R376, R382): an error, or the entry. -/
def State.mayWrite (s : State) (idx sub : Nat) (inSession retire : Bool) : Except Byte Entry :=
  match lookup idx sub with
  | .error st => .error st
  | .ok e =>
    match e.access with
    | .const | .ro => .error ebReadOnly
    | .rwa => if !inSession then .error ebAuthRequired else if s.notReady idx && !retire then .error ebNotReady else .ok e
    | _ => if s.notReady idx then .error ebNotReady else .ok e

end Sys2Proof.Machine
end

