-- ==== Sys2Proof/Machine/Frames.lean ====
section
/-! DEFINITION. Field-bus frames (R361 to R365, R373): the Ebfold PDU, the CAN XL and CAN FD frames that carry it, and which received frames
are processed. -/

namespace Sys2Proof.Machine

/-! ## The PDU (R364, R373) -/

/-- The services whose requests carry value bytes (R365). -/
def carriesValue (svc : Byte) : Bool := decide (svc = 0x02) || decide (svc = 0x10) || decide (svc = 0x12)

/-- The 16 bytes of a PDU's header. -/
def pduHeader (svc : Byte) (flags : Nat) (index : BitVec 16) (sub status : Byte) (len : Nat) (txn : Word) (offset : BitVec 16)
    (session ver : Byte) : List Byte :=
  [svc, BitVec.ofNat 8 flags] ++ bytesLe 2 index.toNat ++ [sub, status] ++ bytesLe 2 len ++ bytesLe 4 txn.toNat ++ bytesLe 2 offset.toNat
    ++ [session, ver]

/-- The tag of a PDU whose STATUS and VER are taken as zero: the first 8 bytes of HMAC-SHA-256 (R373). -/
def pduTag (key : List Byte) (pdu : List Byte) : BitVec 64 := (hmacSha256 key pdu).extractLsb' 0 64

/-- FLAGS of a header. -/
def pduFlags (resp seg auth last : Bool) : Nat := bit resp 0 + bit seg 1 + bit auth 2 + bit last 3

/-- Bytes `i` to `i + n - 1` of a PDU, as a number. -/
def pduField (pdu : List Byte) (i n : Nat) : Nat := leNat ((pdu.drop i).take n)

/-- The header of a request holds (R361): RESP and the reserved bits of FLAGS are 0, and LEN is consistent with the length of the data, which
on CAN FD are padded. -/
def headerHolds (size : Nat → Nat) (data : List Byte) : Bool :=
  let flags := data.getD 1 0
  let want := 16 + (if carriesValue (data.getD 0 0) then pduField data 6 2 else 0) + (if flags.getLsbD 2 then 8 else 0)
  decide (16 ≤ data.length) && decide (flags &&& 0xF1 = 0) && decide (data.length = size want)

/-! ## Frames sent (R358, R362, R363) -/

/-- The next data length that CAN FD allows. -/
def fdLength (n : Nat) : Nat := ([12, 16, 20, 24, 32, 48, 64].find? fun k => decide (n ≤ k)).getD 64 |> fun k => if n ≤ 8 then n else k

/-- Levels (R362): events, responses, requests, segments after the first. -/
def levelEvent : Nat := 0
def levelResponse : Nat := 1
def levelSegment : Nat := 3

/-- The CAN XL frame that carries a PDU. -/
def Hub.xlFrame (h : Hub) (level dst : Nat) (pdu : List Byte) : BusFrame :=
  .xl (BitVec.ofNat 11 (h.dict.prioBase.toNat + 128 * level + h.address.val)) h.dict.sdt (some h.dict.vcid)
    (BitVec.ofNat 32 (dst + 256 * (pdu.getD 0 0).toNat)) false pdu

/-- The CAN FD frame that carries a PDU. -/
def Hub.fdFrame (h : Hub) (level dst : Nat) (pdu : List Byte) : BusFrame :=
  .fd (BitVec.ofNat 29 (2 ^ 26 * h.dict.fdMarker.toNat + 2 ^ 24 * level + 2 ^ 16 * (pdu.getD 0 0).toNat + 2 ^ 7 * dst + h.address.val))
    (pdu ++ List.replicate (fdLength pdu.length - pdu.length) 0)

/-- The frame that the 9160 sends, by FRAME_MODE in force (R358, R359). -/
def Hub.frame (h : Hub) (level dst : Nat) (pdu : List Byte) : BusFrame :=
  if h.frameModeInForce = 1 then h.xlFrame level dst pdu else h.fdFrame level dst pdu

/-- The PDU of an EVENT, sent to address 0: KIND, CHANNEL and DETAIL (R365). -/
def eventPdu (e : Byte × Byte × DWord) : List Byte :=
  pduHeader 0x20 0 0 0 0 10 0 0 0 0 ++ [e.1, e.2.1] ++ bytesLe 8 e.2.2.toNat

/-! ## Frames received (R361) -/

/-- The format and the profile marker of R361, and on CAN XL the priority. -/
def Hub.marked (h : Hub) : BusFrame → Bool
  | .xl p sdt vcid _ _ _ =>
    decide (sdt = h.dict.sdt) && decide (vcid = some h.dict.vcid) && decide (h.dict.prioBase.toNat ≤ p.toNat)
      && decide (p.toNat ≤ h.dict.prioBase.toNat + 0x1FF)
  | .fd id _ => decide ((id.extractLsb' 26 3).toNat = h.dict.fdMarker.toNat)
  | .other => false

/-- The addresses of who sent a frame and of whom it is for. -/
def Hub.sender (h : Hub) : BusFrame → Nat
  | .xl p _ _ _ _ _ => (p.toNat - h.dict.prioBase.toNat) % 128
  | .fd id _ => (id.extractLsb' 0 7).toNat
  | .other => 0
def frameDst : BusFrame → Nat
  | .xl _ _ _ af _ _ => (af.extractLsb' 0 7).toNat
  | .fd id _ => (id.extractLsb' 7 7).toNat
  | .other => 0
def frameData : BusFrame → List Byte
  | .xl _ _ _ _ _ d => d
  | .fd _ d => d
  | .other => []

/-- The header check, with the padding of CAN FD. -/
def frameHeader : BusFrame → Bool
  | .xl _ _ _ _ _ d => headerHolds id d
  | .fd _ d => headerHolds fdLength d
  | .other => false

/-- The frame is for the 9160: to its address, or to address 0 for IDENTIFY. -/
def Hub.forMe (h : Hub) (f : BusFrame) : Bool :=
  decide (frameDst f = h.address.val) || (decide (frameDst f = 0) && decide ((frameData f).getD 0 0 = 0x04))

/-- The frame meets every condition of a column of R361. -/
def Hub.processes (h : Hub) (f : BusFrame) : Bool :=
  h.marked f && h.forMe f && decide (h.sender f ≠ h.address.val) && frameHeader f

/-- What a received frame counts: one from its own address in ADDR_CONFLICT, a marked one with a bad header in MALFORMED, one that finds
the queue full in OVERRUN. Only frames of the profile count, whomever they are for (notes/assumptions/87.md). -/
def Hub.countFrame (h : Hub) (f : BusFrame) (full : Bool) : Hub :=
  if !h.marked f then h
  else
    let h1 := if h.sender f = h.address.val then { h with addrConflict := satAdd h.addrConflict 1 } else h
    let h2 := if frameHeader f then h1 else { h1 with malformed := satAdd h1.malformed 1 }
    if full && h.processes f then { h2 with overrun := satAdd h2.overrun 1 } else h2

end Sys2Proof.Machine
end

