-- ==== Sys2Proof/Machine/Ebfold.lean ====
section
/-! DEFINITION. Ebfold (R357 to R374, R376 to R383): requests from the field bus and the mailboxes, sessions, duplicates, responses,
events and the state of the bus. -/

namespace Sys2Proof.Machine

/-! ## Requests (R361, R364, R383) -/

/-- The request that a mailbox spells. -/
def Mailbox.request (x : Mailbox) (m : Fin 4) : EbReq :=
  let svc : Byte := x.key.extractLsb' 24 8
  { src := .mailbox m, svc := svc, seg := false, auth := x.ctrl.getLsbD 29, last := x.ctrl.getLsbD 30, index := x.key.extractLsb' 0 16
    sub := x.key.extractLsb' 16 8, len := x.len.setWidth 16, txn := x.txn, offset := x.offset.setWidth 16
    session := x.ctrl.setWidth 8, value := if carriesValue svc then (List.range x.len.toNat).map fun i => tget 0 x.data i else []
    tag := x.tag }

/-- The controller takes part in the bus: it is error-active or error-passive. -/
def Hub.onBus (h : Hub) : Bool := h.powered && !h.inReset && (decide (h.busState = 1) || decide (h.busState = 2))

/-- The value bytes that one PDU has room for (R364, R383). -/
def Hub.room (h : Hub) (src : EbSource) (auth : Bool) : Nat :=
  match src with
  | .mailbox _ => 2024
  | .bus _ => (if h.frameModeInForce = 1 then 2024 else 48) - (if auth then 8 else 0)

/-- A request of a service arrives: a processed frame, whose source is another node and whose LEN is consistent, or what a mailbox with
GO spells. -/
def State.asks (s : State) (r : EbReq) (svc : Byte) : Bool :=
  decide (r.svc = svc) &&
  match r.src with
  | .bus a =>
    s.hub.onBus && decide (a ≠ s.hub.address)
      && decide (r.len.toNat ≤ 2024 - (if r.auth then 8 else 0))
      && (if carriesValue svc then decide (r.value.length = r.len.toNat) else decide (r.value = []))
  | .mailbox m =>
    let x := tget Mailbox.reset s.hub.mailboxes m.val
    s.hub.powered && !s.hub.inReset && x.go && decide (r = x.request m)

/-- What a request's tag covers. -/
def reqBytes (r : EbReq) : List Byte :=
  pduHeader r.svc (pduFlags false r.seg r.auth r.last) r.index r.sub 0 r.len.toNat r.txn r.offset r.session 0 ++ r.value

/-! ## Responses (R364 to R366) -/

/-- What a request is answered with. -/
structure Answer where
  status : Byte
  value : List Byte
  ver : Byte
  size : Option Nat
  session : Option Byte
  seg : Bool := false
  deriving DecidableEq, Repr

/-- A status alone. -/
def Answer.status_ (st : Byte) (ver : Byte) : Answer := { status := st, value := [], ver := ver, size := none, session := none }

/-- The PDU that answers a request, with its tag in a session. -/
def EbRespPdu (r : EbReq) (a : Answer) (tag : Option (BitVec 64)) : List Byte :=
  pduHeader r.svc (pduFlags true a.seg tag.isSome false) r.index r.sub a.status a.value.length r.txn r.offset (a.session.getD r.session) a.ver
    ++ a.value ++ (match tag with | some t => bytesLe 8 t.toNat | none => [])

/-- The answer goes into the transmit queue as a frame to the requester, or into the registers of the mailbox, whose GO clears (R362, R363,
R383). In a session it carries the device's tag. -/
def State.respond (s : State) (r : EbReq) (a : Answer) (key : Option (List Byte)) : State :=
  let session := a.session.getD r.session
  let tag := key.map fun k =>
    pduTag k (pduHeader r.svc (pduFlags true a.seg true false) r.index r.sub 0 a.value.length r.txn r.offset session 0 ++ a.value)
  match r.src with
  | .bus dst =>
    let level := if a.seg && decide (r.offset ≠ 0) then levelSegment else levelResponse
    s.setHub fun h => { h with transmit := h.transmit ++ [h.frame level dst.val (EbRespPdu r a tag)] }
  | .mailbox m =>
    s.setHub fun h =>
      { h with mailboxes := tmod Mailbox.reset h.mailboxes m.val fun x =>
          { x with
            ctrl := ((x.ctrl &&& 0x7FFFFF00) ||| session.setWidth 32), len := BitVec.ofNat 32 a.value.length
            status := (a.ver ++ a.status).setWidth 32, tag := tag.getD x.tag
            size := match a.size with | some n => BitVec.ofNat 32 n | none => x.size
            data := (List.range a.value.length).foldl (fun t i => tset 0 t i (a.value.getD i 0)) x.data } }

/-! ## Sessions (R369 to R374) -/

def State.session (s : State) (n : Nat) : Session := tget Session.free s.hub.sessions n
def State.setSession (s : State) (n : Nat) (x : Session) : State :=
  s.setHub fun h => { h with sessions := tset Session.free h.sessions n x }

/-- A failed tag or proof is counted; the 16th of a session closes it (R374). -/
def State.failTag (s : State) (n : Nat) : State :=
  let x := s.session n
  (s.setSession n (if 16 ≤ x.failed + 1 then Session.free else { x with failed := x.failed + 1 })).setHub
    fun h => { h with failedTags := satAdd h.failedTags 1 }

/-- The session of a request with AUTH: it is open, proved and bound to the source, and the tag holds. -/
def State.authenticate (s : State) (r : EbReq) : Except (Byte × State) Session :=
  let n := r.session.toNat
  let x := s.session n
  if n = 0 ∨ 8 < n ∨ x.source ≠ some r.src ∨ x.proved = false then .error (ebNoSession, s)
  else if pduTag x.key (reqBytes r) ≠ r.tag then .error (ebAuthFailed, s.failTag n)
  else .ok x

/-- A request that needs no session runs; one with AUTH runs in its session and is answered with a tag (R370, R373). -/
def State.serveRead (s : State) (r : EbReq) (f : Answer) (key : List Byte → Answer) : State :=
  if !r.auth then s.respond r f none
  else
    match s.authenticate r with
    | .error (st, s1) => s1.respond r (.status_ st 0) none
    | .ok x => s.respond r (key x.key) (some x.key)

/-- VER for an index and subindex; 0 where there is no entry. -/
def State.verAt (s : State) (idx sub : Nat) (free : Nat) : Byte :=
  match lookup idx sub with
  | .error _ => 0
  | .ok e => s.verOf e idx sub free

/-! ## READ, DESCRIBE, IDENTIFY (R365, R367, R376) -/

/-- What a READ of an entry answers. -/
def State.readAnswer (s : State) (r : EbReq) (auth : Bool) (free ver : Nat) : Answer :=
  let idx := r.index.toNat
  let sub := r.sub.toNat
  match lookup idx sub with
  | .error st => .status_ st 0
  | .ok e =>
    if e.access = .wo then .status_ ebWriteOnly (s.verOf e idx sub ver)
    else if s.notReady idx then .status_ ebNotReady (s.verOf e idx sub ver)
    else
      let whole := s.entryBytes e idx sub free
      let room := s.hub.room r.src auth
      { status := ebOk, value := (whole.drop r.offset.toNat).take (Nat.min r.len.toNat room)
        ver := s.verOf e idx sub ver, size := some e.size, session := none, seg := decide (room < whole.length) }

/-- READ. -/
def execRead (r : EbReq) (s : State) : Out :=
  enabled (s.asks r 0x01) "no such request has come" <|
    let f := s.takeFree
    let g := f.2.takeFree
    .next (g.2.serveRead r (g.2.readAnswer r false f.1.toNat g.1.toNat) fun _ => g.2.readAnswer r true f.1.toNat g.1.toNat)

/-- The default value of an entry; free bytes where the spec states none. -/
def Entry.defaultBytes (e : Entry) (free : Nat → DWord) : List Byte :=
  match e.dflt with
  | some n => bytesLe e.size n
  | none => (List.range e.size).map fun i => (free i).setWidth 8

/-- What a DESCRIBE answers: type, access, flags, size, default. -/
def State.describeAnswer (s : State) (r : EbReq) (auth : Bool) (free : Nat → DWord) (ver : Nat) : Answer :=
  let idx := r.index.toNat
  let sub := r.sub.toNat
  match lookup idx sub with
  | .error st => .status_ st 0
  | .ok e =>
    if s.notReady idx then .status_ ebNotReady (s.verOf e idx sub ver)
    else
      { status := ebOk
        value := ([BitVec.ofNat 8 e.type, BitVec.ofNat 8 e.access.code, BitVec.ofNat 8 (bit e.c 1 + bit e.p 0), 0] ++ bytesLe 4 e.size
          ++ e.defaultBytes free).take (s.hub.room r.src auth)
        ver := s.verOf e idx sub ver, size := some e.size, session := none }

/-- DESCRIBE. -/
def execDescribe (r : EbReq) (s : State) : Out :=
  enabled (s.asks r 0x03) "no such request has come" <|
    let f := s.takeFree
    let n := f.2.freeCount
    let t : State := { f.2 with freeCount := n + 64 }
    let free (i : Nat) : DWord := Config.free (n + i)
    .next (t.serveRead r (t.describeAnswer r false free f.1.toNat) fun _ => t.describeAnswer r true free f.1.toNat)

/-- What IDENTIFY answers: 0x1018 subindices 1 to 4, the address, the node number in force, FRAME_MODE. -/
def State.identifyAnswer (s : State) : Answer :=
  { status := ebOk
    value := bytesLe 4 0x4B4D ++ bytesLe 4 0x9160 ++ bytesLe 4 Config.hardwareRevision.toNat ++ bytesLe 4 Config.serial.toNat
      ++ bytesLe 1 s.hub.address.val ++ bytesLe 2 s.hub.node.val ++ [s.hub.dict.frameMode]
    ver := 0, size := none, session := none }

/-- IDENTIFY. -/
def execIdentify (r : EbReq) (s : State) : Out :=
  enabled (s.asks r 0x04) "no such request has come" <| .next (s.serveRead r s.identifyAnswer fun _ => s.identifyAnswer)

/-! ## WRITE (R367, R369, R376, R377) -/

/-- One part of a write in a session: it is staged, or its value is committed whole (R367). -/
def State.writePart (s : State) (r : EbReq) (n : Nat) : Byte × State :=
  let idx := r.index.toNat
  let sub := r.sub.toNat
  let x := s.session n
  let stage (v : Option (BitVec 16 × Byte × List Byte)) (s : State) : State := s.setSession n { s.session n with staging := v }
  let staged : Option (List Byte) :=
    if r.offset = 0 then some r.value
    else
      match x.staging with
      | some (i, b, bytes) => if i = r.index ∧ b = r.sub ∧ bytes.length = r.offset.toNat then some (bytes ++ r.value) else none
      | none => none
  match staged with
  | none => (ebSegment, stage none s)
  | some bytes =>
    match s.mayWrite idx sub true (r.last && retires idx (leNat bytes)) with
    | .error st => (st, stage none s)
    | .ok e =>
      if 65535 < bytes.length then (ebLength, stage none s)
      else if !r.last then (ebOk, stage (some (r.index, r.sub, bytes)) s)
      else (stage none s).commit e idx sub bytes

/-- The responses that a session stores: those to its last 16 accepted writes (R369). -/
def Session.store (x : Session) (txn : Word) (st ver : Byte) : Session :=
  { x with h := txn, responses := ((txn, st, ver) :: x.responses).take 16 }

/-- A write through a mailbox without a session: one part with the whole value (R376). -/
def State.writeOpen (s : State) (r : EbReq) : Byte × State :=
  let idx := r.index.toNat
  let sub := r.sub.toNat
  match s.mayWrite idx sub false (retires idx (leNat r.value)) with
  | .error st => (st, s)
  | .ok e => if r.offset ≠ 0 ∨ r.last = false then (ebSegment, s) else s.commit e idx sub r.value

/-- A request needs a session for its write: on the bus always; through a mailbox when it names one. -/
def EbSource.isBus : EbSource → Bool
  | .bus _ => true
  | .mailbox _ => false

/-- A WRITE (R366, R369, R370). -/
def State.ebWrite (s0 : State) (r : EbReq) : State :=
  let f := s0.takeFree
  let s := f.2
  let idx := r.index.toNat
  let sub := r.sub.toNat
  let ver (t : State) : Byte := t.verAt idx sub f.1.toNat
  if (match r.src with | .bus _ => true | .mailbox _ => false) || r.auth || decide (r.session ≠ 0) then
    if r.auth = false ∨ r.session = 0 then s.respond r (.status_ ebAuthRequired (ver s)) none
    else
      match s.authenticate r with
      | .error (st, t) => t.respond r (.status_ st 0) none
      | .ok x =>
        let n := r.session.toNat
        let d := (r.txn - x.h).toInt
        if 1 ≤ d then
          let w := s.writePart r n
          (w.2.setSession n ((w.2.session n).store r.txn w.1 (ver w.2))).respond r (.status_ w.1 (ver w.2)) (some x.key)
        else
          match (if -15 ≤ d then x.responses.find? fun y => decide (y.1 = r.txn) else none) with
          | some y => s.respond r (.status_ y.2.1 y.2.2) (some x.key)
          | none => s.respond r (.status_ ebStale (ver s)) (some x.key)
  else
    let w := s.writeOpen r
    w.2.respond r (.status_ w.1 (ver w.2)) none

/-- The rows that write one entry: a WRITE whose index, subindex and value are those. -/
def writeRow (r : EbReq) (p : Bool) (s : State) : Out :=
  enabled (s.asks r 0x02 && p) "no such request has come" <| .next (s.ebWrite r)

/-- The request is for k of a channel, with a value. -/
def EbReqFor (r : EbReq) (k sub : Nat) (value : Option (List Byte)) : Bool :=
  (match chanIndex r.index.toNat with | some (_, i) => decide (i = k) | none => false) && decide (r.sub.toNat = sub)
    && (match value with | some v => decide (r.value = v) | none => true)

/-- EBFOLD_WRITE: any write. -/
def execEbfoldWrite (r : EbReq) (s : State) : Out := writeRow r true s
/-- RESTORE_DEFAULTS: a write of 0x1011 (R378). -/
def execRestoreDefaults (r : EbReq) (s : State) : Out := writeRow r (decide (r.index = 0x1011)) s
/-- COHERENCE_CONFIG_WRITE: a write of an entry with flag C, or of the epoch (R380). -/
def execCoherenceConfigWrite (r : EbReq) (s : State) : Out :=
  writeRow r (decide (r.index = 0x2001) || decide (r.index = 0x2003) || decide (r.index = 0x2004)) s
/-- MAPOUT_NOMINATE (R246). -/
def execMapoutNominate (r : EbReq) (s : State) : Out := writeRow r (EbReqFor r 0x03 1 none) s
/-- MAPOUT_GRANT (R247). -/
def execMapoutGrant (r : EbReq) (s : State) : Out := writeRow r (EbReqFor r 0x03 2 (some [1])) s
/-- MAPOUT_WITHDRAW (R252). -/
def execMapoutWithdraw (r : EbReq) (s : State) : Out := writeRow r (EbReqFor r 0x03 2 (some [0])) s
/-- CURVE_REFIT_REQUEST (R391). -/
def execCurveRefitRequest (r : EbReq) (s : State) : Out := writeRow r (EbReqFor r 0x12 0 (some [1])) s
/-- CURVE_CLEAR (R405, R445). -/
def execCurveClear (r : EbReq) (s : State) : Out := writeRow r (EbReqFor r 0x12 0 (some [2])) s
/-- REST_ENTER (R401). -/
def execRestEnter (r : EbReq) (s : State) : Out := writeRow r (EbReqFor r 0x14 0 (some [1])) s
/-- REST_LEAVE (R401). -/
def execRestLeave (r : EbReq) (s : State) : Out := writeRow r (EbReqFor r 0x14 0 (some [0])) s
/-- COOLANT_CLEAR (R403). -/
def execCoolantClear (r : EbReq) (s : State) : Out :=
  writeRow r (decide (r.index = 0x7030) && decide (r.sub = 1) && decide (r.value = [0])) s
/-- RETIRE_CHANNEL (R446). -/
def execRetireChannel (r : EbReq) (s : State) : Out := writeRow r (EbReqFor r 0x04 0 (some [1])) s
/-- REINSTATE_CHANNEL (R448). -/
def execReinstateChannel (r : EbReq) (s : State) : Out := writeRow r (EbReqFor r 0x04 0 (some [0])) s

/-! ## Opening, proving and closing a session (R371, R372, R374) -/

/-- The session numbers of a path. -/
def sessionNumbers : EbSource → List Nat
  | .bus _ => [1, 2, 3, 4]
  | .mailbox _ => [5, 6, 7, 8]

/-- SESSION_OPEN, with the Nd that the hub draws. -/
def execSessionOpen (r : EbReq) (nonce : BitVec 256) (s : State) : Out :=
  enabled (s.asks r 0x10) "no such request has come" <|
    let fail (st : Byte) : Out := .next (s.respond r (.status_ st 0) none)
    if s.hub.ownerKey = none then fail ebNotPermitted
    else if r.value.length ≠ 32 then fail ebLength
    else
      match (sessionNumbers r.src).find? fun n => decide ((s.session n).source = none) with
      | none => fail ebBusy
      | some n =>
        .next ((s.setSession n { Session.free with source := some r.src, nr := r.value, nd := nonce }).respond r
          { status := ebOk, value := bytesLe 32 nonce.toNat ++ bytesLe 4 Config.serial.toNat, ver := 0, size := none
            session := some (BitVec.ofNat 8 n) } none)

/-- ASCII text. -/
def ascii (l : List Nat) : List Byte := l.map fun n => BitVec.ofNat 8 n

/-- "EBFOLD1". -/
def ebfold1 : List Byte := ascii [69, 66, 70, 79, 76, 68, 49]

/-- The byte that names a source in the transcript. -/
def EbSrcByte : EbSource → Byte
  | .bus a => BitVec.ofNat 8 a.val
  | .mailbox m => Config.mailboxAddress m

/-- The transcript T that the proof signs (R371 step 3). -/
def transcript (x : Session) (n : Nat) (src : EbSource) (c : List Byte) : List Byte :=
  ebfold1 ++ bytesLe 4 Config.serial.toNat ++ [BitVec.ofNat 8 n, EbSrcByte src] ++ x.nr ++ bytesLe 32 x.nd.toNat ++ c

/-- The session key (R372). -/
def sessionKey (x : Session) (n : Nat) (secret : List Byte) : List Byte :=
  bytesLe 32 (hkdfSha256 secret (x.nr ++ bytesLe 32 x.nd.toNat)
    (ebfold1 ++ ascii [32, 115, 101, 115, 115, 105, 111, 110] ++ [BitVec.ofNat 8 n])).toNat

/-- The whole proof has come: it is verified and the key derived, or the session is freed (R371 step 4). -/
def State.prove (s : State) (r : EbReq) (n : Nat) (x : Session) (bytes : List Byte) : State :=
  let c := bytes.take 384
  let t := transcript x n r.src c
  let fail : State :=
    ((s.setSession n Session.free).setHub fun h => { h with failedTags := satAdd h.failedTags 1 }).respond r (.status_ ebAuthFailed 0) none
  match s.hub.ownerKey with
  | none => fail
  | some owner =>
    if !pssVerify owner t (bytes.drop 384) then fail
    else
      match Config.identityDecrypt c with
      | none => fail
      | some secret =>
        let k := sessionKey x n secret
        let confirm := (hmacSha256 k (ascii [65, 67, 67, 69, 80, 84] ++ bytesLe 32 (sha256 t).toNat)).extractLsb' 0 64
        (s.setSession n { x with proved := true, key := k, staging := none }).respond r
          { status := ebOk, value := bytesLe 8 confirm.toNat, ver := 0, size := none, session := none } none

/-- SESSION_PROVE: C and σ, staged as a long value is (R367). -/
def execSessionProve (r : EbReq) (s : State) : Out :=
  enabled (s.asks r 0x12) "no such request has come" <|
    let n := r.session.toNat
    let x := s.session n
    let say (s : State) (st : Byte) : Out := .next (s.respond r (.status_ st 0) none)
    if n = 0 ∨ 8 < n ∨ x.source ≠ some r.src then say s ebNoSession
    else if x.proved then say s ebRange
    else
      let staged : Option (List Byte) :=
        if r.offset = 0 then some r.value
        else match x.staging with
          | some (_, _, bytes) => if bytes.length = r.offset.toNat then some (bytes ++ r.value) else none
          | none => none
      match staged with
      | none => say (s.setSession n { x with staging := none }) ebSegment
      | some bytes =>
        if !r.last then
          if 768 < bytes.length then say (s.setSession n { x with staging := none }) ebLength
          else say (s.setSession n { x with staging := some (r.index, r.sub, bytes) }) ebOk
        else if bytes.length ≠ 768 then say (s.setSession n { x with staging := none }) ebLength
        else .next (s.prove r n x bytes)

/-- SESSION_CLOSE. -/
def execSessionClose (r : EbReq) (s : State) : Out :=
  enabled (s.asks r 0x14) "no such request has come" <|
    if r.auth = false ∨ r.session = 0 then .next (s.respond r (.status_ ebAuthRequired 0) none)
    else
      match s.authenticate r with
      | .error (st, t) => .next (t.respond r (.status_ st 0) none)
      | .ok x => .next ((s.setSession r.session.toNat Session.free).respond r (.status_ ebOk 0) (some x.key))

/-- SESSION_IDLE_TIMEOUT: SESSION_IDLE seconds without a request that carries the session's tag. -/
def execSessionIdleTimeout (n : Fin 9) (s : State) : Out :=
  let x := s.session n.val
  enabled (decide (x.source ≠ none) && x.proved) "no such session is open" <| .next (s.setSession n.val Session.free)

/-- SESSION_PROVE_TIMEOUT: one second without a proof. -/
def execSessionProveTimeout (n : Fin 9) (s : State) : Out :=
  let x := s.session n.val
  enabled (decide (x.source ≠ none) && !x.proved) "no such session awaits a proof" <| .next (s.setSession n.val Session.free)

/-! ## Events and the bus (R360, R361, R365) -/

/-- EVENT: the oldest event that is never replaced, else the latest one. -/
def execEvent (s : State) : Out :=
  let h := s.hub
  enabled (h.onBus && decide (h.dict.eventEn = 1) && (decide (h.keptEvents ≠ []) || h.event.isSome)) "no event waits to be sent" <|
    match h.keptEvents with
    | e :: t => .next (s.setHub fun h => { h with keptEvents := t, transmit := h.transmit ++ [h.frame levelEvent 0 (eventPdu e)] })
    | [] => .next (s.setHub fun h => { h with event := none, transmit := h.transmit ++ h.event.toList.map fun e => h.frame levelEvent 0 (eventPdu e) })

/-- BUS_OFF: the transmit error counter exceeds 255; the transmit queue is discarded, sessions and stored responses stay. -/
def execBusOff (s : State) : Out :=
  enabled s.hub.onBus "the controller is not on the bus" <|
    .next (s.setHub fun h => { h with busState := 3, busOffs := satAdd h.busOffs 1, transmit := [] })

/-- BUS_OFF_RECOVERY: not while HUB_REF_LOST is set or the address is 0 or 127. -/
def execBusOffRecovery (s : State) : Out :=
  let h := s.hub
  enabled (h.powered && !h.inReset && decide (h.busState = 3) && !h.refLost && decide (h.address ≠ 0) && decide (h.address ≠ 127))
      "the controller is held in bus-off or is not in it" <|
    .next (s.setHub fun h => { h with busState := 1 })

/-- MALFORMED: a received frame that is not processed, or that finds the receive queue full; what it counts, and no reply (R361). -/
def execMalformed (f : BusFrame) (full : Bool) (s : State) : Out :=
  enabled (s.hub.onBus && (full || !s.hub.processes f)) "the controller is not on the bus, or the frame is processed" <|
    .next (s.setHub fun h => h.countFrame f full)

/-! ## The end of a retirement (R446, R447) -/

/-- No block of a channel is resident or saved, and no descriptor is queued. -/
def State.workLeft (s : State) (ch : Nat) : Bool :=
  (s.cores.any fun c => decide (channelOfCore c.1 = ch) && decide (c.2.liveBlocks ≠ []))
    || (s.savedBlocks.any fun b => decide (channelOfCore b.2.core = ch))
    || s.clusters.any fun c => decide (c.1 / 128 = ch) && (decide (c.2.forming ≠ []) || decide (c.2.queue ≠ []))

/-- The memory that the device's channels present, in GiB. -/
def State.deviceGiB (s : State) : Nat := ((List.range 32).map fun ch => if (s.chan ch).state = 4 then 0 else (s.chan ch).capacityGiB).sum

/-- Steps 4 and 5: the channel is reset for good, its objects are free, its ports are down. -/
def State.retire (s : State) (ch : Nat) : State :=
  let s1 := (s.objs.filter fun o => decide (objChan o.1 = ch)).foldl (fun acc o => acc.freeObj o.1) (s.emptyChannel ch)
  let s2 := s1.endTraffic ch
  let s3 := (List.range 6).foldl (fun acc p => acc.modPort ch p fun _ => Port.down) s2
  let s4 := s3.modChan ch fun c =>
    let c1 := c.afterReset
    { c1 with state := 4, railMilliVolts := 0, refRunning := false, awaitRestart := false, memInit := true, curve := [] }
  let mine (l : Nat) : Bool := s4.isLocal (BitVec.ofNat 50 l) && decide (lineChan (BitVec.ofNat 50 l) = ch)
  let s5 : State := { s4 with lines := tdrop s4.lines mine }
  (s5.ownerEvent 4 (BitVec.ofNat 8 ch) 0 (BitVec.ofNat 64 s5.deviceGiB)).rerouteAll.repace

/-- CHANNEL_RETIREMENT: once no work is left, the lines are recalled; when the last recall is answered the channel is retired. -/
def execChannelRetirement (ch : Fin 32) (s : State) : Out :=
  let k := ch.val
  let c := s.chan k
  enabled (c.retireAsked && decide (c.state ≠ 4) && decide (c.state ≠ 1) && !s.workLeft k) "no retirement of the channel can go on" <|
    let s1 := ((List.range 128).foldl (fun acc i => acc.emptyCluster (128 * k + i)) s).recallChan k
    if s1.recalled k then .next (s1.retire k) else .next s1

end Sys2Proof.Machine
end

