-- ==== Sys2Proof/Machine/Firmware.lean ====
section
/-! DEFINITION. Firmware and security (R406 to R416): images, staging and activation, live update of a channel, rollback floors, the
owner key, QUOTE. -/

namespace Sys2Proof.Machine

/-- The physical range names this device's node (R411). -/
def State.atNode (s : State) (a n : Nat) : Bool :=
  decide (1 ≤ n) && decide (a / 2 ^ 48 = s.hub.node.val) && decide ((a + n - 1) / 2 ^ 48 = s.hub.node.val)

/-- Part of a byte string as a number. -/
def partNat (b : List Byte) (i n : Nat) : Nat := leNat ((b.drop i).take n)
/-- Bytes of a part are zero. -/
def partZero (b : List Byte) (i n : Nat) : Bool := ((b.drop i).take n).all fun x => decide (x = 0)

/-- The rollback floor of a KIND. -/
def Hub.floor (h : Hub) (kind : Nat) : Word := if kind = 1 then h.floorHub else h.floorChan

/-- The first check of R408 that an image fails: its reason code. -/
def imageFails (b : List Byte) (kind : Nat) (floor : Word) : Option Nat :=
  let len := partNat b 16 4
  let body := b.drop 1024
  let key := (b.drop 64).take 388
  if !(decide (1024 ≤ b.length) && decide (partNat b 0 4 = 0x5746534B) && decide (partNat b 4 1 = kind)
      && decide (len ≤ (if kind = 1 then 8 else 4) * 2 ^ 20) && decide (b.length = 1024 + len)
      && partZero b 5 3 && partZero b 52 12 && partZero b 452 60 && partZero b 896 128) then some 1
  else if sha256 key ≠ Config.fusedKeyHash then some 2
  else if !pssVerify key (b.take 512) ((b.drop 512).take 384) then some 3
  else if sha256 body ≠ BitVec.ofNat 256 (partNat b 20 32) then some 4
  else if partNat b 12 4 < floor.toNat then some 5
  else none

/-- The slot that an image fills. -/
def slotOf (b : List Byte) : FwSlot :=
  ⟨true, true, BitVec.ofNat 32 (partNat b 8 4), BitVec.ofNat 32 (partNat b 12 4), BitVec.ofNat 256 (partNat b 20 32)⟩

/-- The slot that staging writes: the hub slot that is not the boot slot, or the channel slot that no channel's record names. -/
def State.stageTarget (s : State) (kind : Nat) : Option Bool :=
  if kind = 1 then some (!s.hub.bootB)
  else if (List.range 32).all fun ch => !(s.chan ch).fwSlotB then some true
  else if (List.range 32).all fun ch => (s.chan ch).fwSlotB then some false
  else none

/-- A slot of a KIND is written, and is the staged slot of its KIND if it is full. -/
def Hub.fill (h : Hub) (kind : Nat) (b : Bool) (x : FwSlot) : Hub :=
  let mark : Option Bool := if x.full then some b else none
  if kind = 1 then (if b then { h with hubB := x, stagedHub := mark } else { h with hubA := x, stagedHub := mark })
  else if b then { h with chanB := x, stagedChan := mark } else { h with chanA := x, stagedChan := mark }

/-- FW_STAGE, with whether the slot reads back as written. -/
def execFwStage (c : CmdRef) (readsBack : Bool) (s : State) : Out :=
  starting c 0x20 s fun x s =>
    let kind := recNat x.record 12 1
    let a := recNat x.record 16 8
    let n := recNat x.record 24 4
    if !s.atNode a n then (some (fails stInvalidArgument), s)
    else
      match s.stageTarget kind with
      | none => (some (fails stBusy), s)
      | some b =>
        let r := s.readPhys a n
        let img := r.1.1
        match imageFails img kind (s.hub.floor kind) with
        | some reason => (some (stInvalidArgument, BitVec.ofNat 64 reason), r.2)
        | none =>
          if !readsBack then (some (stInvalidArgument, 6), r.2.setHub fun h => h.fill kind b .empty)
          else
            let x := slotOf img
            (some (succeeds (x.version.toNat + 2 ^ 32 * x.svn.toNat)), r.2.setHub fun h => h.fill kind b x)

/-! ## Activation and live update (R411, R413, R414) -/

/-- The channels that a mask names. -/
def maskChans (m : Nat) : List (Fin 32) := (List.finRange 32).filter fun ch => m.testBit ch.val

/-- FW_ACTIVATE: the staged hub slot becomes the boot slot, or the update of the named channels begins. -/
def execFwActivate (c : CmdRef) (s : State) : Out :=
  starting c 0x21 s fun x s =>
    let h := s.hub
    if recNat x.record 12 1 = 1 then
      match h.stagedHub with
      | some b => if (h.hubSlot b).full then (some (succeeds 0), s.setHub fun h => { h with bootB := b }) else (some (fails stInvalidArgument), s)
      | none => (some (fails stInvalidArgument), s)
    else
      match h.stagedChan with
      | none => (some (fails stInvalidArgument), s)
      | some b =>
        if (h.chanSlot b).full = false then (some (fails stInvalidArgument), s)
        else if h.fwUpdate ≠ none then (some (fails stBusy), s)
        else
          let named := maskChans (recNat x.record 16 4)
          let done := named.filter fun ch => decide ((s.chan ch.val).fwSlotB = b)
          let todo := named.filter fun ch => !decide ((s.chan ch.val).fwSlotB = b)
          let mask : DWord := maskOf fun i => done.any fun ch => decide (ch.val = i)
          if todo = [] then (some (succeeds mask.toNat), s)
          else (none, s.setHub fun h => { h with fwUpdate := some (c, todo, mask) })

/-- The FW_ACTIVATE in progress ends. -/
def State.endUpdate (s : State) (c : CmdRef) (v : Verdict) : State :=
  let s1 := s.setHub fun h => { h with fwUpdate := none }
  match s1.cmdOf c fun x => decide (x.opcode = 0x21) && decide (x.stage = .started) with
  | some x => s1.modCmd c x.stamp fun y => y.finish v
  | none => s1

/-- A channel that cannot be updated now: it is not up, in rest, its map is being committed, or the log is full. -/
def State.updateBusy (s : State) (ch : Nat) : Bool :=
  !s.up ch || (s.chan ch).rest || decide ((s.chan ch).evacState = 3) || !s.hub.logRoom

/-- What an update that fails reports: the reason in [15:8], the channel in [20:16], the channels updated elsewhere
(notes/assumptions/45.md). -/
def updateFails (mask : DWord) (ch : Fin 32) (reason : Nat) : Verdict :=
  (stInvalidArgument, (mask &&& 0xFFFFFFFFFFE000FF &&& ~~~BitVec.ofNat 64 (2 ^ ch.val)) ||| BitVec.ofNat 64 (256 * reason + 65536 * ch.val))

/-- The new firmware answers: IDENT goes out on every port that carries flits, and the update is committed (R413 steps 5 and 6). -/
def State.commitUpdate (s : State) (ch : Fin 32) (b : Bool) : State :=
  let i := s.hub.chanSlot b
  let s1 := (s.modChan ch.val fun c => { c with fwSlotB := b, fwVersion := i.version }).setHub fun h =>
    h.addLog 3 (BitVec.ofNat 8 ch.val) i.version i.svn i.bodyHash
  (List.range 6).foldl (fun acc p => if (acc.port ch.val p).live then acc.sendIdent ch.val p else acc) s1

/-- CHANNEL_FIRMWARE_UPDATE, with the hash of the idle bank and whether the new firmware answers: the next named channel. -/
def execChannelFirmwareUpdate (ch : Fin 32) (bankHash : BitVec 256) (answered : Bool) (s : State) : Out :=
  match s.hub.fwUpdate, s.hub.stagedChan with
  | some (c, k :: rest, mask), some b =>
    enabled (decide (ch = k) && !(s.chan ch.val).handoff) "another channel is being updated" <|
      if s.updateBusy ch.val then .next (s.endUpdate c (stBusy, mask))
      else if bankHash ≠ (s.hub.chanSlot b).bodyHash then .next (s.endUpdate c (updateFails mask ch 4))
      else if !answered then .next (s.modChan ch.val fun c => { c with handoff := true })
      else
        let s1 := s.commitUpdate ch b
        let m := mask ||| BitVec.ofNat 64 (2 ^ ch.val)
        .next (if rest = [] then s1.endUpdate c (succeeds m.toNat) else s1.setHub fun h => { h with fwUpdate := some (c, rest, m) })
  | _, _ => enabled false "no update is in progress" (.next s)

/-- HANDOFF_TIMEOUT: the controller switches back to the old bank, and the command ends (R414). -/
def execHandoffTimeout (ch : Fin 32) (s : State) : Out :=
  enabled (s.chan ch.val).handoff "no hand-over is in progress" <|
    let s1 := s.modChan ch.val fun c => { c with handoff := false }
    let s2 := match s1.hub.fwUpdate with
      | some (c, _, mask) => s1.endUpdate c (updateFails mask ch 7)
      | none => s1
    .next s2.repace

/-! ## Floors and keys (R411, R412) -/

/-- The images that the boot slot or a channel's record names have an SVN below a value. -/
def State.namedBelow (s : State) (kind : Nat) (v : Word) : Bool :=
  let h := s.hub
  let low (x : FwSlot) : Bool := x.full && decide (x.svn < v)
  if kind = 1 then low (h.hubSlot h.bootB) else (List.range 32).any fun ch => low (h.chanSlot (s.chan ch).fwSlotB)

/-- A slot whose image falls below the floor is marked empty. -/
def FwSlot.under (x : FwSlot) (v : Word) : FwSlot := if x.full ∧ x.svn < v then .empty else x

/-- A floor is raised. -/
def Hub.raise (h : Hub) (kind : Nat) (v : Word) : Hub :=
  let h1 := if kind = 1 then { h with floorHub := v, hubA := h.hubA.under v, hubB := h.hubB.under v }
    else { h with floorChan := v, chanA := h.chanA.under v, chanB := h.chanB.under v }
  h1.addLog 5 0xFF (BitVec.ofNat 32 kind) v 0

/-- FW_FLOOR. -/
def execFwFloor (c : CmdRef) (s : State) : Out :=
  starting c 0x22 s fun x s =>
    let kind := recNat x.record 12 1
    let v : Word := BitVec.ofNat 32 (recNat x.record 16 4)
    let now := s.hub.floor kind
    if v ≤ now then (some (succeeds now.toNat), s)
    else if s.namedBelow kind v then (some (fails stInvalidArgument), s)
    else if !s.hub.logRoom then (some (fails stBusy), s)
    else (some (succeeds v.toNat), s.setHub fun h => h.raise kind v)

/-- "KSOWNER1". -/
def ksOwner1 : List Byte := ascii [75, 83, 79, 87, 78, 69, 82, 49]

/-- A key block is accepted (R412): while no key is installed, or signed under the present key with a higher COUNT. -/
def Hub.acceptsKey (h : Hub) (b : List Byte) : Bool :=
  match h.ownerKey with
  | none => true
  | some k => pssVerify k (ksOwner1 ++ bytesLe 4 Config.serial.toNat ++ b.take 392) (b.drop 392)
      && decide (h.ownerCount.toNat < partNat b 388 4)

/-- The key of an accepted block is committed and logged, and every session is closed; a MODULUS of zeros removes the key. -/
def Hub.installKey (h : Hub) (b : List Byte) : Hub :=
  let h1 := { h with
    ownerKey := if partZero b 0 384 then none else some (b.take 388), ownerCount := BitVec.ofNat 32 (partNat b 388 4), sessions := [] }
  h1.addLog 4 0xFF 0 h1.ownerCount h1.ownerHash

/-- OWNER_KEY. -/
def execOwnerKey (c : CmdRef) (s : State) : Out :=
  starting c 0x23 s fun x s =>
    let a := recNat x.record 16 8
    if !s.atNode a 776 then (some (fails stInvalidArgument), s)
    else
      let r := s.readPhys a 776
      let b := r.1.1
      if !r.2.hub.acceptsKey b then (some (fails stNotPermitted), r.2)
      else if !r.2.hub.logRoom then (some (fails stBusy), r.2)
      else (some (succeeds (partNat b 388 4)), r.2.setHub fun h => h.installKey b)

/-! ## QUOTE (R415, R416) -/

/-- A log entry with its SEQ. -/
def LogEntry.bytes (e : LogEntry) (seq : Nat) : List Byte :=
  bytesLe 4 seq ++ [BitVec.ofNat 8 e.kind.val, e.channel, 0, 0] ++ bytesLe 4 e.version.toNat ++ bytesLe 4 e.svn.toNat
    ++ bytesLe 32 e.digest.toNat ++ bytesLe 16 0

/-- What QUOTE signs. -/
def Hub.quoteBody (h : Hub) (nonce : Nat) : List Byte :=
  bytesLe 4 1 ++ bytesLe 4 Config.serial.toNat ++ bytesLe 2 h.node.val ++ bytesLe 2 h.log.length ++ bytesLe 4 h.powerOn.toNat
    ++ bytesLe 32 nonce ++ bytesLe 16 h.digest.toNat ++ bytesLe 32 h.ownerHash.toNat ++ bytesLe 32 0
    ++ h.log.zipIdx.flatMap fun e => e.1.bytes e.2

/-- The size of a quote. -/
def Hub.quoteSize (h : Hub) : Nat := 128 + 64 * h.log.length + 384

/-- QUOTE: the body, then the signature. -/
def execQuote (c : CmdRef) (s : State) : Out :=
  starting c 0x24 s fun x s =>
    let n := s.hub.quoteSize
    if recNat x.record 24 4 < n then (some (stInvalidArgument, BitVec.ofNat 64 n), s)
    else
      let body := s.hub.quoteBody (recNat x.record 32 32)
      let buf := recNat x.record 16 8
      let sig := (List.range 384).map fun i => (Config.identitySign body).getD i 0
      (some (succeeds n), (s.hostWrite buf body).hostWrite (buf + (n - 384)) sig)

end Sys2Proof.Machine
end

