-- ==== Sys2Proof/Machine/Float.lean ====
section
/-! DEFINITION. Binary32 and HAZEL40 arithmetic: class 0x3 and the floating operations of class 0x1 (R74, R75,
R135, R157). -/

namespace Sys2Proof.Machine

/-- X[17:13]: NEGA, NEGB, NEGC, ABSA, ABSB, for the sources that the operation names (R75). -/
def modBits (k : Nat) : Nat := if k = 1 then 0x24000 else if k = 2 then 0x36000 else 0x3E000

/-- Absolute value first, then negation; only the sign bit changes (R75). -/
def modified (abs neg : Bool) (x : Word) : Word :=
  let y := if abs then x &&& 0x7FFFFFFF else x
  if neg then y ^^^ 0x80000000 else y

/-- Bit `n` of X, where class 0x3 carries modifiers. -/
def modOn (w : DWord) (n : Nat) : Bool := decide (fClass w = 3) && (xOf w).testBit n

/-- The binary32 sources of a lane after the modifiers. -/
def Issued.fa (i : Issued) (l : Nat) : Word := modified (modOn i.w 14) (modOn i.w 17) (loWord (i.a l))
def Issued.fb (i : Issued) (l : Nat) : Word := modified (modOn i.w 13) (modOn i.w 16) (loWord (i.b l))
def Issued.fc (i : Issued) (l : Nat) : Word := modified false (modOn i.w 15) (loWord (i.c l))

/-- The form of a binary32 operation of `k` sources; class 0x1 takes no modifiers (R74). -/
def floatForm (encs : List (Nat × Nat)) (k : Nat) (w : DWord) : Form :=
  { encs := encs
    valid := fun b w => arithValid k [4] (if fClass w = 1 then 0 else modBits k) b w
    uniform := decide (fClass w = 1), srcs := arithSrcs k, waits := fun _ => []
    dsts := fun w => [.reg (decide (fClass w = 1)) (fD w) 1], memory := false
    check := fun _ => none, ready := fun _ => true }

/-- The lanes whose results an instruction computes. -/
def Issued.workLanes (i : Issued) : List Nat := if fClass i.w = 1 then [lowLane i.mask] else lanesOf i.mask

/-- Write binary32 results and set FLAGS (R75, R85). -/
def Issued.float (i : Issued) (s : State) (f : Nat → FResult) : Out :=
  let fl := i.workLanes.foldl (fun a l => a ||| (f l).2) 0
  i.done s fun g => (i.write (fun l => (f l).1.setWidth 64) g).orFlags fl

/-- An operation whose result the spec bounds by an error: each lane picks a result within the bound by a
free value (notes/assumptions/2.md). -/
def Issued.approx (i : Issued) (f : Bool → Nat → Word → FResult) : Out :=
  let base := i.s.freeCount
  i.float { i.s with freeCount := base + 16 } fun l => f i.blk.flush (Config.free (base + l)).toNat (i.fa l)

/-- FADD. -/
def execFadd (g : GRef) (w : DWord) (s : State) : Out :=
  (floatForm [(1, 32), (3, 1)] 2 w).issue g w s fun i => i.float i.s fun l => f32Add i.blk.flush (i.fa l) (i.fb l)

/-- FSUB. -/
def execFsub (g : GRef) (w : DWord) (s : State) : Out :=
  (floatForm [(3, 2)] 2 w).issue g w s fun i => i.float i.s fun l => f32Sub i.blk.flush (i.fa l) (i.fb l)

/-- FMUL. -/
def execFmul (g : GRef) (w : DWord) (s : State) : Out :=
  (floatForm [(1, 33), (3, 3)] 2 w).issue g w s fun i => i.float i.s fun l => f32Mul i.blk.flush (i.fa l) (i.fb l)

/-- FFMA; one of class 0x3 counts VFMA (R423). -/
def execFfma (g : GRef) (w : DWord) (s : State) : Out :=
  (floatForm [(1, 34), (3, 4)] 3 w).issue g w s fun i =>
    i.float (if fClass w = 3 then i.s.countCore i.core 0x04 (popcount i.mask) i.blk.ctx.val else i.s)
      fun l => f32Fma i.blk.flush (i.fa l) (i.fb l) (i.fc l)

/-- FMIN. -/
def execFmin (g : GRef) (w : DWord) (s : State) : Out :=
  (floatForm [(3, 5)] 2 w).issue g w s fun i =>
    i.float i.s fun l => f32MinMax i.blk.flush false (i.fa l) (i.fb l)

/-- FMAX. -/
def execFmax (g : GRef) (w : DWord) (s : State) : Out :=
  (floatForm [(3, 6)] 2 w).issue g w s fun i =>
    i.float i.s fun l => f32MinMax i.blk.flush true (i.fa l) (i.fb l)

/-- FRCP. -/
def execFrcp (g : GRef) (w : DWord) (s : State) : Out :=
  (floatForm [(3, 7)] 1 w).issue g w s fun i => i.approx f32Rcp

/-- FRSQ. -/
def execFrsq (g : GRef) (w : DWord) (s : State) : Out :=
  (floatForm [(3, 8)] 1 w).issue g w s fun i => i.approx f32Rsq

/-- FSQRT. -/
def execFsqrt (g : GRef) (w : DWord) (s : State) : Out :=
  (floatForm [(3, 9)] 1 w).issue g w s fun i => i.approx f32Sqrt

/-- FEXP2. -/
def execFexp2 (g : GRef) (w : DWord) (s : State) : Out :=
  (floatForm [(3, 10)] 1 w).issue g w s fun i => i.approx f32Exp2

/-- FLOG2. -/
def execFlog2 (g : GRef) (w : DWord) (s : State) : Out :=
  (floatForm [(3, 11)] 1 w).issue g w s fun i => i.approx f32Log2

/-- HZADD's B is one binary32 word; its A and D are pairs (R75). -/
def hzValid (b : Block) (w : DWord) : Bool :=
  decide (fType w = 13) && regOk b.regs false (fD w) 2 && (opndA w 2).ok b.regs
    && (fFmt w || (xOnly w (modBits 2) && unusedR w false false false true && (opndB w 1).ok b.regs))

/-- The shape of HZADD. -/
def hzaddForm (w : DWord) : Form :=
  { floatForm [(3, 12)] 2 w with
      valid := hzValid
      srcs := fun i => [(opndA i.w 2, i.mask), (opndB i.w 1, i.mask)]
      dsts := fun w => [.reg false (fD w) 2] }

/-- HZADD: D pair = A pair + B, rounded once to HAZEL40. -/
def execHzadd (g : GRef) (w : DWord) (s : State) : Out :=
  (hzaddForm w).issue g w s fun i =>
    let r (l : Nat) : Word × Byte × BitVec 3 :=
      let p := i.grp.opVal (opndA w 2) l
      let b := modified (modOn w 13) (modOn w 16) (loWord (i.grp.opVal (opndB w 1) l))
      hzAdd i.blk.flush (modified (modOn w 14) (modOn w 17) (loWord p)) (p.extractLsb' 32 8) b
    let fl := (lanesOf i.mask).foldl (fun a l => a ||| (r l).2.2) 0
    i.done i.s fun g => (i.write (fun l => ((r l).2.1.setWidth 32 : Word) ++ (r l).1) g).orFlags fl

end Sys2Proof.Machine
end

