-- ==== Sys2Proof/Machine/Predicate.lean ====
section
/-! DEFINITION. Class 0x5: predicates and lanes (R68, R69, R77, R452). -/

namespace Sys2Proof.Machine

/-- The condition of CMP: EQ, NE, LT, LE, GT, GE, ORD, UNORD, given "less", "equal" and "unordered". -/
def condition (c : Nat) (lt eq un : Bool) : Bool :=
  match c with
  | 0 => eq
  | 1 => !eq
  | 2 => lt
  | 3 => lt || eq
  | 4 => !un && !lt && !eq
  | 5 => !un && !lt
  | 6 => !un
  | _ => un

/-- CMP in a lane: TYPE selects the comparison (R77). FLUSH does not apply (notes/assumptions/12.md). -/
def Issued.compare (i : Issued) (lane : Nat) : Bool :=
  let c := xOf i.w / 2 ^ 15
  if fType i.w = 4 then
    let x := (dec32 false (loWord (i.a lane))).1
    let y := (dec32 false (loWord (i.b lane))).1
    let un := isNaN32 (loWord (i.a lane)) || isNaN32 (loWord (i.b lane))
    let lt := x.lt y
    condition c (!un && lt) (!un && !lt && !(y.lt x)) un
  else
    let x := asInt (fType i.w) (i.a lane)
    let y := asInt (fType i.w) (i.b lane)
    condition c (decide (x < y)) (decide (x = y)) false

/-- What R67 asks of CMP: ORD and UNORD for f32 only. -/
def cmpValid (b : Block) (w : DWord) : Bool :=
  let n := typeWords (fType w)
  decide (fType w ∈ movTypes) && decide (fD w < 8) && (opndA w n).ok b.regs
    && (fFmt w || (xOnly w 0x38000 && unusedR w false false false true && (opndB w n).ok b.regs
          && (decide (fType w = 4) || decide (xOf w / 2 ^ 15 < 6))))

/-- The shape of CMP. -/
def cmpForm : Form :=
  { Form.plain [(5, 0)] cmpValid false with srcs := arithSrcs 2 }

/-- CMP: bits outside the execution mask keep their values. -/
def execCmp (g : GRef) (w : DWord) (s : State) : Out :=
  cmpForm.issue g w s fun i =>
    i.done i.s fun g =>
      let r : Mask := maskOf fun l => i.compare l
      g.setP (fD w) ((g.pmask (fD w) &&& ~~~i.mask) ||| (r &&& i.mask))

/-- The bits that PLOP reads as B: a predicate, or IMM in form I (R452; DEDUCED, notes/assumptions/12.md). -/
def Group.plopB (g : Group) (w : DWord) : Mask := if fFmt w then (fImm w).setWidth 16 else g.pmask (fB w)

def plopValid (_ : Block) (w : DWord) : Bool :=
  decide (fType w = 0) && decide (fD w < 8) && decide (fA w < 8) && !fAs w
    && (fFmt w || (decide (fB w < 8) && xOnly w 0x3C000 && unusedR w false false false true && !fBs w))

/-- The shape of PLOP. -/
def plopForm : Form :=
  Form.plain [(5, 1)] plopValid true

/-- PLOP: all 16 bits, whatever the execution mask; bit 2a + b of the truth table gives f(a, b). -/
def execPlop (g : GRef) (w : DWord) (s : State) : Out :=
  plopForm.issue g w s fun i =>
    i.done i.s fun g =>
      let a := g.pmask (fA w)
      let b := g.plopB w
      let t := xOf w / 2 ^ 14
      g.setP (fD w) (maskOf fun l => t.testBit ((if a.getLsbD l then 2 else 0) + if b.getLsbD l then 1 else 0))

/-- A predicate in A and a scalar register in D, with nothing else (PTOS, PCNT). -/
def ptosValid (_ : Block) (w : DWord) : Bool :=
  decide (fType w = 0) && decide (fD w < 16) && decide (fA w < 8) && !fAs w && !fFmt w && decide (fieldOf w 31 0 = 0)

/-- The shape of PTOS. -/
def ptosForm : Form :=
  { Form.plain [(5, 2)] ptosValid true with dsts := fun w => [.reg true (fD w) 1] }

/-- PTOS. -/
def execPtos (g : GRef) (w : DWord) (s : State) : Out :=
  ptosForm.issue g w s fun i =>
    i.done i.s fun g => g.setS (fD w) (clean ((g.pmask (fA w) &&& i.mask).setWidth 32))

/-- The shape of STOP. -/
def stopForm : Form :=
  { Form.plain [(5, 3)] (fun b w => decide (fType w = 0) && decide (fD w < 8) && regOk b.regs true (fA w) 1
        && !fFmt w && decide (fieldOf w 31 0 = 0)) true with
      srcs := fun i => [(.reg true (fA i.w) 1, i.mask)] }

/-- STOP. A names a scalar register whatever AS (DEDUCED, notes/assumptions/22.md). -/
def execStop (g : GRef) (w : DWord) (s : State) : Out :=
  stopForm.issue g w s fun i =>
    i.done i.s fun g => g.setP (fD w) ((g.sword (fA w)).val.setWidth 16)

/-- The shape of PCNT. -/
def pcntForm : Form :=
  { Form.plain [(5, 4)] ptosValid true with dsts := fun w => [.reg true (fD w) 1] }

/-- PCNT. -/
def execPcnt (g : GRef) (w : DWord) (s : State) : Out :=
  pcntForm.issue g w s fun i =>
    i.done i.s fun g => g.setS (fD w) (clean (BitVec.ofNat 32 (popcount (g.pmask (fA w) &&& i.mask))))

/-- The source lane of SHFL; in UP and DOWN the whole 32-bit B counts, as an unsigned number (R77; DEDUCED,
notes/assumptions/12.md). -/
def shflLane (mode lane b : Nat) : Option Nat :=
  match mode with
  | 0 => some (b % 16)
  | 1 => if b ≤ lane then some (lane - b) else none
  | 2 => if lane + b < 16 then some (lane + b) else none
  | _ => some ((lane ^^^ (b % 16)) % 16)

def shflValid (b : Block) (w : DWord) : Bool :=
  decide (fType w = 0) && !fAs w && regOk b.regs false (fD w) 1 && regOk b.regs false (fA w) 1
    && (fFmt w || (xOnly w 0x30000 && unusedR w false false false true && (opndB w 1).ok b.regs))

/-- The shape of SHFL. -/
def shflForm : Form :=
  { Form.plain [(5, 5)] shflValid false with
      srcs := fun i => [(opndB i.w 1, i.mask)]
      dsts := fun w => [.reg false (fD w) 1, .reg false (fA w) 1] }

/-- SHFL: the word moves with its tag, whatever the source lane's state (R65, R77). -/
def execShfl (g : GRef) (w : DWord) (s : State) : Out :=
  shflForm.issue g w s fun i =>
    i.done i.s fun g =>
      g.setLanes (fD w) i.mask fun l =>
        match shflLane (xOf w / 2 ^ 16) l (loWord (i.grp.opVal (opndB w 1) l)).toNat with
        | some j => i.grp.vword (fA w) j
        | none => i.grp.vword (fD w) l

def rdlaneValid (b : Block) (w : DWord) : Bool :=
  decide (fType w = 0) && !fAs w && decide (fD w < 16) && regOk b.regs false (fA w) 1
    && (if fFmt w then decide (fieldOf w 31 4 = 0) else decide (fieldOf w 31 0 = 2 ^ 17))

/-- The shape of RDLANE. -/
def rdlaneForm : Form :=
  { Form.plain [(5, 6)] rdlaneValid true with
      dsts := fun w => [.reg true (fD w) 1, .reg false (fA w) 1] }

/-- RDLANE: of lane IMM[3:0], or of the lowest lane of the execution mask; it consumes nothing (R90). -/
def execRdlane (g : GRef) (w : DWord) (s : State) : Out :=
  rdlaneForm.issue g w s fun i =>
    i.done i.s fun g => g.setS (fD w) (g.vword (fA w) (if fFmt w then fieldOf w 3 0 else lowLane i.mask))

end Sys2Proof.Machine
end

