-- ==== Sys2Proof/Machine/System.lean ====
section
/-! DEFINITION. Class 0xD: the system registers (R24, R85, R137, R418, R424). -/

namespace Sys2Proof.Machine

/-- The 32-bit system registers that GETSR reads (R85). -/
def sysReg (i : Issued) (n : Nat) : Option Word :=
  match n with
  | 0x00 => some i.grp.id
  | 0x01 => some (BitVec.ofNat 32 (i.grp.ident / 16))
  | 0x02 => some (BitVec.ofNat 32 i.s.hub.node.val)
  | 0x03 => some (BitVec.ofNat 32 i.blk.ctx.val)
  | 0x04 => some (BitVec.ofNat 32 (i.s.ctx i.blk.ctx.val).fn.val)
  | 0x05 => some (BitVec.ofNat 32 ((if i.blk.plane then 4 else 0) + (if i.blk.satNaR then 2 else 0)
      + if i.blk.flush then 1 else 0))
  | 0x06 => some (i.grp.flags.setWidth 32)
  | _ => none

/-- The numbers of the 64-bit system registers. -/
def isSys64 (n : Nat) : Bool := n = 0x10 || n = 0x11 || (0x20 ≤ n && n ≤ 0x27)

/-- Every Quern instruction and every ATOM that the group issued has completed (R137). -/
def Core.flagsQuiet (c : Core) (slot : Nat) : Bool :=
  !(c.quern.queue.any fun q => decide (q.slot.val = slot))
    && !(c.loads.any fun l => l.live && decide (l.slot.val = slot) && (match l.kind with | .atom _ => true | _ => false))

/-- Form I with A unused (GETSR, GETSR64, CLRFLAGS). -/
def sysFormI (w : DWord) : Bool := decide (fType w = 0) && fFmt w && decide (fA w = 0) && !fAs w

/-- The number of a system register, IMM[7:0]; the other bits are not read (R85). -/
def sysNum (w : DWord) : Nat := (fImm w).toNat % 256

/-- The shape of GETSR. -/
def getsrForm : Form :=
  { Form.plain [(13, 0)] (fun _ w => sysFormI w && decide (fD w < 16) && decide (sysNum w < 7)) true with
      dsts := fun w => [.reg true (fD w) 1]
      ready := fun i => !decide (sysNum i.w = 6) || (i.s.core i.core).flagsQuiet i.g.slot.val }

/-- GETSR: a number not in the table raises ILLEGAL_INSTRUCTION. A read of FLAGS waits as R137 states. -/
def execGetsr (g : GRef) (w : DWord) (s : State) : Out :=
  getsrForm.issue g w s
    fun i =>
      match sysReg i (sysNum w) with
      | some x => i.done i.s fun g => g.setS (fD w) (clean x)
      | none => .next (i.stop i.illegal)

/-- The value that a read of PMCn returns: that of the core's own counter only where R424 permits it. -/
def Issued.pmcRead (i : Issued) (n : Nat) : DWord :=
  let c := i.s.chan i.ch
  let sel := tget 0 c.sels n
  if c.pmcUser.getLsbD n && selFilt sel && decide (selValue sel = i.blk.ctx.val) then tget 0 (i.s.core i.core).pmc n
  else 0

/-- Handshakes that issue nothing also pass (R10, R11); how many is a free value, short of the next rotation check (notes/assumptions/4.md). -/
def State.passHandshakes (s : State) (core : Nat) : State :=
  let f := s.takeFree
  f.2.modCore core fun c =>
    let n := f.1.toNat % (c.rotationQuantum - c.rotation)
    { c with hs := satAdd c.hs n, rotation := c.rotation + n }

/-- The shape of GETSR64. -/
def getsr64Form : Form :=
  { Form.plain [(13, 1)] (fun b w => sysFormI w && regOk b.regs true (fD w) 2 && isSys64 (sysNum w)) true with
      dsts := fun w => [.reg true (fD w) 2] }

/-- GETSR64. REFCNT lags the counter by `lag` ticks and never falls below what it stood at before (R24). -/
def execGetsr64 (g : GRef) (w : DWord) (lag : Fin 5) (s : State) : Out :=
  getsr64Form.issue g w s fun i =>
    let n := sysNum w
    if n = 0x10 then
      let old := (i.s.chan i.ch).refcnt
      let s1 := i.s.elapse i.ch
      let new := (s1.chan i.ch).refcnt
      let v := BitVec.ofNat 64 (Nat.max old.toNat (new.toNat - lag.val))
      i.done s1 fun g => g.putS (fD w) true v
    else if n = 0x11 then
      let s1 := i.s.passHandshakes i.core
      i.done s1 fun g => g.putS (fD w) true (s1.core i.core).hs
    else i.done i.s fun g => g.putS (fD w) true (i.pmcRead (n - 0x20))

/-- The shape of GETTID. -/
def gettidForm : Form :=
  { Form.plain [(13, 3)] (fun b w => decide (fType w = 0) && regOk b.regs false (fD w) 1 && decide (fA w = 0)
        && !fFmt w && !fAs w && decide (fieldOf w 31 0 = 0)) false with
      dsts := fun w => [.reg false (fD w) 1] }

/-- GETTID: the thread identifier of each lane (R3, R34). -/
def execGettid (g : GRef) (w : DWord) (s : State) : Out :=
  gettidForm.issue g w s fun i =>
    i.done i.s fun g => g.setLanes (fD w) i.mask fun l => clean (BitVec.ofNat 32 (16 * i.grp.ident + l))

/-- The shape of CLRFLAGS. -/
def clrflagsForm : Form :=
  { Form.plain [(13, 2)] (fun _ w => sysFormI w && decide (fD w = 0)) true with
      ready := fun i => (i.s.core i.core).flagsQuiet i.g.slot.val }

/-- CLRFLAGS: clears the FLAGS bits of IMM[2:0]; it waits as GETSR of FLAGS does (R137). -/
def execClrflags (g : GRef) (w : DWord) (s : State) : Out :=
  clrflagsForm.issue g w s fun i =>
    i.done i.s fun g => g.clearFlags ((fImm w).setWidth 3)

end Sys2Proof.Machine
end

