-- ==== Sys2Proof/Machine/Dispatch.lean ====
section
/-! DEFINITION. The dispatch: one arm per command, each a direct call of the command's meaning. -/

namespace Sys2Proof.Machine

/-- What a command does to everything but the queue. -/
def exec (i : Instr) (s : State) : Host.Outcome State Fault Refusal :=
  match i with
  | .illegal g w => Sys2Proof.Machine.execIllegal g w s
  | .nop g w => Sys2Proof.Machine.execNop g w s
  | .bra g w => Sys2Proof.Machine.execBra g w s
  | .brx g w => Sys2Proof.Machine.execBrx g w s
  | .jmpl g w => Sys2Proof.Machine.execJmpl g w s
  | .jmpr g w => Sys2Proof.Machine.execJmpr g w s
  | .exit g w => Sys2Proof.Machine.execExit g w s
  | .trap g w => Sys2Proof.Machine.execTrap g w s
  | .mov g w => Sys2Proof.Machine.execMov g w s
  | .add g w => Sys2Proof.Machine.execAdd g w s
  | .sub g w => Sys2Proof.Machine.execSub g w s
  | .mul g w => Sys2Proof.Machine.execMul g w s
  | .mulhi g w => Sys2Proof.Machine.execMulhi g w s
  | .mad g w => Sys2Proof.Machine.execMad g w s
  | .min g w => Sys2Proof.Machine.execMin g w s
  | .max g w => Sys2Proof.Machine.execMax g w s
  | .and g w => Sys2Proof.Machine.execAnd g w s
  | .or g w => Sys2Proof.Machine.execOr g w s
  | .xor g w => Sys2Proof.Machine.execXor g w s
  | .shl g w => Sys2Proof.Machine.execShl g w s
  | .shr g w => Sys2Proof.Machine.execShr g w s
  | .sar g w => Sys2Proof.Machine.execSar g w s
  | .sel g w => Sys2Proof.Machine.execSel g w s
  | .popc g w => Sys2Proof.Machine.execPopc g w s
  | .clz g w => Sys2Proof.Machine.execClz g w s
  | .fadd g w => Sys2Proof.Machine.execFadd g w s
  | .fsub g w => Sys2Proof.Machine.execFsub g w s
  | .fmul g w => Sys2Proof.Machine.execFmul g w s
  | .ffma g w => Sys2Proof.Machine.execFfma g w s
  | .fmin g w => Sys2Proof.Machine.execFmin g w s
  | .fmax g w => Sys2Proof.Machine.execFmax g w s
  | .frcp g w => Sys2Proof.Machine.execFrcp g w s
  | .frsq g w => Sys2Proof.Machine.execFrsq g w s
  | .fsqrt g w => Sys2Proof.Machine.execFsqrt g w s
  | .fexp2 g w => Sys2Proof.Machine.execFexp2 g w s
  | .flog2 g w => Sys2Proof.Machine.execFlog2 g w s
  | .hzadd g w => Sys2Proof.Machine.execHzadd g w s
  | .cvt g w => Sys2Proof.Machine.execCvt g w s
  | .cmp g w => Sys2Proof.Machine.execCmp g w s
  | .plop g w => Sys2Proof.Machine.execPlop g w s
  | .ptos g w => Sys2Proof.Machine.execPtos g w s
  | .stop g w => Sys2Proof.Machine.execStop g w s
  | .pcnt g w => Sys2Proof.Machine.execPcnt g w s
  | .shfl g w => Sys2Proof.Machine.execShfl g w s
  | .rdlane g w => Sys2Proof.Machine.execRdlane g w s
  | .ld g w => Sys2Proof.Machine.execLd g w s
  | .st g w => Sys2Proof.Machine.execSt g w s
  | .pref g w => Sys2Proof.Machine.execPref g w s
  | .ldl g w => Sys2Proof.Machine.execLdl g w s
  | .stl g w => Sys2Proof.Machine.execStl g w s
  | .atom g w => Sys2Proof.Machine.execAtom g w s
  | .red g w => Sys2Proof.Machine.execRed g w s
  | .ldfe g w => Sys2Proof.Machine.execLdfe g w s
  | .stfe g w => Sys2Proof.Machine.execStfe g w s
  | .waitfe g w => Sys2Proof.Machine.execWaitfe g w s
  | .syncSet g w => Sys2Proof.Machine.execSyncSet g w s
  | .syncClear g w => Sys2Proof.Machine.execSyncClear g w s
  | .syncWaitSet g w => Sys2Proof.Machine.execSyncWaitSet g w s
  | .syncWaitClear g w => Sys2Proof.Machine.execSyncWaitClear g w s
  | .syncPut g w => Sys2Proof.Machine.execSyncPut g w s
  | .syncTake g w => Sys2Proof.Machine.execSyncTake g w s
  | .syncTest g w => Sys2Proof.Machine.execSyncTest g w s
  | .syncAdd g w => Sys2Proof.Machine.execSyncAdd g w s
  | .signal g w => Sys2Proof.Machine.execSignal g w s
  | .signalDelivery ctx target => Sys2Proof.Machine.execSignalDelivery ctx target s
  | .waitsig g w => Sys2Proof.Machine.execWaitsig g w s
  | .qload g w => Sys2Proof.Machine.execQload g w s
  | .qswap g w => Sys2Proof.Machine.execQswap g w s
  | .qstream g w => Sys2Proof.Machine.execQstream g w s
  | .qdrain g w => Sys2Proof.Machine.execQdrain g w s
  | .qzero g w => Sys2Proof.Machine.execQzero g w s
  | .quernQueueStart c id e => Sys2Proof.Machine.execQuernQueueStart c id e s
  | .quernInstructionComplete c id => Sys2Proof.Machine.execQuernInstructionComplete c id s
  | .fence g w => Sys2Proof.Machine.execFence g w s
  | .complete g w => Sys2Proof.Machine.execComplete g w s
  | .barGroup g w => Sys2Proof.Machine.execBarGroup g w s
  | .barBlock g w => Sys2Proof.Machine.execBarBlock g w s
  | .waithint g w => Sys2Proof.Machine.execWaithint g w s
  | .getsr g w => Sys2Proof.Machine.execGetsr g w s
  | .getsr64 g w lag => Sys2Proof.Machine.execGetsr64 g w lag s
  | .gettid g w => Sys2Proof.Machine.execGettid g w s
  | .clrflags g w => Sys2Proof.Machine.execClrflags g w s
  | .moveq g w => Sys2Proof.Machine.execMoveq g w s
  | .moveDescriptorStart ch cl => Sys2Proof.Machine.execMoveDescriptorStart ch cl s
  | .moveEngineCompletion ch cl id => Sys2Proof.Machine.execMoveEngineCompletion ch cl id s
  | .blockPlace ch launch => Sys2Proof.Machine.execBlockPlace ch launch s
  | .groupDemote g => Sys2Proof.Machine.execGroupDemote g s
  | .groupPromote c => Sys2Proof.Machine.execGroupPromote c s
  | .rotationCheck c => Sys2Proof.Machine.execRotationCheck c s
  | .waithintBackoff g => Sys2Proof.Machine.execWaithintBackoff g s
  | .barrierStall c blk bar => Sys2Proof.Machine.execBarrierStall c blk bar s
  | .syncWaitStall g => Sys2Proof.Machine.execSyncWaitStall g s
  | .coreSave c e => Sys2Proof.Machine.execCoreSave c e s
  | .coreRestore c saved => Sys2Proof.Machine.execCoreRestore c saved s
  | .idleSelfTest c pass => Sys2Proof.Machine.execIdleSelfTest c pass s
  | .spareCoreSwap c spareTests => Sys2Proof.Machine.execSpareCoreSwap c spareTests s
  | .storeBufferIssue c e => Sys2Proof.Machine.execStoreBufferIssue c e s
  | .storeAck c id => Sys2Proof.Machine.execStoreAck c id s
  | .loadReturn c id => Sys2Proof.Machine.execLoadReturn c id s
  | .wakeRampRelease ch => Sys2Proof.Machine.execWakeRampRelease ch s
  | .rampStepEnd ch => Sys2Proof.Machine.execRampStepEnd ch s
  | .unregisteredRetry g => Sys2Proof.Machine.execUnregisteredRetry g s
  | .readS m e => Sys2Proof.Machine.execReadS m e s
  | .readU m e => Sys2Proof.Machine.execReadU m e s
  | .own m e => Sys2Proof.Machine.execOwn m e s
  | .wb m e => Sys2Proof.Machine.execWb m e s
  | .rdSnap m e => Sys2Proof.Machine.execRdSnap m e s
  | .wrMerge m e => Sys2Proof.Machine.execWrMerge m e s
  | .atomic m e => Sys2Proof.Machine.execAtomic m e s
  | .feOp m e => Sys2Proof.Machine.execFeOp m e s
  | .snpFwd m e => Sys2Proof.Machine.execSnpFwd m e s
  | .snpFwdU m e => Sys2Proof.Machine.execSnpFwdU m e s
  | .snpInv m e => Sys2Proof.Machine.execSnpInv m e s
  | .snpPeek m e => Sys2Proof.Machine.execSnpPeek m e s
  | .snpRecall m e => Sys2Proof.Machine.execSnpRecall m e s
  | .data m e => Sys2Proof.Machine.execData m e s
  | .grant m e => Sys2Proof.Machine.execGrant m e s
  | .ack m => Sys2Proof.Machine.execAck m s
  | .none m => Sys2Proof.Machine.execNone m s
  | .inFlight m => Sys2Proof.Machine.execInFlight m s
  | .poisoned m => Sys2Proof.Machine.execPoisoned m s
  | .wbAck m => Sys2Proof.Machine.execWbAck m s
  | .result m => Sys2Proof.Machine.execResult m s
  | .lost m => Sys2Proof.Machine.execLost m s
  | .feWake m => Sys2Proof.Machine.execFeWake m s
  | .memoryReadComplete line lo hi => Sys2Proof.Machine.execMemoryReadComplete line lo hi s
  | .memoryWriteAck line => Sys2Proof.Machine.execMemoryWriteAck line s
  | .targetedScrub ch => Sys2Proof.Machine.execTargetedScrub ch s
  | .patrolScrub ch upsets => Sys2Proof.Machine.execPatrolScrub ch upsets s
  | .evacuationBatch ch upsets => Sys2Proof.Machine.execEvacuationBatch ch upsets s
  | .evacuationCommit ch => Sys2Proof.Machine.execEvacuationCommit ch s
  | .mapStoreCommit ch => Sys2Proof.Machine.execMapStoreCommit ch s
  | .tlbWalkStart ch => Sys2Proof.Machine.execTlbWalkStart ch s
  | .walkComplete ch k => Sys2Proof.Machine.execWalkComplete ch k s
  | .faultRecordPost fn => Sys2Proof.Machine.execFaultRecordPost fn s
  | .flitReceive ch port b => Sys2Proof.Machine.execFlitReceive ch port b s
  | .nakRepeat ch port => Sys2Proof.Machine.execNakRepeat ch port s
  | .keepalive ch port => Sys2Proof.Machine.execKeepalive ch port s
  | .ident ch port r => Sys2Proof.Machine.execIdent ch port r s
  | .paceReport from_ pace seqNo => Sys2Proof.Machine.execPaceReport from_ pace seqNo s
  | .paceReportTimer => Sys2Proof.Machine.execPaceReportTimer s
  | .pacePeerStale n => Sys2Proof.Machine.execPacePeerStale n s
  | .nodeLost n theirCh ch => Sys2Proof.Machine.execNodeLost n theirCh ch s
  | .nodeRejoin n => Sys2Proof.Machine.execNodeRejoin n s
  | .nodeLostTimer n => Sys2Proof.Machine.execNodeLostTimer n s
  | .channelReset n theirCh ch => Sys2Proof.Machine.execChannelReset n theirCh ch s
  | .streamRestart n theirCh ch base => Sys2Proof.Machine.execStreamRestart n theirCh ch base s
  | .diag ch port => Sys2Proof.Machine.execDiag ch port s
  | .trainingComplete ch port lanes => Sys2Proof.Machine.execTrainingComplete ch port lanes s
  | .trainingTimeout ch port => Sys2Proof.Machine.execTrainingTimeout ch port s
  | .trainingRetry ch port => Sys2Proof.Machine.execTrainingRetry ch port s
  | .freshStartPattern ch port => Sys2Proof.Machine.execFreshStartPattern ch port s
  | .autoRetrainTrigger ch port => Sys2Proof.Machine.execAutoRetrainTrigger ch port s
  | .retrainComplete ch port lanes farAck => Sys2Proof.Machine.execRetrainComplete ch port lanes farAck s
  | .linkDeadTimeout ch port => Sys2Proof.Machine.execLinkDeadTimeout ch port s
  | .requestSilenceTimeout n => Sys2Proof.Machine.execRequestSilenceTimeout n s
  | .channelIsolationTimeout ch => Sys2Proof.Machine.execChannelIsolationTimeout ch s
  | .portRetrainRequest ch port => Sys2Proof.Machine.execPortRetrainRequest ch port s
  | .portDisable ch port => Sys2Proof.Machine.execPortDisable ch port s
  | .portEnable ch port => Sys2Proof.Machine.execPortEnable ch port s
  | .commandSubmit fn offset bytes allEnables record => Sys2Proof.Machine.execCommandSubmit fn offset bytes allEnables record s
  | .nopCommand c => Sys2Proof.Machine.execNopCommand c s
  | .launch c => Sys2Proof.Machine.execLaunch c s
  | .write c => Sys2Proof.Machine.execWrite c s
  | .copy c hostData => Sys2Proof.Machine.execCopy c hostData s
  | .segment c => Sys2Proof.Machine.execSegment c s
  | .invalidate c => Sys2Proof.Machine.execInvalidate c s
  | .resolve c => Sys2Proof.Machine.execResolve c s
  | .syncAlloc c => Sys2Proof.Machine.execSyncAlloc c s
  | .syncFree c => Sys2Proof.Machine.execSyncFree c s
  | .syncOpSet c => Sys2Proof.Machine.execSyncOpSet c s
  | .syncOpClear c => Sys2Proof.Machine.execSyncOpClear c s
  | .syncOpTest c => Sys2Proof.Machine.execSyncOpTest c s
  | .syncOpAdd c => Sys2Proof.Machine.execSyncOpAdd c s
  | .syncOpSetPayload c => Sys2Proof.Machine.execSyncOpSetPayload c s
  | .monitorArea c => Sys2Proof.Machine.execMonitorArea c s
  | .ctxMode c => Sys2Proof.Machine.execCtxMode c s
  | .cqSet c => Sys2Proof.Machine.execCqSet c s
  | .excActionResume c => Sys2Proof.Machine.execExcActionResume c s
  | .excActionEnd c => Sys2Proof.Machine.execExcActionEnd c s
  | .excActionAbort c => Sys2Proof.Machine.execExcActionAbort c s
  | .summary c => Sys2Proof.Machine.execSummary c s
  | .streamFence c => Sys2Proof.Machine.execStreamFence c s
  | .commandCompletionPost c => Sys2Proof.Machine.execCommandCompletionPost c s
  | .msixTimer fn v => Sys2Proof.Machine.execMsixTimer fn v s
  | .msixUnmask fn v => Sys2Proof.Machine.execMsixUnmask fn v s
  | .areaHeadWrite fn a head => Sys2Proof.Machine.execAreaHeadWrite fn a head s
  | .areaEnable fn a cfg => Sys2Proof.Machine.execAreaEnable fn a cfg s
  | .fnStoreEnable fn v => Sys2Proof.Machine.execFnStoreEnable fn v s
  | .busMasterEnable fn => Sys2Proof.Machine.execBusMasterEnable fn s
  | .pcieLinkDown => Sys2Proof.Machine.execPcieLinkDown s
  | .functionLevelReset fn => Sys2Proof.Machine.execFunctionLevelReset fn s
  | .tokenRefill => Sys2Proof.Machine.execTokenRefill s
  | .ctxCreate c => Sys2Proof.Machine.execCtxCreate c s
  | .ctxDestroy c => Sys2Proof.Machine.execCtxDestroy c s
  | .ctxReset c => Sys2Proof.Machine.execCtxReset c s
  | .contextCleanupEnd ctx => Sys2Proof.Machine.execContextCleanupEnd ctx s
  | .ctxClass c => Sys2Proof.Machine.execCtxClass c s
  | .fnQuota c => Sys2Proof.Machine.execFnQuota c s
  | .fnGrant c => Sys2Proof.Machine.execFnGrant c s
  | .chanReset c => Sys2Proof.Machine.execChanReset c s
  | .clusterReset ch cl c => Sys2Proof.Machine.execClusterReset ch cl c s
  | .channelResetSequence ch badCores failedPcs journalErrors => Sys2Proof.Machine.execChannelResetSequence ch badCores failedPcs journalErrors s
  | .supplyFault ch => Sys2Proof.Machine.execSupplyFault ch s
  | .leatReferenceLoss ch => Sys2Proof.Machine.execLeatReferenceLoss ch s
  | .leatReferenceQualified ch => Sys2Proof.Machine.execLeatReferenceQualified ch s
  | .hubReferenceLoss => Sys2Proof.Machine.execHubReferenceLoss s
  | .hubReferenceStable => Sys2Proof.Machine.execHubReferenceStable s
  | .controllerWatchdog ch => Sys2Proof.Machine.execControllerWatchdog ch s
  | .hubReset => Sys2Proof.Machine.execHubReset s
  | .hubWatchdog => Sys2Proof.Machine.execHubWatchdog s
  | .devicePowerOn => Sys2Proof.Machine.execDevicePowerOn s
  | .channelBringUp ch found => Sys2Proof.Machine.execChannelBringUp ch found s
  | .hubReady elapsed250 => Sys2Proof.Machine.execHubReady elapsed250 s
  | .pacemonWindow ch low mean => Sys2Proof.Machine.execPacemonWindow ch low mean s
  | .governorEpoch ch low die stack => Sys2Proof.Machine.execGovernorEpoch ch low die stack s
  | .powerInterval meanPower milliVolts => Sys2Proof.Machine.execPowerInterval meanPower milliVolts s
  | .energyInterval input reports => Sys2Proof.Machine.execEnergyInterval input reports s
  | .curveRefitTimer ch => Sys2Proof.Machine.execCurveRefitTimer ch s
  | .thermalTrip ch die stack => Sys2Proof.Machine.execThermalTrip ch die stack s
  | .tripRecovery ch die stack => Sys2Proof.Machine.execTripRecovery ch die stack s
  | .inputUndervoltage => Sys2Proof.Machine.execInputUndervoltage s
  | .undervoltageEnd => Sys2Proof.Machine.execUndervoltageEnd s
  | .inputOutOfRange => Sys2Proof.Machine.execInputOutOfRange s
  | .coolantFail => Sys2Proof.Machine.execCoolantFail s
  | .coolantFailDeassert => Sys2Proof.Machine.execCoolantFailDeassert s
  | .read r => Sys2Proof.Machine.execRead r s
  | .ebfoldWrite r => Sys2Proof.Machine.execEbfoldWrite r s
  | .describe r => Sys2Proof.Machine.execDescribe r s
  | .identify r => Sys2Proof.Machine.execIdentify r s
  | .sessionOpen r nonce => Sys2Proof.Machine.execSessionOpen r nonce s
  | .sessionProve r => Sys2Proof.Machine.execSessionProve r s
  | .sessionClose r => Sys2Proof.Machine.execSessionClose r s
  | .sessionIdleTimeout n => Sys2Proof.Machine.execSessionIdleTimeout n s
  | .sessionProveTimeout n => Sys2Proof.Machine.execSessionProveTimeout n s
  | .event => Sys2Proof.Machine.execEvent s
  | .busOff => Sys2Proof.Machine.execBusOff s
  | .busOffRecovery => Sys2Proof.Machine.execBusOffRecovery s
  | .restoreDefaults r => Sys2Proof.Machine.execRestoreDefaults r s
  | .coherenceConfigWrite r => Sys2Proof.Machine.execCoherenceConfigWrite r s
  | .mapoutNominate r => Sys2Proof.Machine.execMapoutNominate r s
  | .mapoutGrant r => Sys2Proof.Machine.execMapoutGrant r s
  | .mapoutWithdraw r => Sys2Proof.Machine.execMapoutWithdraw r s
  | .curveRefitRequest r => Sys2Proof.Machine.execCurveRefitRequest r s
  | .curveClear r => Sys2Proof.Machine.execCurveClear r s
  | .restEnter r => Sys2Proof.Machine.execRestEnter r s
  | .restLeave r => Sys2Proof.Machine.execRestLeave r s
  | .coolantClear r => Sys2Proof.Machine.execCoolantClear r s
  | .retireChannel r => Sys2Proof.Machine.execRetireChannel r s
  | .channelRetirement ch => Sys2Proof.Machine.execChannelRetirement ch s
  | .reinstateChannel r => Sys2Proof.Machine.execReinstateChannel r s
  | .fwStage c readsBack => Sys2Proof.Machine.execFwStage c readsBack s
  | .fwActivate c => Sys2Proof.Machine.execFwActivate c s
  | .channelFirmwareUpdate ch bankHash answered => Sys2Proof.Machine.execChannelFirmwareUpdate ch bankHash answered s
  | .handoffTimeout ch => Sys2Proof.Machine.execHandoffTimeout ch s
  | .fwFloor c => Sys2Proof.Machine.execFwFloor c s
  | .ownerKey c => Sys2Proof.Machine.execOwnerKey c s
  | .quote c => Sys2Proof.Machine.execQuote c s
  | .pmcSnap ch => Sys2Proof.Machine.execPmcSnap ch s
  | .snapshotComplete ch => Sys2Proof.Machine.execSnapshotComplete ch s
  | .pmcFreeze ch => Sys2Proof.Machine.execPmcFreeze ch s
  | .pmcUnfreeze ch => Sys2Proof.Machine.execPmcUnfreeze ch s
  | .pmcSelWrite ch sel v => Sys2Proof.Machine.execPmcSelWrite ch sel v s
  | .histSelWrite ch n v => Sys2Proof.Machine.execHistSelWrite ch n v s
  | .tagEnable ch v => Sys2Proof.Machine.execTagEnable ch v s
  | .tagRecordWrite ch => Sys2Proof.Machine.execTagRecordWrite ch s
  | .fabRefcntLowRead ch => Sys2Proof.Machine.execFabRefcntLowRead ch s
  | .errlogRead ch mem => Sys2Proof.Machine.execErrlogRead ch mem s
  | .rcCounterRead r => Sys2Proof.Machine.execRcCounterRead r s
  | .registerWrite fn bar4 offset wide v => Sys2Proof.Machine.execRegisterWrite fn bar4 offset wide v s
  | .noPathTimeout n => Sys2Proof.Machine.execNoPathTimeout n s
  | .perstNRise => Sys2Proof.Machine.execPerstNRise s
  | .malformed f full => Sys2Proof.Machine.execMalformed f full s

end Sys2Proof.Machine
end

