-- ==== Sys2Proof/Machine/Ticks.lean ====
section
/-! DEFINITION. Time (R13, R22, R419 to R425): while no command waits, the reference counters and the pace monitors run, and the occupancy
events of R423 are sampled. How long is open, a free value (notes/assumptions/10.md). -/

namespace Sys2Proof.Machine

/-! ## One counter (R421) -/

/-- A selector that counts an occupancy event (R420, R421). -/
def selOccupies (sel : Word) : Bool := sel.getLsbD 31 && decide (0x20 ≤ sel.toNat % 256) && decide (sel.toNat % 256 < 0x40)

/-- What `n` units add in which the occupancy is `occ`, and whether the condition holds in the last of them; `before` says whether it held
in the unit before the first (R421). -/
def sample (sel : Word) (before : Bool) (occ n : Nat) : Nat × Bool :=
  let o := Nat.min occ 511
  let thresh := sel.toNat / 2 ^ 8 % 512
  let cond := xor (decide (thresh ≤ o)) (sel.getLsbD 17)
  if n = 0 then (0, before)
  else if thresh = 0 && !sel.getLsbD 17 && !sel.getLsbD 18 then (n * o, cond)
  else if sel.getLsbD 18 then (if cond && !before then 1 else 0, cond)
  else (if cond then n else 0, cond)

/-- What the counters of one core, cluster or channel hold after a while: the counters, the conditions in the last unit, and the
counters that wrapped. -/
structure Sampled where
  pmc : Table DWord
  before : Byte
  wraps : List Nat
  deriving DecidableEq, Repr

/-- Counter `i` takes `n` units of its selector's event; an event that does not exist has no occupancy, and units that the filter leaves
out add nothing (R420, R422). -/
def Sampled.take (x : Sampled) (i : Nat) (sel : Word) (occ : Option Nat) (counts : Bool) (n : Nat) : Sampled :=
  match occ with
  | none => x
  | some o =>
    let r := sample sel (x.before.getLsbD i) o n
    let a := if counts && decide (r.1 ≠ 0) then addCounter x.pmc i r.1 else (x.pmc, false)
    { pmc := a.1, before := if r.2 then x.before ||| BitVec.ofNat 8 (2 ^ i) else x.before &&& ~~~BitVec.ofNat 8 (2 ^ i)
      wraps := if a.2 then x.wraps ++ [i] else x.wraps }

/-- The `count` counters whose selectors begin at number `first`. -/
def sampleAll (sels : Table Word) (first count n : Nat) (occ : Word → Option Nat) (counts : Word → Bool) (pmc : Table DWord) (before : Byte) :
    Sampled :=
  (List.range count).foldl (fun acc i =>
    let sel := tget 0 sels (first + i)
    if selOccupies sel then acc.take i sel (occ sel) (counts sel) n else acc) ⟨pmc, before, []⟩

/-- OVF bits of the counters that wrapped (R419). -/
def Sampled.ovf (x : Sampled) (w : Nat) : BitVec w := x.wraps.foldl (fun b i => b ||| BitVec.ofNat w (2 ^ i)) 0

/-! ## Occupancies (R423) -/

/-- The slots of a core with live groups. -/
def Core.liveSlots (c : Core) : List Nat := (List.range 16).filter fun i => (c.group i).live

/-- The occupancy of a core for a selector. A core is parked when none of its groups is ready (R11; notes/assumptions/4.md). -/
def State.coreOccupancy (s : State) (k : Nat) (sel : Word) : Option Nat :=
  let c := s.core k
  let ready := (c.liveSlots.filter fun i => s.readyAt k i).length
  match sel.toNat % 256 with
  | 0x20 => some 1
  | 0x21 => some (if ready = 0 then 1 else 0)
  | 0x22 => some c.liveSlots.length
  | 0x23 => some ready
  | 0x24 => some (Nat.min 32 c.stores.length)
  | 0x25 => some (Nat.min 64 c.loads.length)
  | 0x26 => some (Nat.min 8 c.quern.queue.length)
  | _ => none

/-- An entry of a class is counted by a selector of a cluster or a channel (R422). -/
def selTakes (sel : Word) (cls : Nat) : Bool := !selFilt sel || decide (selValue sel % 4 = cls)

/-- The occupancy of a cluster. -/
def Cluster.occupancy (c : Cluster) (sel : Word) : Option Nat :=
  match sel.toNat % 256 with
  | 0x20 => some 1
  | 0x21 => some (Nat.min 256 ((c.queue.filter fun d => selTakes sel d.cls.val).map fun d => d.lines.length).sum)
  | 0x22 => some (c.txns.filter fun t => selTakes sel t.cls.val).length
  | _ => none

/-- The occupancy of a channel: walks in flight, cores with a pending wake. -/
def State.chanOccupancy (s : State) (ch : Nat) (sel : Word) : Option Nat :=
  let c := s.chan ch
  match sel.toNat % 256 with
  | 0x20 => some 1
  | 0x21 => some (c.walks.filter fun w => w.inFlight && selTakes sel w.cls.val).length
  | 0x22 => some (((c.wakes.map fun w => w.core).eraseDups).filter fun k => selTakes sel (s.core k).cls).length
  | _ => none

/-! ## The counters of a channel (R419, R421) -/

/-- Counters that wrapped in a channel's cores, its clusters or itself. -/
def State.wrapAll (s : State) (ch first : Nat) (wraps : List Nat) : State :=
  wraps.foldl (fun acc i => acc.modChan ch fun c => c.wrapped (first + i)) s

/-- `n` cycles of the pace monitor at a core. -/
def State.sampleCore (s : State) (n k : Nat) : State :=
  let c := s.core k
  let ch := channelOfCore k
  let r := sampleAll (s.chan ch).sels 0 8 n (s.coreOccupancy k)
    (fun sel => !selFilt sel || c.liveBlocks.any fun b => decide (b.2.ctx.val = selValue sel)) c.pmc c.condBefore
  (s.modCore k fun c => { c with pmc := r.pmc, condBefore := r.before, ovf := c.ovf ||| r.ovf 8 }).wrapAll ch 0 r.wraps

/-- `n` cycles of the pace monitor at a cluster. -/
def State.sampleCluster (s : State) (n k : Nat) : State :=
  let c := s.cluster k
  let r := sampleAll (s.chan (k / 128)).sels 8 4 n c.occupancy (fun _ => true) c.pmc c.condBefore
  (s.modCluster k fun c => { c with pmc := r.pmc, condBefore := r.before, ovf := c.ovf ||| r.ovf 4 }).wrapAll (k / 128) 8 r.wraps

/-- `n` ticks of the reference counter at a channel. -/
def State.sampleChan (s : State) (n ch : Nat) : State :=
  let c := s.chan ch
  let r := sampleAll c.sels 12 8 n (s.chanOccupancy ch) (fun _ => true) c.chPmc c.condBefore
  (s.modChan ch fun c => { c with chPmc := r.pmc, condBefore := r.before }).wrapAll ch 12 r.wraps

/-- One of the selectors `first` to `first + count - 1` of a channel counts an occupancy event. -/
def Channel.samples (c : Channel) (first count : Nat) : Bool := (List.range count).any fun i => selOccupies (tget 0 c.sels (first + i))

/-- The cycles of a channel's pace monitors pass at its clusters and cores. -/
def State.passCycles (s : State) (ch n : Nat) : State :=
  let c := s.chan ch
  let s1 := if c.samples 8 4 then (List.range 128).foldl (fun acc i => acc.sampleCluster n (128 * ch + i)) s else s
  if c.samples 0 8 then (List.range 32768).foldl (fun acc i => acc.sampleCore n (32768 * ch + i)) s1 else s1

/-- Time passes on a channel that is out of reset: its reference counter runs on, unless its reference is lost, and so do its pace monitors,
unless a supply fault or a lost reference has stopped them; the counters that are not frozen sample (R17, R22, R26, R421, R425). -/
def State.pass (s : State) (ch : Nat) : State :=
  if !s.up ch then s
  else
    let ticks := s.takeFree
    let cycles := ticks.2.takeFree
    let c := s.chan ch
    let s1 := if c.refRunning then cycles.2.modChan ch fun c => { c with refcnt := satAdd c.refcnt ticks.1.toNat } else cycles.2
    if !c.counting then s1
    else
      let s2 := if c.refRunning && c.samples 12 8 then s1.sampleChan ticks.1.toNat ch else s1
      if c.issueStopped then s2 else s2.passCycles ch cycles.1.toNat

/-- Time passes, on every channel at its own rate (R23). -/
def State.tick (s : State) : State := (List.range 32).foldl State.pass s

end Sys2Proof.Machine
end

