-- ==== Sys2Proof/Safety.lean ====
section
/-! DEFINITION. The terms of the claims: canonical memory, runs that never stop, what an instruction of one group leaves alone and
writes, messages that have come, commands that start and end, records posted, requests answered. -/

namespace Sys2Proof.Machine


/-- The canonical form of the device's memory: rising addresses, no byte listed that an unlisted address reads as. -/
def Canonical (s : State) : Prop := Memory.wf s.mem = true

/-- `n` steps from `s` all answer a next state. -/
def RunsFor : Nat → State → Prop
  | 0, _ => True
  | n + 1, s => ∃ t, step s = .next t ∧ RunsFor n t

/-- A command completes: it answers a next state, and that state meets `p`. -/
def Completes (c : Instr) (s : State) (p : State → Prop) : Prop := ∃ t, exec c s = .next t ∧ p t

/-- The core differs at most in what the device counts as it issues (R10, R38, R419, R428), and in its groups. -/
def SameCore (c d : Core) : Prop :=
  ∃ pmc ovf hs rot last tg gs,
    d = { c with pmc := pmc, ovf := ovf, hs := hs, rotation := rot, lastIssued := last, tagged := tg, groups := gs }

/-- The channel differs at most in its reference counter and the state of its counters (R22, R419, R425). -/
def SameChannel (c d : Channel) : Prop :=
  ∃ ref ovf fz fr, d = { c with refcnt := ref, ovf := ovf, freeze := fz, frozen := fr }

/-- What an instruction that works in the registers of one group leaves alone: memory, caches, contexts, functions, launches, objects,
messages and the hub; every other group; of cores and channels all but what is counted (and the supply of free values). -/
def OnlyGroup (s t : State) (core slot : Nat) : Prop :=
  (t.mem = s.mem ∧ t.halves = s.halves ∧ t.upsets = s.upsets ∧ t.hostMem = s.hostMem ∧ t.lines = s.lines ∧ t.objs = s.objs)
    ∧ (t.launches = s.launches ∧ t.ctxs = s.ctxs ∧ t.fns = s.fns ∧ t.clusters = s.clusters)
    ∧ (t.msgs = s.msgs ∧ t.signals = s.signals ∧ t.hub = s.hub ∧ t.pending = s.pending ∧ t.tickets = s.tickets)
    ∧ (∀ k, SameCore (s.core k) (t.core k)) ∧ (∀ k, SameChannel (s.chan k) (t.chan k))
    ∧ (∀ k n, k ≠ core ∨ n ≠ slot → (t.core k).group n = (s.core k).group n)

/-- The registers of the group that an instruction does not write keep their words and tags: scalar registers outside `sd`, vector
registers outside `vd` and in lanes outside `m`, predicates outside `pd`. -/
def RegsKept (x y : Group) (sd vd : List Nat) (m : Mask) (pd : List Nat) : Prop :=
  (∀ r, r ∉ sd → y.sword r = x.sword r)
    ∧ (∀ r l, l < 16 → (r ∉ vd ∨ m.getLsbD l = false) → y.vword r l = x.vword r l)
    ∧ (∀ p, p ∉ pd → y.pmask p = x.pmask p)

/-- The destination of an instruction of classes 0x1 to 0x3 (R64, R68, R74): the registers it names. -/
def destRegs (w : DWord) : List Nat := (List.range (typeWords (fType w))).map fun k => fD w + k

/-- The value of the destination in a lane: of a word, zero-extended; of a pair, the 64 bits (R64). -/
def destVal (x : Group) (w : DWord) (lane : Nat) : DWord :=
  x.opVal (.reg (decide (fClass w = 1)) (fD w) (typeWords (fType w))) lane

/-- The lane's word of the destination carries a poison tag (R65). -/
def destPoison (x : Group) (w : DWord) (lane : Nat) : Bool :=
  (destRegs w).any fun r => if fClass w = 1 then (x.sword r).poison else (x.vword r lane).poison

/-- An instruction `c` of classes 0x1 to 0x3 whose shape is `f` completes wherever its group reaches its effect: in every lane of the
execution mask its destination holds `val`, untagged; FLAGS becomes `flags`; the group keeps every other register, predicate and lane,
and nothing else changes but what the fetch of the instruction does. -/
def WritesReg (c : GRef → DWord → Instr) (f : DWord → Form) (val : Issued → Nat → DWord)
    (flags : Issued → BitVec 3) : Prop :=
  ∀ (g : GRef) (w : DWord) (s : State), (f w).clear g w s = true →
    Completes (c g w) s fun t =>
      (∀ l, l < 16 → (s.issued g w).mask.getLsbD l = true →
        destVal (t.group g) w l = val (s.issued g w) l ∧ destPoison (t.group g) w l = false)
      ∧ (t.group g).flags = (s.group g).flags ||| flags (s.issued g w)
      ∧ RegsKept (s.group g) (t.group g) (if fClass w = 1 then destRegs w else [])
          (if fClass w = 1 then [] else destRegs w) (s.issued g w).mask []
      ∧ OnlyGroup (s.afterFetch (s.issued g w)) t (coreId g.core) g.slot.val

/-- An instruction whose shape is `f` completes wherever its group reaches its effect, relates the group before and after by `eff`, and
leaves the rest of the device as the fetch of the instruction left it. -/
def ActsOnGroup (c : GRef → DWord → Instr) (f : DWord → Form) (eff : Issued → Group → Group → Prop) : Prop :=
  ∀ (g : GRef) (w : DWord) (s : State), (f w).clear g w s = true →
    Completes (c g w) s fun t => eff (s.issued g w) (s.group g) (t.group g) ∧ OnlyGroup (s.afterFetch (s.issued g w)) t (coreId g.core) g.slot.val

/-- The registers, predicates and FLAGS of two groups agree. -/
def SameRegs (x y : Group) : Prop :=
  (∀ r, y.sword r = x.sword r) ∧ (∀ r l, y.vword r l = x.vword r l) ∧ (∀ p, y.pmask p = x.pmask p) ∧ y.flags = x.flags

/-- The nearest join entry of the group's stack does not lie at an address: a path that goes there has not ended (R45). -/
def noJoinAt (x : Group) (pc : DWord) : Prop := ∀ e, x.stack.find? (fun e => e.kind.isJoin) = some e → e.addr ≠ pc

/-- The group runs lanes `m` at `pc` with the stack `st`. -/
def RunsAt (y : Group) (pc : DWord) (m : Mask) (st : List StackEntry) : Prop :=
  y.pc = pc ∧ y.mask = m ∧ y.stack = st ∧ y.waiting = .no

/-- The group has come to `pc` with lanes `m` and the stack `st`, and goes on from there as R45 says: it runs on, or, at its nearest join or with no
lane left, takes its next path. -/
def Settles (y : Group) (pc : DWord) (m : Mask) (st : List StackEntry) : Prop :=
  ∃ z : Group, y = z.settle ∧ z.pc = pc ∧ z.mask = m ∧ z.stack = st

/-- An access of the group's instruction to global memory. -/
def accessOf (va : Nat) (write pref : Bool) : Access := ⟨BitVec.ofNat 64 va, write, false, false, pref⟩

/-- Every byte that the executing lanes name is translated (R260). -/
def allTranslated (i : Issued) (va : Nat → DWord) (n : Nat) (write pref : Bool) : Prop :=
  ∀ p ∈ i.virtualPieces va n, i.s.tlbHit (clusterOfCore i.core) i.blk.ctx.val (accessOf p.va write pref) ≠ none

/-- The pieces of the executing lanes' accesses at their physical addresses. -/
def physicalPieces (i : Issued) (va : Nat → DWord) (n : Nat) (write pref : Bool) : List Piece :=
  (i.virtualPieces va n).map fun p =>
    { p with pa := (i.s.tlbHit (clusterOfCore i.core) i.blk.ctx.val (accessOf p.va write pref)).getD 0 }

/-- A binary32 source of class 0x3 after the modifiers whose bits are `abs` and `neg` (R75): the absolute value first, then the
negation; form I and class 0x1 have none (R74, R452). -/
def signed32 (w : DWord) (abs neg : Nat) (x : Word) : Word :=
  let on (n : Nat) : Bool := decide (fClass w = 3) && !fFmt w && w.getLsbD n
  let y := if on abs then x &&& 0x7FFFFFFF else x
  if on neg then y ^^^ 0x80000000 else y

/-- The three binary32 sources of a lane: A, B, C (R75: X[17:13] holds NEGA, NEGB, NEGC, ABSA and ABSB). -/
def srcA (i : Issued) (l : Nat) : Word := signed32 i.w 14 17 ((i.a l).setWidth 32)
def srcB (i : Issued) (l : Nat) : Word := signed32 i.w 13 16 ((i.b l).setWidth 32)
def srcC (i : Issued) (l : Nat) : Word := (if decide (fClass i.w = 3) && !fFmt i.w && i.w.getLsbD 15 then
  ((i.c l).setWidth 32) ^^^ 0x80000000 else (i.c l).setWidth 32)

/-- The flags that the lanes of the execution mask raise together (R85). -/
def lanesFlags (i : Issued) (f : Nat → BitVec 3) : BitVec 3 := (lanesOf i.mask).foldl (fun a l => a ||| f l) 0

/-- A function of words and one of 64-bit values, on operands of a type: the result zero-extended (R64, R71). -/
def byWidth (t : Nat) (f : Word → Word → Word → Word) (h : DWord → DWord → DWord → DWord) (a b c : DWord) : DWord :=
  if typeWords t = 2 then h a b c else (f (a.setWidth 32) (b.setWidth 32) (c.setWidth 32)).setWidth 64

/-! ## Messages, commands, records, requests -/

/-- A coherence message of a kind has come to an agent: it travels on this device, or it comes from another node. -/
def Arrives (k : MsgKind) (dst : Agent) (m : Msg) (s : State) : Prop :=
  m.kind = k ∧ m.dst = dst ∧ (m ∈ s.msgs ∨ ∃ n, m.src = .node n)

/-- A message of a kind has come to the tracking slice of its line, on a channel that answers (R210, R447). -/
def AtSlice (k : MsgKind) (ch : Fin 32) (m : Msg) (s : State) : Prop :=
  Arrives k (.slice ch) m s ∧ lineChan m.line = ch.val ∧ s.answers ch.val m = true

/-- A request that has come to a slice may be served: no C0 request for another line goes first (R211), and its slice's set is not lost (R230). -/
def Servable (m : Msg) (s : State) : Prop := s.behindC0 m = false ∧ s.setLost m.line = false

/-- A slice's checks find nothing. -/
def noErrors : CacheFind := ⟨.ok, .ok⟩

/-- A message of a kind has come to a cluster whose channel is up. -/
def AtCluster (k : MsgKind) (c : Fin 4096) (m : Msg) (s : State) : Prop :=
  Arrives k (.cluster c) m s ∧ s.up (c.val / 128) = true

/-- A message of a kind has come to a core whose channel is up. -/
def AtCore (k : MsgKind) (c : Fin 1048576) (m : Msg) (s : State) : Prop :=
  Arrives k (.core c) m s ∧ s.up (channelOfCore c.val) = true

/-- The agent stands on this device, in the channel that tracks the line. -/
def Beside (l : LineAddr) (a : Agent) : Prop := agentChan l a = lineChan l ∧ ∀ n, a ≠ .node n

/-- A message of this kind, for this line, from and to these agents is on its way, where both stand in the line's channel: from and to other
channels and nodes messages go over Leat (R227, R273). -/
def Sent (t : State) (k : MsgKind) (l : LineAddr) (src dst : Agent) (p : Msg → Prop) : Prop :=
  Beside l src → Beside l dst → ∃ r ∈ t.msgs, r.kind = k ∧ r.line = l ∧ r.src = src ∧ r.dst = dst ∧ p r

/-- No request waits for the line, and its slice has asked for no line of its set. -/
def SetAtRest (s : State) (l : LineAddr) : Prop :=
  s.lineFree l = true ∧ (s.slice l).queue = [] ∧ ∀ x ∈ s.setOf l, x.2.ask = none

/-- The agent belongs to this device. -/
def Inside (a : Agent) : Prop := ∀ n, a ≠ .node n

/-- A command of an opcode waits at its stream and may start (R310). -/
def MayStart (c : CmdRef) (op : Byte) (x : Cmd) (s : State) : Prop :=
  s.cmdOf c (fun y => decide (y.opcode = op) && decide (y.stage = .accepted)) = some x ∧ s.mayStart c x = true

/-- The command has ended with STATUS and RESULT, and waits for its record to be posted (R312, R320). -/
def EndsWith (c : CmdRef) (x : Cmd) (v : Verdict) (t : State) : Prop :=
  ∃ y ∈ (t.stream c.fn.val (refCtx c) c.stream.val).cmds, y.stamp = x.stamp ∧ y.stage = .done ∧ y.status = v.1 ∧ y.result = v.2

/-- The command has started and goes on. -/
def GoesOn (c : CmdRef) (x : Cmd) (t : State) (p : Cmd → Prop) : Prop :=
  ∃ y ∈ (t.stream c.fn.val (refCtx c) c.stream.val).cmds, y.stamp = x.stamp ∧ y.stage = .started ∧ p y

/-- The byte of a line that a virtual address names through pinned pages, as an observer reads it. -/
def byteThrough (t : State) (pages : List Pin) (va : Nat) : Option Byte :=
  (pinned pages va).map fun pa => lineByte (t.newest (lineOfPa pa)).data (pa % 128)

/-- Every byte of the range lies in a line of this device that is in memory, is in no transaction, and is held by no other device. -/
def RangeAtRest (s : State) (pages : List Pin) (va n : Nat) : Prop :=
  ∀ i, i < n → ∃ pa, pinned pages (va + i) = some pa ∧ s.isLocal (lineOfPa pa) = true ∧ s.inMemory (lineOfPa pa) = true
    ∧ s.defersWrite (lineOfPa pa) = false

/-- The completion record is written at TAIL when the area is open and holds none back, else it is held; a re-posted one is dropped in place of
being held (R307, R322, R323). -/
def Posted (s t : State) (fn : Nat) (ctx : Option Nat) (c : Completion) : Prop :=
  let a := s.cqOf fn ctx
  let b := t.cqOf fn ctx
  b.head = a.head ∧
  if a.held = [] ∧ a.open (s.fnOf fn).busMaster = true then
    b.tail = a.tail + 1 ∧ b.held = []
      ∧ (a.virt = false → ∀ i v, (c.bytes a.phase)[i]? = some v → tget none t.hostMem (a.slot 16 + i) = some v)
  else b.tail = a.tail ∧ b.held = if c.dup then a.held else a.held ++ [c]

/-- The message of a vector goes out, is held while the function may not reach the host, or waits as pending (R325, R328). -/
def MessageSent (s t : State) (fn : Nat) (v : Fin 32) : Prop :=
  let x := tget Vec.reset (s.fnOf fn).vecs v.val
  (tget Vec.reset (t.fnOf fn).vecs v.val).posted = 0
    ∧ (tget Vec.reset (t.fnOf fn).vecs v.val).pending = x.masked
    ∧ (t.fnOf fn).heldMsgs = (s.fnOf fn).heldMsgs ++ (if x.masked || (s.fnOf fn).busMaster then [] else [v])
    ∧ t.hub.vecMsgs = s.hub.vecMsgs ++ (if x.masked || !(s.fnOf fn).busMaster then [] else [(fn, v.val)])

/-- Records held for an area go out in order while it has room (R323). -/
def Drained {α : Type} (a b : Area α) (busMaster : Bool) : Prop :=
  b.head = a.head ∧ ∃ n, n ≤ a.held.length ∧ b.held = a.held.drop n ∧ b.tail = a.tail + BitVec.ofNat 32 n
    ∧ (b.held = [] ∨ b.open busMaster = false)

/-- A request is answered with a status and value bytes (R364, R366, R383): the transmit queue takes one response, with a tag or without, or the mailbox's registers hold the answer and its GO is 0. -/
def Answered (s t : State) (r : EbReq) (tagged : Bool) (st : Byte) (v : List Byte) : Prop :=
  match r.src with
  | .bus a => ∃ (x : Answer) (tag : Option (BitVec 64)) (level : Nat),
      t.hub.transmit = s.hub.transmit ++ [t.hub.frame level a.val (EbRespPdu r x tag)] ∧ tag.isSome = tagged ∧ x.status = st ∧ x.value = v
  | .mailbox m =>
    let x := tget Mailbox.reset t.hub.mailboxes m.val
    x.go = false ∧ x.status.toNat % 256 = st.toNat ∧ x.len.toNat = v.length ∧ (∀ i b, v[i]? = some b → tget 0 x.data i = b)
      ∧ t.hub.transmit = s.hub.transmit

/-- The session of a request is open, proved and bound to its source (R374). -/
def SessionHolds (r : EbReq) (s : State) : Prop :=
  1 ≤ r.session.toNat ∧ r.session.toNat ≤ 8 ∧ (s.session r.session.toNat).source = some r.src ∧ (s.session r.session.toNat).proved = true

/-- The tag of a request is that of its session (R373). -/
def TagHolds (r : EbReq) (s : State) : Prop := pduTag (s.session r.session.toNat).key (reqBytes r) = r.tag

/-- A write of a whole value in one part, new in its session (R367, R369). -/
def WritesNow (r : EbReq) (s : State) : Prop :=
  s.asks r 0x02 = true ∧ r.auth = true ∧ SessionHolds r s ∧ TagHolds r s ∧ 1 ≤ (r.txn - (s.session r.session.toNat).h).toInt ∧ r.offset = 0 ∧ r.last = true

/-- A request is the write of a value to k of a channel, subindex `sub`. -/
def ForChannel (r : EbReq) (ch k sub : Nat) (v : List Byte) : Prop :=
  ch < 32 ∧ r.index.toNat = 0x4000 + 0x40 * ch + k ∧ r.sub.toNat = sub ∧ r.value = v

end Sys2Proof.Machine
end

