-- ==== Sys2Proof/Certificates/Slice0/Obligations.lean ====
section
/-! DEFINITION. The statements for the provers, family by family in the table's order: what each command does, where it completes, and what
it leaves alone. -/

open Sys2Proof Sys2Proof.Machine

/-- ADD, SUB, MUL, MULHI, MAD, MIN, MAX (R74). -/
def Obligations.IntegerArithmetic : Prop :=
  WritesReg .add (fun w => (aluForm 1 2 intTypes 0).byClass w)
      (fun i l => byWidth (fType i.w) (fun a b _ => a + b) (fun a b _ => a + b) (i.a l) (i.b l) (i.c l)) (fun _ => 0)
  ∧ WritesReg .sub (fun w => (aluForm 2 2 intTypes 0).byClass w)
      (fun i l => byWidth (fType i.w) (fun a b _ => a - b) (fun a b _ => a - b) (i.a l) (i.b l) (i.c l)) (fun _ => 0)
  ∧ WritesReg .mul (fun w => (aluForm 3 2 intTypes 0).byClass w)
      (fun i l => byWidth (fType i.w) (fun a b _ => a * b) (fun a b _ => a * b) (i.a l) (i.b l) (i.c l)) (fun _ => 0)
  ∧ WritesReg .mulhi (fun w => (aluForm 4 2 [0, 1] 0).byClass w)
      (fun i l =>
        let a : Word := (i.a l).setWidth 32
        let b : Word := (i.b l).setWidth 32
        let p : DWord := if fType i.w = 1 then a.signExtend 64 * b.signExtend 64 else a.setWidth 64 * b.setWidth 64
        p >>> 32) (fun _ => 0)
  ∧ WritesReg .mad (fun w => (aluForm 5 3 intTypes 0).byClass w)
      (fun i l => byWidth (fType i.w) (fun a b c => a * b + c) (fun a b c => a * b + c) (i.a l) (i.b l) (i.c l)) (fun _ => 0)
  ∧ WritesReg .min (fun w => (aluForm 6 2 intTypes 0).byClass w)
      (fun i l => byWidth (fType i.w) (fun a b _ => if (if fType i.w = 1 then a.sle b else a.ule b) then a else b)
        (fun a b _ => if (if fType i.w = 3 then a.sle b else a.ule b) then a else b) (i.a l) (i.b l) (i.c l)) (fun _ => 0)
  ∧ WritesReg .max (fun w => (aluForm 7 2 intTypes 0).byClass w)
      (fun i l => byWidth (fType i.w) (fun a b _ => if (if fType i.w = 1 then a.sle b else a.ule b) then b else a)
        (fun a b _ => if (if fType i.w = 3 then a.sle b else a.ule b) then b else a) (i.a l) (i.b l) (i.c l)) (fun _ => 0)

/-- AND, OR, XOR, SHL, SHR, SAR (R74). MOV, SEL, POPC, CLZ (R74, R452). -/
def Obligations.LogicShiftsAndMoves : Prop :=
  (
    WritesReg .and (fun w => (aluForm 8 2 intTypes 0).byClass w)
        (fun i l => byWidth (fType i.w) (fun a b _ => a &&& b) (fun a b _ => a &&& b) (i.a l) (i.b l) (i.c l)) (fun _ => 0)
    ∧ WritesReg .or (fun w => (aluForm 9 2 intTypes 0).byClass w)
        (fun i l => byWidth (fType i.w) (fun a b _ => a ||| b) (fun a b _ => a ||| b) (i.a l) (i.b l) (i.c l)) (fun _ => 0)
    ∧ WritesReg .xor (fun w => (aluForm 10 2 intTypes 0).byClass w)
        (fun i l => byWidth (fType i.w) (fun a b _ => a ^^^ b) (fun a b _ => a ^^^ b) (i.a l) (i.b l) (i.c l)) (fun _ => 0)
    ∧ WritesReg .shl (fun w => (aluForm 11 2 intTypes 0).byClass w)
        (fun i l => byWidth (fType i.w) (fun a b _ => a <<< (b.toNat % 32)) (fun a b _ => a <<< (b.toNat % 64))
          (i.a l) (i.b l) (i.c l)) (fun _ => 0)
    ∧ WritesReg .shr (fun w => (aluForm 12 2 intTypes 0).byClass w)
        (fun i l => byWidth (fType i.w) (fun a b _ => a >>> (b.toNat % 32)) (fun a b _ => a >>> (b.toNat % 64))
          (i.a l) (i.b l) (i.c l)) (fun _ => 0)
    ∧ WritesReg .sar (fun w => (aluForm 13 2 intTypes 0).byClass w)
        (fun i l => byWidth (fType i.w) (fun a b _ => a.sshiftRight (b.toNat % 32)) (fun a b _ => a.sshiftRight (b.toNat % 64))
          (i.a l) (i.b l) (i.c l)) (fun _ => 0)
  )
  ∧ (
    WritesReg .mov movForm
        (fun i l => if fFmt i.w then
            (if fType i.w = 3 then (fImm i.w).signExtend 64 else (fImm i.w).setWidth 64)
          else i.a l) (fun _ => 0)
    ∧ WritesReg .sel selForm
        (fun i l =>
          if (i.grp.pmask (if fFmt i.w then 0 else fieldOf i.w 17 15)).getLsbD (if fClass i.w = 1 then lowLane i.mask else l)
          then i.a l else i.b l) (fun _ => 0)
    ∧ WritesReg .popc (fun w => (aluForm 15 1 [0, 2] 0).byClass w)
        (fun i l => BitVec.ofNat 64 (popcount (i.a l))) (fun _ => 0)
    ∧ WritesReg .clz (fun w => (aluForm 16 1 [0, 2] 0).byClass w)
        (fun i l => BitVec.ofNat 64 (if fType i.w = 2 then (if i.a l = 0 then 64 else 63 - Nat.log2 (i.a l).toNat)
          else if i.a l = 0 then 32 else 31 - Nat.log2 (i.a l).toNat)) (fun _ => 0)
  )

/-- FADD, FSUB, FMUL, FFMA, FMIN, FMAX and HZADD (R74, R75). -/
def Obligations.FloatArithmetic : Prop :=
  WritesReg .fadd (floatForm [(1, 32), (3, 1)] 2)
      (fun i l => (f32Add i.blk.flush (srcA i l) (srcB i l)).1.setWidth 64)
      (fun i => lanesFlags i fun l => (f32Add i.blk.flush (srcA i l) (srcB i l)).2)
  ∧ WritesReg .fsub (floatForm [(3, 2)] 2)
      (fun i l => (f32Sub i.blk.flush (srcA i l) (srcB i l)).1.setWidth 64)
      (fun i => lanesFlags i fun l => (f32Sub i.blk.flush (srcA i l) (srcB i l)).2)
  ∧ WritesReg .fmul (floatForm [(1, 33), (3, 3)] 2)
      (fun i l => (f32Mul i.blk.flush (srcA i l) (srcB i l)).1.setWidth 64)
      (fun i => lanesFlags i fun l => (f32Mul i.blk.flush (srcA i l) (srcB i l)).2)
  ∧ WritesReg .ffma (floatForm [(1, 34), (3, 4)] 3)
      (fun i l => (f32Fma i.blk.flush (srcA i l) (srcB i l) (srcC i l)).1.setWidth 64)
      (fun i => lanesFlags i fun l => (f32Fma i.blk.flush (srcA i l) (srcB i l) (srcC i l)).2)
  ∧ WritesReg .fmin (floatForm [(3, 5)] 2)
      (fun i l => (f32MinMax i.blk.flush false (srcA i l) (srcB i l)).1.setWidth 64)
      (fun i => lanesFlags i fun l => (f32MinMax i.blk.flush false (srcA i l) (srcB i l)).2)
  ∧ WritesReg .fmax (floatForm [(3, 6)] 2)
      (fun i l => (f32MinMax i.blk.flush true (srcA i l) (srcB i l)).1.setWidth 64)
      (fun i => lanesFlags i fun l => (f32MinMax i.blk.flush true (srcA i l) (srcB i l)).2)
  ∧ WritesReg .hzadd hzaddForm
      (fun i l =>
        let r := hzAdd i.blk.flush (srcA i l) ((i.a l).extractLsb' 32 8) (signed32 i.w 13 16 (i.grp.opWord (opndB i.w 1) l 0))
        (r.2.1.setWidth 32 : Word) ++ r.1)
      (fun i => lanesFlags i fun l =>
        (hzAdd i.blk.flush (srcA i l) ((i.a l).extractLsb' 32 8) (signed32 i.w 13 16 (i.grp.opWord (opndB i.w 1) l 0))).2.2)

/-- FRCP, FRSQ, FSQRT, FEXP2 and FLOG2 (R75) complete: each lane's result is one of those that the function of the row gives for the lane's source,
which one being a free value (notes/assumptions/2.md), and carries no tag; FLAGS takes what the lanes' results raise; lanes outside the execution mask
and every other register keep their words. A source that is a NaN, an infinity or a zero, and a negative normal one or −∞ of FRSQ, FSQRT and FLOG2,
has its IEEE default result (R75). -/
def Obligations.FloatFunctions : Prop :=
  let within (f : Bool → Nat → Word → FResult) (i : Issued) (x y : Group) : Prop :=
    ∃ k : Nat → Nat,
      (∀ l, l < 16 → i.mask.getLsbD l = true →
        destVal y i.w l = (f i.blk.flush (k l) (srcA i l)).1.setWidth 64 ∧ destPoison y i.w l = false)
      ∧ y.flags = x.flags ||| (lanesFlags i fun l => (f i.blk.flush (k l) (srcA i l)).2)
      ∧ RegsKept x y [] (destRegs i.w) i.mask []
  ActsOnGroup .frcp (floatForm [(3, 7)] 1) (within f32Rcp)
  ∧ ActsOnGroup .frsq (floatForm [(3, 8)] 1) (within f32Rsq)
  ∧ ActsOnGroup .fsqrt (floatForm [(3, 9)] 1) (within f32Sqrt)
  ∧ ActsOnGroup .fexp2 (floatForm [(3, 10)] 1) (within f32Exp2)
  ∧ ActsOnGroup .flog2 (floatForm [(3, 11)] 1) (within f32Log2)
  ∧ ∀ (fl : Bool) (k : Nat) (a : Word),
      (isNaN32 a = true → (f32Rcp fl k a).1 = 0x7FC00000 ∧ (f32Rsq fl k a).1 = 0x7FC00000 ∧ (f32Sqrt fl k a).1 = 0x7FC00000
        ∧ (f32Exp2 fl k a).1 = 0x7FC00000 ∧ (f32Log2 fl k a).1 = 0x7FC00000)
      ∧ ((f32Rcp fl k 0).1 = 0x7F800000 ∧ (f32Rcp fl k 0x80000000).1 = 0xFF800000 ∧ (f32Rcp fl k 0x7F800000).1 = 0
        ∧ (f32Rcp fl k 0xFF800000).1 = 0x80000000)
      ∧ ((f32Rsq fl k 0).1 = 0x7F800000 ∧ (f32Rsq fl k 0x80000000).1 = 0xFF800000 ∧ (f32Rsq fl k 0x7F800000).1 = 0)
      ∧ ((f32Sqrt fl k 0).1 = 0 ∧ (f32Sqrt fl k 0x80000000).1 = 0x80000000 ∧ (f32Sqrt fl k 0x7F800000).1 = 0x7F800000)
      ∧ ((f32Exp2 fl k 0).1 = 0x3F800000 ∧ (f32Exp2 fl k 0x80000000).1 = 0x3F800000 ∧ (f32Exp2 fl k 0x7F800000).1 = 0x7F800000
        ∧ (f32Exp2 fl k 0xFF800000).1 = 0)
      ∧ ((f32Log2 fl k 0).1 = 0xFF800000 ∧ (f32Log2 fl k 0x80000000).1 = 0xFF800000 ∧ (f32Log2 fl k 0x7F800000).1 = 0x7F800000)
      ∧ (0xFF800000 ≤ a.toNat ∨ (0x80800000 ≤ a.toNat ∧ a.toNat < 0xFF800000) →
          (f32Rsq fl k a).1 = 0x7FC00000 ∧ (f32Sqrt fl k a).1 = 0x7FC00000 ∧ (f32Log2 fl k a).1 = 0x7FC00000)

/-- Every NaN that a binary32 or HAZEL40 operation produces is the canonical NaN (R75). -/
def Obligations.CanonicalNaN : Prop :=
  ∀ (fl m : Bool) (k : Nat) (a b c : Word) (x : Byte),
    (isNaN32 (f32Add fl a b).1 = true → (f32Add fl a b).1 = 0x7FC00000)
    ∧ (isNaN32 (f32Sub fl a b).1 = true → (f32Sub fl a b).1 = 0x7FC00000)
    ∧ (isNaN32 (f32Mul fl a b).1 = true → (f32Mul fl a b).1 = 0x7FC00000)
    ∧ (isNaN32 (f32Fma fl a b c).1 = true → (f32Fma fl a b c).1 = 0x7FC00000)
    ∧ (isNaN32 (f32MinMax fl m a b).1 = true → (f32MinMax fl m a b).1 = 0x7FC00000)
    ∧ (isNaN32 (f32Rcp fl k a).1 = true → (f32Rcp fl k a).1 = 0x7FC00000)
    ∧ (isNaN32 (f32Rsq fl k a).1 = true → (f32Rsq fl k a).1 = 0x7FC00000)
    ∧ (isNaN32 (f32Sqrt fl k a).1 = true → (f32Sqrt fl k a).1 = 0x7FC00000)
    ∧ (isNaN32 (f32Exp2 fl k a).1 = true → (f32Exp2 fl k a).1 = 0x7FC00000)
    ∧ (isNaN32 (f32Log2 fl k a).1 = true → (f32Log2 fl k a).1 = 0x7FC00000)
    ∧ (isNaN32 (hzAdd fl a x b).1 = true → (hzAdd fl a x b).1 = 0x7FC00000 ∧ (hzAdd fl a x b).2.1 = 0)

/-- CVT (R71, R76, R140): the converted value goes into the destination, or, in a packed type, into its element EL, and the others stay. -/
def Obligations.Conversion : Prop :=
  ∀ (g : GRef) (w : DWord) (s : State) (st dt : ElTy),
    ElTy.ofCode (BitVec.ofNat 4 (fieldOf w 17 14)) = some st → ElTy.ofCode (BitVec.ofNat 4 (fType w)) = some dt →
    cvtForm.clear g w s = true →
    Completes (.cvt g w) s fun t =>
      let i := s.issued g w
      let el := fieldOf w 13 11
      let sat := if fieldOf w 10 9 = 0 then !i.blk.satNaR else decide (fieldOf w 10 9 = 1)
      let scale (l : Nat) : Option Byte := if w.getLsbD 8 then some ((i.grp.opVal (opndB w 1) l).setWidth 8) else none
      let source (l : Nat) : DWord :=
        let x := i.grp.opVal (opndA w (typeWords (fieldOf w 17 14))) l
        if st.isShort then BitVec.ofNat 64 (getElem_ st (x.setWidth 32) el) else x
      let r (l : Nat) := cvtValue st dt i.blk.flush sat (scale l) (source l)
      (∀ l, l < 16 → i.mask.getLsbD l = true →
        ((t.group g).vword (fD w) l).poison = false
        ∧ (if dt.isShort then
            (∀ k, k < dt.perWord → getElem_ dt ((t.group g).vword (fD w) l).val k
              = if k = el then (r l).1.toNat % 2 ^ dt.width else getElem_ dt (i.grp.vword (fD w) l).val k)
          else destVal (t.group g) w l = if dt.isPair then (r l).1 else ((r l).1.setWidth 32).setWidth 64))
      ∧ (t.group g).flags = i.grp.flags ||| (lanesFlags i fun l => (r l).2)
      ∧ RegsKept i.grp (t.group g) [] (destRegs w) i.mask []
      ∧ OnlyGroup (s.afterFetch i) t (coreId g.core) g.slot.val

/-- CMP, PLOP, PTOS, STOP, PCNT (R68, R77, R452). SHFL and RDLANE (R65, R77, R452): the word moves with its tag. -/
def Obligations.PredicatesAndLanes : Prop :=
  (
    ActsOnGroup .cmp (fun _ => cmpForm)
        (fun i x y =>
          let cond := if fFmt i.w then 0 else fieldOf i.w 17 15
          let holds (l : Nat) : Bool :=
            if fType i.w = 4 then
              let a : Word := (i.a l).setWidth 32
              let b : Word := (i.b l).setWidth 32
              let u := isNaN32 a || isNaN32 b
              let lt := !u && (dec32 false a).1.lt (dec32 false b).1
              let gt := !u && (dec32 false b).1.lt (dec32 false a).1
              [!u && !lt && !gt, u || lt || gt, lt, !u && !gt, gt, !u && !lt, !u, u].getD cond false
            else
              let a := asInt (fType i.w) (i.a l)
              let b := asInt (fType i.w) (i.b l)
              [decide (a = b), decide (a ≠ b), decide (a < b), decide (a ≤ b), decide (b < a), decide (b ≤ a)].getD cond false
          (∀ l, l < 16 → (y.pmask (fD i.w)).getLsbD l
            = if i.mask.getLsbD l then holds l else (x.pmask (fD i.w)).getLsbD l)
          ∧ y.flags = x.flags ∧ RegsKept x y [] [] 0 [fD i.w])
    ∧ ActsOnGroup .plop (fun _ => plopForm)
        (fun i x y =>
          (∀ l, l < 16 → (y.pmask (fD i.w)).getLsbD l
            = (!fFmt i.w && i.w.getLsbD (14 + (if (x.pmask (fA i.w)).getLsbD l then 2 else 0)
                + (if (x.pmask (fB i.w)).getLsbD l then 1 else 0))))
          ∧ y.flags = x.flags ∧ RegsKept x y [] [] 0 [fD i.w])
    ∧ ActsOnGroup .ptos (fun _ => ptosForm)
        (fun i x y => y.sword (fD i.w) = ⟨(x.pmask (fA i.w) &&& i.mask).setWidth 32, false⟩
          ∧ y.flags = x.flags ∧ RegsKept x y [fD i.w] [] 0 [])
    ∧ ActsOnGroup .stop (fun _ => stopForm)
        (fun i x y => y.pmask (fD i.w) = (x.sword (fA i.w)).val.setWidth 16
          ∧ y.flags = x.flags ∧ RegsKept x y [] [] 0 [fD i.w])
    ∧ ActsOnGroup .pcnt (fun _ => pcntForm)
        (fun i x y => (y.sword (fD i.w)).val.toNat = popcount (x.pmask (fA i.w) &&& i.mask)
          ∧ (y.sword (fD i.w)).poison = false ∧ y.flags = x.flags ∧ RegsKept x y [fD i.w] [] 0 [])
  )
  ∧ (
    ActsOnGroup .shfl (fun _ => shflForm)
        (fun i x y =>
          let mode := if fFmt i.w then 0 else fieldOf i.w 17 16
          let b (l : Nat) : Nat := (i.grp.opWord (opndB i.w 1) l 0).toNat
          (∀ l, l < 16 → i.mask.getLsbD l = true → y.vword (fD i.w) l =
            if mode = 0 then x.vword (fA i.w) (b l % 16)
            else if mode = 1 then (if b l ≤ l then x.vword (fA i.w) (l - b l) else x.vword (fD i.w) l)
            else if mode = 2 then (if l + b l < 16 then x.vword (fA i.w) (l + b l) else x.vword (fD i.w) l)
            else x.vword (fA i.w) (l ^^^ (b l % 16)))
          ∧ y.flags = x.flags ∧ RegsKept x y [] [fD i.w] i.mask [])
    ∧ ActsOnGroup .rdlane (fun _ => rdlaneForm)
        (fun i x y =>
          (∀ l, i.mask.getLsbD l = true → (∀ k, k < l → i.mask.getLsbD k = false) →
            y.sword (fD i.w) = x.vword (fA i.w) (if fFmt i.w then (fImm i.w).toNat % 16 else l))
          ∧ y.flags = x.flags ∧ RegsKept x y [fD i.w] [] 0 [])
  )

/-- NOP, JMPL and JMPR (R73): the whole group goes on at the next instruction, at the target, at the address held; JMPL leaves the next instruction's
address in s(D), s(D+1). BRA (R44): where the active lanes agree the stack does not change; where they disagree a join and a deferred entry are pushed,
and the group takes the taken lanes to the target. BRX (R44): where the active lanes name one target the group goes there; where they name more it
takes the lanes that name the target of the lowest active lane there, above the join and one deferred entry for each other target, in the order of the
lowest lane that names it. From where it has come the group goes on as R45 says; unless it has come to its nearest join, it runs there. -/
def Obligations.JumpsAndBranches : Prop :=
  let goes (x y : Group) (pc : DWord) : Prop := Settles y pc x.mask x.stack ∧ (noJoinAt x pc → RunsAt y pc x.mask x.stack)
  (
    ActsOnGroup .nop (fun _ => nopForm) (fun _ x y => SameRegs x y ∧ goes x y (x.pc + 8))
    ∧ ActsOnGroup .jmpl (fun _ => jmplForm) (fun i x y =>
      ((y.sword (fD i.w + 1)).val ++ (y.sword (fD i.w)).val : DWord) = x.pc + 8
        ∧ y.flags = x.flags ∧ RegsKept x y [fD i.w, fD i.w + 1] [] 0 []
        ∧ goes x y (x.pc + (i.w.extractLsb' 16 16).signExtend 64 * 8))
    ∧ ActsOnGroup .jmpr (fun _ => jmprForm) (fun i x y =>
      SameRegs x y ∧ goes x y ((x.sword (fA i.w + 1)).val ++ (x.sword (fA i.w)).val : DWord))
  )
  ∧ (
    ActsOnGroup .bra (fun _ => braForm) (fun i x y =>
      let target := x.pc + (i.w.extractLsb' 16 16).signExtend 64 * 8
      let join := x.pc + (i.w.extractLsb' 0 16).signExtend 64 * 8
      let taken := i.mask
      let rest := x.mask &&& ~~~taken
      let split : List StackEntry := ⟨.deferred, x.pc + 8, rest⟩ :: ⟨.join, join, x.mask⟩ :: x.stack
      SameRegs x y
        ∧ (taken = 0 → goes x y (x.pc + 8))
        ∧ (taken ≠ 0 → rest = 0 → goes x y target)
        ∧ (taken ≠ 0 → rest ≠ 0 → Settles y target taken split ∧ (join ≠ target → RunsAt y target taken split)))
    ∧ ActsOnGroup .brx (fun _ => brxForm) (fun i x y =>
      let join := x.pc + (i.w.extractLsb' 0 16).signExtend 64 * 8
      let names (l : Nat) : DWord :=
        if i.mask.getLsbD l then (x.vword (fA i.w + 1) l).val ++ (x.vword (fA i.w) l).val else x.pc + 8
      SameRegs x y
        ∧ (∀ target, (∀ l, l < 16 → x.mask.getLsbD l = true → names l = target) → goes x y target)
        ∧ (∀ first, x.mask.getLsbD first = true → (∀ k, k < first → x.mask.getLsbD k = false) →
          (∃ l, l < 16 ∧ x.mask.getLsbD l = true ∧ names l ≠ names first) →
          ∃ (m : Mask) (others : List StackEntry),
            let split : List StackEntry := others ++ ⟨.join, join, x.mask⟩ :: x.stack
            (∀ l, l < 16 → m.getLsbD l = (x.mask.getLsbD l && decide (names l = names first)))
              ∧ (∀ e ∈ others, e.kind = .deferred ∧ e.mask ≠ 0 ∧ e.addr ≠ names first
                  ∧ ∀ l, l < 16 → e.mask.getLsbD l = (x.mask.getLsbD l && decide (names l = e.addr)))
              ∧ (others.Pairwise fun e f => ∃ l, e.mask.getLsbD l = true ∧ ∀ h, f.mask.getLsbD h = true → l < h)
              ∧ (∀ l, l < 16 → x.mask.getLsbD l = true → names l = names first ∨ ∃ e ∈ others, e.addr = names l)
              ∧ Settles y (names first) m split ∧ (join ≠ names first → RunsAt y (names first) m split)))
  )

/-- When the running path reaches its join, the topmost entry above it that is deferred or has been woken is taken, and runs unless it stands at the
join itself; when no entry remains above the join, the group pops it and continues with the join's mask at the reconvergence address, unless the next
join lies there too (R45). A NOP before the join shows both. EXIT (R45): the lanes of the execution mask leave the running mask and every mask of the
stack, and entries whose masks become empty go; lanes that remain in the running path go on behind it, where no entry of the stack stands; with the
last lane the group ends: its slot holds no live group. -/
def Obligations.ReconvergenceAndExit : Prop :=
  (
    ∀ (g : GRef) (w : DWord) (s : State), nopForm.clear g w s = true →
      let x := s.group g
      (∀ (pre post st : List StackEntry) (e : StackEntry) (j : DWord) (k : Mask), (∀ y ∈ pre ++ post, y.kind.isJoin = false) →
        (∀ y ∈ pre, y.kind.runsFirst = false) → e.kind.runsFirst = true → e.mask ≠ 0 → j = x.pc + 8 → e.addr ≠ j →
        x.stack = pre ++ e :: (post ++ ⟨.join, j, k⟩ :: st) →
        Completes (.nop g w) s fun t => RunsAt (t.group g) e.addr e.mask (pre ++ (post ++ ⟨.join, j, k⟩ :: st)))
      ∧ (∀ (j : DWord) (k : Mask) (st : List StackEntry), k ≠ 0 → j = x.pc + 8 → x.stack = ⟨.join, j, k⟩ :: st →
        (∀ e, st.find? (fun e => e.kind.isJoin) = some e → e.addr ≠ j) →
        Completes (.nop g w) s fun t => RunsAt (t.group g) j k st)
  )
  ∧ (
    ∀ (g : GRef) (w : DWord) (s : State), exitForm.clear g w s = true →
      let x := s.group g
      let i := s.issued g w
      (x.lanesLeft &&& ~~~i.mask ≠ 0 →
        Completes (.exit g w) s fun t =>
          (t.group g).live = x.live ∧ SameRegs x (t.group g)
            ∧ (t.group g).mask &&& i.mask = 0
            ∧ (∀ e ∈ (t.group g).stack, e.mask &&& i.mask = 0 ∧ e.mask ≠ 0)
            ∧ (x.mask &&& ~~~i.mask ≠ 0 → (∀ e ∈ x.stack, e.addr ≠ x.pc + 8) →
              (t.group g).pc = x.pc + 8 ∧ (t.group g).mask = x.mask &&& ~~~i.mask)
            ∧ OnlyGroup (s.afterFetch i) t (coreId g.core) g.slot.val)
      ∧ (x.lanesLeft &&& ~~~i.mask = 0 → Completes (.exit g w) s fun t => (t.group g).live = false)
  )

/-- ILLEGAL, every undefined word, and TRAP with lanes to execute it raise their exceptions (R67, R89): the group stops at the instruction with the
code, its address, the lanes and the detail, and keeps its registers, its lanes and its stack. Whatever its row, an instruction whose encoding, type or
registers R67 does not allow raises ILLEGAL_INSTRUCTION, with the lanes of the execution mask and instruction bits [63:32] as detail, whatever else
holds of its operands (R67, R89, R91). An instruction of any row whose fetch is poisoned raises POISON with all ones as detail, unless it is illegal
(R91, R261). A poisoned word among those that a legal instruction consumes raises POISON at the instruction, and no register changes (R90, R91). -/
def Obligations.TrapsAndFaults : Prop :=
  (
    ∀ (g : GRef) (w : DWord) (s : State),
      let x := s.group g
      let i := s.issued g w
      let stops (c : Instr) (e : Exc) : Prop :=
        Completes c s fun t => (t.group g).waiting = .stopped e ∧ (t.group g).pc = x.pc ∧ (t.group g).live = x.live
          ∧ SameRegs x (t.group g) ∧ (t.group g).mask = x.mask ∧ (t.group g).stack = x.stack
      (decodeDrarak g w = .illegal g w →
        (Form.plain [(fClass w, fOp w)] (fun _ _ => false) false).issues g w s = true →
        stops (.illegal g w) ⟨0x01, x.pc, i.mask, w >>> 32⟩)
      ∧ (trapForm.issues g w s = true → trapForm.valid i.blk w = true → g.ecc = .ok → i.mask ≠ 0 →
        stops (.trap g w) ⟨0x0A, x.pc, i.mask, (w.extractLsb' 0 16).setWidth 64⟩)
  )
  ∧ (
    ∀ (f : Form) (g : GRef) (w : DWord) (s : State) (run : Issued → Out),
      f.issues g w s = true → f.valid (s.blockOf g) w = false →
      ∃ t, f.issue g w s run = .next t ∧ (t.group g).pc = (s.group g).pc
        ∧ (t.group g).waiting = .stopped ⟨0x01, (s.group g).pc, (s.issued g w).mask, w >>> 32⟩
  )
  ∧ (
    ∀ (f : Form) (g : GRef) (w : DWord) (s : State) (run : Issued → Out) (d : DWord),
      f.issues g w s = true → f.valid (s.blockOf g) w = true → (f.uniform = true → (s.issued g w).mask ≠ 0) → g.ecc = .ok →
      (s.group g).firstPoison (f.srcs { s.issued g w with s := s.atIssue (s.issued g w) }) = some d →
      ∃ t, f.issue g w s run = .next t ∧ SameRegs (s.group g) (t.group g)
        ∧ (t.group g).waiting = .stopped ⟨0x09, (s.group g).pc, d.setWidth 16, d⟩
  )
  ∧ (
    ∀ (f : Form) (g : GRef) (w : DWord) (s : State) (run : Issued → Out),
      (fClass w, fOp w) ∈ f.encs → s.mayIssue g = true → (s.fetched (s.issued g w)).map Prod.fst = some true →
      ∃ t, f.issue g w s run = .next t ∧ SameRegs (s.group g) (t.group g)
        ∧ (t.group g).waiting = .stopped (if f.valid (s.blockOf g) w then ⟨0x09, (s.group g).pc, 0xFFFF, 0xFFFFFFFF⟩
            else ⟨0x01, (s.group g).pc, (s.issued g w).mask, w >>> 32⟩)
  )

/-- GETSR, GETTID and CLRFLAGS (R3, R85): the system register that IMM[7:0] numbers, each lane's thread identifier, FLAGS without the bits of
IMM[2:0]. GETSR64 (R22, R24, R85, R424) leaves s(D), s(D+1) untagged: REFCNT never reads below what the channel's counter stood at when the
instruction issued, and a read of PMCn is 0 unless the counter is opened to users and its selector filters the context itself. -/
def Obligations.SystemRegisters : Prop :=
  (
    ActsOnGroup .getsr (fun _ => getsrForm) (fun i x y =>
      (y.sword (fD i.w)).poison = false
        ∧ ((fImm i.w).toNat % 256 = 0 → (y.sword (fD i.w)).val = BitVec.ofNat 32 (16 * x.ident))
        ∧ ((fImm i.w).toNat % 256 = 1 → (y.sword (fD i.w)).val = BitVec.ofNat 32 (x.ident / 16))
        ∧ ((fImm i.w).toNat % 256 = 2 → (y.sword (fD i.w)).val = BitVec.ofNat 32 i.s.hub.node.val)
        ∧ ((fImm i.w).toNat % 256 = 3 → (y.sword (fD i.w)).val = BitVec.ofNat 32 i.blk.ctx.val)
        ∧ ((fImm i.w).toNat % 256 = 4 → (y.sword (fD i.w)).val = BitVec.ofNat 32 (i.s.ctx i.blk.ctx.val).fn.val)
        ∧ ((fImm i.w).toNat % 256 = 5 → ((y.sword (fD i.w)).val.getLsbD 0 = i.blk.flush ∧ (y.sword (fD i.w)).val.getLsbD 1 = i.blk.satNaR
            ∧ (y.sword (fD i.w)).val.getLsbD 2 = i.blk.plane ∧ (y.sword (fD i.w)).val.toNat < 8))
        ∧ ((fImm i.w).toNat % 256 = 6 → (y.sword (fD i.w)).val = x.flags.setWidth 32)
        ∧ y.flags = x.flags ∧ RegsKept x y [fD i.w] [] 0 [])
    ∧ ActsOnGroup .gettid (fun _ => gettidForm) (fun i x y =>
      (∀ l, l < 16 → i.mask.getLsbD l = true → y.vword (fD i.w) l = ⟨BitVec.ofNat 32 (16 * x.ident + l), false⟩)
        ∧ y.flags = x.flags ∧ RegsKept x y [] [fD i.w] i.mask [])
    ∧ ActsOnGroup .clrflags (fun _ => clrflagsForm) (fun i x y =>
      y.flags = x.flags &&& ~~~((fImm i.w).setWidth 3) ∧ RegsKept x y [] [] 0 [])
  )
  ∧ (
    ∀ lag : Fin 5, ActsOnGroup (fun g w => .getsr64 g w lag) (fun _ => getsr64Form) (fun i x y =>
      let v : DWord := (y.sword (fD i.w + 1)).val ++ (y.sword (fD i.w)).val
      let n := (fImm i.w).toNat % 256
      ((y.sword (fD i.w)).poison = false ∧ (y.sword (fD i.w + 1)).poison = false)
        ∧ (n = 0x10 → (i.s.chan i.ch).refcnt.toNat ≤ v.toNat)
        ∧ (0x20 ≤ n → v = 0 ∨ ((i.s.chan i.ch).pmcUser.getLsbD (n - 0x20) = true
            ∧ selFilt (tget 0 (i.s.chan i.ch).sels (n - 0x20)) = true
            ∧ selValue (tget 0 (i.s.chan i.ch).sels (n - 0x20)) = i.blk.ctx.val))
        ∧ y.flags = x.flags ∧ RegsKept x y [fD i.w, fD i.w + 1] [] 0 [])
  )

/-- LDL (R68, R78, R80, R167): each lane of the execution mask receives the bytes of its block's local memory at its offset, sign-extended with SX,
untagged. STL (R80, R167): the bytes of the executing lanes' data land at their offsets, the higher-numbered lane winning; every other byte of the
block's local memory, every register and every other group keep their values, and memory, caches, objects and contexts stay as the fetch leaves them.
Of a local access, the lanes that are not aligned to its size raise MISALIGNED, and where all are aligned, those whose last byte lies beyond the
block's allocation raise LOCAL_BOUNDS: the exception names exactly those lanes and the lowest of their offsets, and no register and no byte of local
memory changes (R80, R89, R91). -/
def Obligations.LocalMemory : Prop :=
  (
    ActsOnGroup .ldl (fun _ => ldlForm) (fun i x y =>
      let n := 2 ^ mSz i.w
      let bytes (l : Nat) : Nat := leNat ((List.range n).map fun k => tget 0 i.blk.lm (i.localOffset l + k))
      (∀ l k, l < 16 → k < (n + 3) / 4 → i.mask.getLsbD l = true →
        (y.vword (fD i.w + k) l).poison = false
          ∧ (y.vword (fD i.w + k) l).val = (if mSx i.w then
              (if n = 1 then (BitVec.ofNat 8 (bytes l)).signExtend 32 else (BitVec.ofNat 16 (bytes l)).signExtend 32)
            else BitVec.ofNat 32 (bytes l / 2 ^ (32 * k))))
        ∧ y.flags = x.flags ∧ RegsKept x y [] ((List.range ((n + 3) / 4)).map fun k => fD i.w + k) i.mask [])
  )
  ∧ (
    ∀ (g : GRef) (w : DWord) (s : State), stlForm.clear g w s = true →
      Completes (.stl g w) s fun t =>
        let i := s.issued g w
        let n := 2 ^ mSz w
        (∀ a, (∀ l, l < 16 → i.mask.getLsbD l = true → a < i.localOffset l ∨ i.localOffset l + n ≤ a) →
          tget 0 (t.blockOf g).lm a = tget 0 i.blk.lm a)
        ∧ (∀ l k, l < 16 → i.mask.getLsbD l = true → k < n →
            (∀ h, h < 16 → i.mask.getLsbD h = true → l < h →
              i.localOffset l + k < i.localOffset h ∨ i.localOffset h + n ≤ i.localOffset l + k) →
            tget 0 (t.blockOf g).lm (i.localOffset l + k) = byteOf (((t.group g).vword (fD w + k / 4) l).val.toNat) (k % 4))
        ∧ SameRegs (s.group g) (t.group g)
        ∧ (let u := s.afterFetch i
           t.mem = u.mem ∧ t.halves = u.halves ∧ t.lines = u.lines ∧ t.clusters = u.clusters ∧ t.objs = u.objs ∧ t.ctxs = u.ctxs)
        ∧ (∀ g' : GRef, (g'.core ≠ g.core ∨ g'.slot ≠ g.slot) → t.group g' = s.group g')
  )
  ∧ (
    ∀ (g : GRef) (w : DWord) (s : State) (c : Instr) (f : Form), ((c, f) = (.ldl g w, ldlForm) ∨ (c, f) = (.stl g w, stlForm)) →
      let i := s.issued g w
      let n := 2 ^ mSz w
      f.issues g w s = true → f.valid i.blk w = true → g.ecc = .ok →
      (s.group g).firstPoison (f.srcs { i with s := s.atIssue i }) = none →
      let raises (code : Byte) (bad : Nat → Prop) : Prop :=
        (∃ l, l < 16 ∧ i.mask.getLsbD l = true ∧ bad l) →
        Completes c s fun t => ∃ e, (t.group g).waiting = .stopped e ∧ e.code = code ∧ e.pc = (s.group g).pc
          ∧ (∀ l, l < 16 → (e.lanes.getLsbD l = true ↔ i.mask.getLsbD l = true ∧ bad l))
          ∧ (∃ l, e.lanes.getLsbD l = true ∧ e.detail = BitVec.ofNat 64 (i.localOffset l))
          ∧ (∀ l, e.lanes.getLsbD l = true → e.detail.toNat ≤ i.localOffset l)
          ∧ SameRegs (s.group g) (t.group g) ∧ (t.blockOf g).lm = i.blk.lm
      raises 0x02 (fun l => i.localOffset l % n ≠ 0)
      ∧ ((∀ k, k < 16 → i.mask.getLsbD k = true → i.localOffset k % n = 0) →
        raises 0x04 fun l => i.blk.lmSize < i.localOffset l + n)
  )

/-- FENCE and BAR.group never wait: the group goes on, and a fence of the scope for all lanes, or of group scope for the lanes that execute it, stands
before its next memory instructions beside those whose conditions do not hold yet (R47, R168, R169). COMPLETE holds the group at the next instruction
until the condition of its scope holds, and lets a group that has lost nothing go at once where it holds already (R170, R181). BAR.block counts the
group as arrived; while others of its block have not arrived the group waits, and with the last arrival the phase ends and the group goes on (R48).
WAITHINT takes the executing lanes out of the running path and pushes a yielded entry at the next instruction; where the path has lanes left it runs on,
and where nothing else is left the group waits for its backoff (R51). With an empty mask BAR.block and WAITHINT go on. None of them changes a register. -/
def Obligations.FencesAndBarriers : Prop :=
  ∀ (g : GRef) (w : DWord) (s : State),
    let x := s.group g
    let i := s.issued g w
    let u := s.afterFetch i
    let sc : Nat := fieldOf w 17 16
    let goes (y : Group) : Prop := Settles y (x.pc + 8) x.mask x.stack ∧ (noJoinAt x (x.pc + 8) → RunsAt y (x.pc + 8) x.mask x.stack)
    let open_ : List PendingFence := x.fences.filter fun p => !s.fenceMet i.core g.slot.val p.scope.val p.lanes p.upto
    (fenceForm.clear g w s = true → Completes (.fence g w) s fun t =>
      SameRegs x (t.group g) ∧ (∃ n, s.tickets ≤ n ∧ (t.group g).fences = open_ ++ [⟨fenceSel w, 0xFFFF, n⟩])
        ∧ goes (t.group g) ∧ t.mem = u.mem)
    ∧ (barGroupForm.clear g w s = true → Completes (.barGroup g w) s fun t =>
      SameRegs x (t.group g)
        ∧ (∃ n, s.tickets ≤ n ∧ (t.group g).fences = open_ ++ if i.mask = 0 then [] else [⟨0, i.mask, n⟩])
        ∧ goes (t.group g) ∧ t.mem = u.mem)
    ∧ (completeForm.clear g w s = true → Completes (.complete g w) s fun t =>
      SameRegs x (t.group g)
        ∧ (s.completeMet i.core g.slot.val sc (s.atIssue i).tickets = false →
          t.mem = u.mem ∧ (∃ n, (t.group g).waiting = .complete (fenceSel w) n) ∧ (t.group g).pc = x.pc + 8)
        ∧ (s.completeMet i.core g.slot.val sc (s.atIssue i).tickets = true → x.lost = 0 → goes (t.group g) ∧ t.mem = u.mem))
    ∧ (barBlockForm.clear g w s = true → Completes (.barBlock g w) s fun t =>
      SameRegs x (t.group g) ∧ t.mem = u.mem
        ∧ (i.mask = 0 → goes (t.group g))
        ∧ (i.mask ≠ 0 → (tget Barrier.fresh (s.blockOf g).bars sc).arrived.length + 1 < s.liveCount i.core x.block.val →
          (t.group g).waiting = .barrier (fenceSel w) ∧ (t.group g).pc = x.pc + 8
            ∧ (tget Barrier.fresh (t.blockOf g).bars sc).arrived = (tget Barrier.fresh (s.blockOf g).bars sc).arrived ++ [g.slot])
        ∧ (i.mask ≠ 0 → s.liveCount i.core x.block.val ≤ (tget Barrier.fresh (s.blockOf g).bars sc).arrived.length + 1 →
          (noJoinAt x (x.pc + 8) → RunsAt (t.group g) (x.pc + 8) x.mask x.stack)
            ∧ (tget Barrier.fresh (t.blockOf g).bars sc).arrived = []))
    ∧ (waithintForm.clear g w s = true → Completes (.waithint g w) s fun t =>
      SameRegs x (t.group g) ∧ t.mem = u.mem
        ∧ (i.mask = 0 → goes (t.group g))
        ∧ (i.mask ≠ 0 →
          let m := x.mask &&& ~~~i.mask
          let st : List StackEntry := ⟨.yielded, x.pc + 8, i.mask⟩ :: x.stack
          Settles (t.group g) (x.pc + 8) m st
            ∧ (m ≠ 0 → noJoinAt x (x.pc + 8) → RunsAt (t.group g) (x.pc + 8) m st)
            ∧ (x.stack = [] → m = 0 → (t.group g).waiting = .backoff ∧ (t.group g).stack = st)))

/-- LD and ST (R78, R79, R164): once every byte is translated, a load of a core that holds no stores takes one outstanding entry for each distinct
line of its lanes, and a store one store-buffer entry, holding the bytes of the lanes and which they are; the group goes on, no register but the
load's destination changes, and memory does not change beyond the fetch. PREF writes nothing (R78): where its addresses are translated, or one of them
is none, the group goes on with its registers. The lookups of LD and PREF are taken to find no error in the cache. -/
def Obligations.LoadsAndStores : Prop :=
  (
    ∀ (g : GRef) (w : DWord) (s : State),
      let x := s.group g
      let i := s.issued g w
      let n := 2 ^ mSz w
      (ldForm.clear g w s = true → allTranslated i i.globalVa n false false → (s.core i.core).stores = [] → g.cache = [] →
        Completes (.ld g w) s fun t =>
          let lines := linesOfPieces (physicalPieces i i.globalVa n false false)
          ((t.core i.core).loads.map fun e => e.line) = ((s.core i.core).loads.map fun e => e.line) ++ lines
            ∧ (∀ e ∈ (t.core i.core).loads.drop (s.core i.core).loads.length, e.slot = g.slot ∧ e.live = true ∧ e.dst = fD w)
            ∧ RegsKept x (t.group g) [] ((List.range ((n + 3) / 4)).map fun k => fD w + k) i.mask []
            ∧ (t.group g).flags = x.flags ∧ t.mem = (s.afterFetch i).mem
            ∧ (noJoinAt x (x.pc + 8) → RunsAt (t.group g) (x.pc + 8) x.mask x.stack))
      ∧ (stForm.clear g w s = true → allTranslated i i.globalVa n true false →
        Completes (.st g w) s fun t =>
          let ps := physicalPieces i i.globalVa n true false
          ((t.core i.core).stores.map fun e => e.line) = ((s.core i.core).stores.map fun e => e.line) ++ linesOfPieces ps
            ∧ (∀ e ∈ (t.core i.core).stores.drop (s.core i.core).stores.length,
                e.slot = g.slot ∧ e.live = true ∧ e.issued = false
                  ∧ e.mask = piecesMask (piecesIn ps e.line) ∧ e.data = piecesData (piecesIn ps e.line) i.storeData)
            ∧ SameRegs x (t.group g) ∧ t.mem = (s.afterFetch i).mem
            ∧ (noJoinAt x (x.pc + 8) → RunsAt (t.group g) (x.pc + 8) x.mask x.stack))
  )
  ∧ (
    ∀ (g : GRef) (w : DWord) (s : State), prefForm.clear g w s = true → g.cache = [] →
      (allTranslated (s.issued g w) (s.issued g w).globalVa (2 ^ mSz w) false true
        ∨ ((s.issued g w).addressCheck (s.issued g w).globalVa).isSome = true) →
      Completes (.pref g w) s fun t =>
        SameRegs (s.group g) (t.group g) ∧ t.mem = (s.afterFetch (s.issued g w)).mem
          ∧ (noJoinAt (s.group g) ((s.group g).pc + 8) →
            RunsAt (t.group g) ((s.group g).pc + 8) (s.group g).mask (s.group g).stack)
  )

/-- ATOM, LDFE and WAITFE take outstanding-load entries and RED a store-buffer entry, one for each line (R79, R81, R82); STFE takes a store-buffer
entry for FILL and EMPTY and an outstanding-load entry for PUT. A form that waits for a word's state holds its group until the answers come; the
others let it go on. Memory does not change beyond the fetch at the issue. What the home does for a lane of an atomic or full/empty request (R81, R82):
an atomic returns the value just before its operation and leaves the full/empty bits alone; FILL writes and fills, EMPTY writes and empties, PUT writes
and fills an empty word only, COPY and TAKE return the value of a full word, which TAKE empties, and a lane whose word is not in the state it waits for
parks and changes nothing. -/
def Obligations.AtomicsAndFullEmpty : Prop :=
  (
    ∀ (g : GRef) (w : DWord) (s : State),
      let x := s.group g
      let i := s.issued g w
      let goesOn (y : Group) : Prop := noJoinAt x (x.pc + 8) → RunsAt y (x.pc + 8) x.mask x.stack
      let holds (y : Group) : Prop := y.waiting = .fe i.mask 0 [] true false ∧ y.pc = x.pc ∧ y.mask = x.mask
      let loadsBy (t : State) (ps : List Piece) : Prop :=
        ((t.core i.core).loads.map fun e => e.line) = ((s.core i.core).loads.map fun e => e.line) ++ linesOfPieces ps
      let storesBy (t : State) (ps : List Piece) : Prop :=
        ((t.core i.core).stores.map fun e => e.line) = ((s.core i.core).stores.map fun e => e.line) ++ linesOfPieces ps
      let n := if w.getLsbD 17 then 8 else 4
      let atomPs := physicalPieces i i.atomVa n true false
      let fePs (wr : Bool) := physicalPieces i i.atomVa 8 wr false
      (atomForm.clear g w s = true → i.mask ≠ 0 → allTranslated i i.atomVa n true false →
        Completes (.atom g w) s fun t =>
          loadsBy t atomPs ∧ SameRegs x (t.group g) ∧ goesOn (t.group g) ∧ t.mem = (s.afterFetch i).mem)
      ∧ (redForm.clear g w s = true → i.mask ≠ 0 → allTranslated i i.atomVa n true false →
        Completes (.red g w) s fun t =>
          storesBy t atomPs ∧ SameRegs x (t.group g) ∧ goesOn (t.group g) ∧ t.mem = (s.afterFetch i).mem)
      ∧ (ldfeForm.clear g w s = true → i.mask ≠ 0 → allTranslated i i.atomVa 8 (decide (fieldOf w 16 13 = 2)) false →
        Completes (.ldfe g w) s fun t =>
          loadsBy t (fePs (decide (fieldOf w 16 13 = 2))) ∧ SameRegs x (t.group g) ∧ t.mem = (s.afterFetch i).mem
            ∧ (if fieldOf w 16 13 = 0 then goesOn (t.group g) else holds (t.group g)))
      ∧ (stfeForm.clear g w s = true → i.mask ≠ 0 → allTranslated i i.atomVa 8 true false →
        Completes (.stfe g w) s fun t =>
          SameRegs x (t.group g) ∧ t.mem = (s.afterFetch i).mem
            ∧ (if fieldOf w 16 13 = 1 then loadsBy t (fePs true) ∧ holds (t.group g)
              else storesBy t (fePs true) ∧ goesOn (t.group g)))
      ∧ (waitfeForm.clear g w s = true → i.mask ≠ 0 → allTranslated i i.atomVa 8 false false →
        Completes (.waitfe g w) s fun t =>
          loadsBy t (fePs false) ∧ SameRegs x (t.group g) ∧ holds (t.group g) ∧ t.mem = (s.afterFetch i).mem)
  )
  ∧ (
    ∀ (fl : Bool) (h : HomeLine) (lane : Fin 16) (off : Fin 128) (wide : Bool) (op : AtomOp) (x y : DWord) (k : Fin 16),
      (laneApply fl (.atom lane off wide op x y) h).1.fe = h.fe
      ∧ (laneApply fl (.atom lane off wide op x y) h).2.value = BitVec.ofNat 64 (lineGet h.data off.val (if wide then 8 else 4))
      ∧ (let w : Fin 128 := ⟨8 * k.val, by omega⟩
         let full := h.fe.getLsbD k.val
         let run (o : FeOp) := laneApply fl (.fe lane w o x) h
         ((run .read).1 = h ∧ (run .read).2.full = full ∧ (run .read).2.parked = false)
         ∧ (run .copy).1 = h ∧ (run .copy).2.parked = !full
         ∧ (full = true → (run .copy).2.value = BitVec.ofNat 64 (lineGet h.data (8 * k.val) 8)
              ∧ (run .take).2.value = BitVec.ofNat 64 (lineGet h.data (8 * k.val) 8))
         ∧ (run .take).2.parked = !full ∧ (full = true → (run .take).1.fe.getLsbD k.val = false ∧ (run .take).1.data = h.data)
         ∧ (full = false → (run .take).1 = h)
         ∧ ((run .fill).1.fe.getLsbD k.val = true ∧ lineGet (run .fill).1.data (8 * k.val) 8 = x.toNat)
         ∧ ((run .empty).1.fe.getLsbD k.val = false ∧ lineGet (run .empty).1.data (8 * k.val) 8 = x.toNat)
         ∧ (run .put).2.parked = full ∧ (full = true → (run .put).1 = h)
         ∧ (full = false → (run .put).1.fe.getLsbD k.val = true ∧ lineGet (run .put).1.data (8 * k.val) 8 = x.toNat)
         ∧ (run .waitFull).1 = h ∧ (run .waitFull).2.parked = !full ∧ (run .waitEmpty).1 = h ∧ (run .waitEmpty).2.parked = full)
  )

/-- The oldest entry that has not left leaves (R164): it counts as issued, and where the cluster's cache may write its line and finds no error there, its
bytes are performed there, the line becomes M, and the entry is acknowledged; memory does not change. Where the line's node is lost, the entry is gone
at once (R179). An acknowledged entry is freed, and only it (R164). LOAD_RETURN frees its entry and writes what its line brought (R65, R79, R219, R226):
of a plain load of one word in one line, the lane's register, that read 0 since the issue, takes the four bytes of the line at its address, with a
poison tag where their half is poisoned. At the end of its backoff, no entry that parked without a registration still sleeps, and the group keeps its
registers (R199). -/
def Obligations.EntriesEnd : Prop :=
  (
    ∀ (c : CoreRef) (found : CacheEcc) (s : State) (e : StoreEntry),
      let k := coreId c
      ((s.core k).stores.take 32).find? (fun x => !x.issued) = some e → (s.core k).mayIssueStore e = true →
      s.issuing (channelOfCore k) = true →
      (s.lostNode e.line = true → Completes (.storeBufferIssue c found) s fun t =>
        (t.core k).stores = ((s.core k).stores.filter fun x => !decide (x.id = e.id)) ∧ t.mem = s.mem)
      ∧ (s.lostNode e.line = false → Completes (.storeBufferIssue c found) s fun t =>
        (∃ e' ∈ (t.core k).stores, e'.id = e.id ∧ e'.issued = true)
          ∧ ((t.core k).stores.map fun x => x.id) = ((s.core k).stores.map fun x => x.id)
          ∧ t.mem = s.mem
          ∧ (∀ cp, e.kind = .st cp → cp ≠ 2 → found = .ok → (s.copyOf (clusterOfCore k) e.line).state.writable = true →
            (t.copyOf (clusterOfCore k) e.line).state = .m
              ∧ (t.copyOf (clusterOfCore k) e.line).data = mergeLine (s.copyOf (clusterOfCore k) e.line).data e.data e.mask
              ∧ ∃ e' ∈ (t.core k).stores, e'.id = e.id ∧ e'.acked = true))
  )
  ∧ (
    ∀ (c : CoreRef) (id : Nat) (s : State) (e : StoreEntry),
      let k := coreId c
      (s.core k).stores.find? (fun x => decide (x.id = id) && x.acked) = some e →
      Completes (.storeAck c id) s fun t => (t.core k).stores = (s.core k).stores.filter fun x => !decide (x.id = id)
  )
  ∧ (
    ∀ (c : CoreRef) (id : Nat) (s : State) (e : LoadEntry),
      let k := coreId c
      (s.core k).loads.find? (fun x => decide (x.id = id) && x.ready) = some e →
      Completes (.loadReturn c id) s fun t =>
        (((t.core k).loads.map fun x => x.id) = (((s.core k).loads.filter fun x => !decide (x.id = id)).map fun x => x.id))
          ∧ (∀ (cp : Nat) (x : LaneLoad), e.live = true → e.kind = .ld false cp → e.lanes = [x] → x.size = 4 → x.off = 0 → x.len = 4 →
              let old := ((s.core k).group e.slot.val).vword x.reg x.lane.val
              let o := x.pa % 128
              ((t.core k).group e.slot.val).vword x.reg x.lane.val
                = ⟨old.val ||| BitVec.ofNat 32 (lineGet e.data o 4),
                   old.poison || e.poison.getLsbD (o / 64) || e.poison.getLsbD ((o + 3) / 64)⟩)
  )
  ∧ (
    ∀ (g : GRef) (s : State),
      let due (e : StackEntry) : Bool := match e.kind with
        | .parked _ woken registered => !woken && !registered
        | _ => false
      (s.group g).live = true → (s.group g).stack.any due = true →
      Completes (.unregisteredRetry g) s fun t =>
        (∀ e ∈ (t.group g).stack, due e = false) ∧ SameRegs (s.group g) (t.group g)
          ∧ OnlyGroup s t (coreId g.core) g.slot.val
  )

/-- SYNC.SET, CLEAR, TEST and ADD on an object that its context may use (R83, R187): the object changes as the table of R187 says, and the passes over
its queue follow (R188), which leave the groups of the waits that they satisfy with a wake to come; where no wait is queued, the result pair is what
stood there before, and the group goes on with every other register as it was. SYNC.WAIT_SET, WAIT_CLEAR, PUT and TAKE (R83, R187) join the queue, and
the passes follow; where no other wait is queued and the condition holds on arrival, the operation is satisfied at once: it has its effect, its result
pair is written and its group's wake is pending; where the condition does not hold, the group waits on the object. No other object changes. -/
def Obligations.SyncOperations : Prop :=
  (
    ∀ (g : GRef) (w : DWord) (s : State),
      let x := s.group g
      let i := s.issued g w
      let n := handleNum (x.sword (fA w)).val
      let o := s.obj n
      let pay : BitVec 62 := ((x.sword (fB w + 1)).val ++ (x.sword (fB w)).val : DWord).setWidth 62
      let acts (c : Instr) (f : Form) (res : Bool) (o' : SyncObj) : Prop :=
        f.clear g w s = true → o.accepts i.blk.ctx.val (x.sword (fA w)).val = true →
        Completes c s fun t =>
          let p := passAll (o.waits.length + 1) o'
          t.obj n = p.2 ∧ (o.waits = [] → t.obj n = o')
            ∧ (∀ v ∈ p.1, (v.1.core ≠ i.core ∨ v.1.slot ≠ g.slot) → (t.groupAt v.1.core v.1.slot.val).waiting = .wake)
            ∧ (∀ m, m ≠ n → t.obj m = s.obj m) ∧ t.mem = (s.afterFetch i).mem
            ∧ (o.waits = [] → noJoinAt x (x.pc + 8) → RunsAt (t.group g) (x.pc + 8) x.mask x.stack)
            ∧ (o.waits = [] → RegsKept x (t.group g) (if res then [fD w, fD w + 1] else []) [] 0 []
              ∧ (res = true → (((t.group g).sword (fD w + 1)).val ++ ((t.group g).sword (fD w)).val : DWord)
                = (o.payload.setWidth 64 : DWord) ||| (if o.flag then 0x8000000000000000 else 0)))
      acts (.syncSet g w) syncSetForm false { o with flag := true, payload := if w.getLsbD 17 then pay else o.payload }
      ∧ acts (.syncClear g w) syncClearForm false { o with flag := false }
      ∧ acts (.syncTest g w) syncTestForm true o
      ∧ acts (.syncAdd g w) syncAddForm true { o with payload := o.payload + pay }
  )
  ∧ (
    ∀ (g : GRef) (w : DWord) (s : State),
      let x := s.group g
      let i := s.issued g w
      let n := handleNum (x.sword (fA w)).val
      let o := s.obj n
      let pay : BitVec 62 := ((x.sword (fB w + 1)).val ++ (x.sword (fB w)).val : DWord).setWidth 62
      let result : DWord := (o.payload.setWidth 64 : DWord) ||| (if o.flag then 0x8000000000000000 else 0)
      let waits (c : Instr) (f : Form) (op : SyncOp) (now : Bool) (res : Bool) (o' : SyncObj) : Prop :=
        f.clear g w s = true → o.accepts i.blk.ctx.val (x.sword (fA w)).val = true →
        Completes c s fun t =>
          let own : SyncWait := ⟨i.core, g.slot, op, i.payload, fD w⟩
          t.obj n = (passAll (o.waits.length + 2) { o with waits := o.waits ++ [own] }).2
            ∧ (t.group g).pc = x.pc + 8 ∧ (∀ m, m ≠ n → t.obj m = s.obj m) ∧ t.mem = (s.afterFetch i).mem
            ∧ (o.waits = [] → now = true → t.obj n = o' ∧ (t.group g).waiting = .wake
              ∧ RegsKept x (t.group g) (if res then [fD w, fD w + 1] else []) [] 0 []
              ∧ (res = true → (((t.group g).sword (fD w + 1)).val ++ ((t.group g).sword (fD w)).val : DWord) = result)
              ∧ ∃ v ∈ (t.chan i.ch).wakes, v.core = i.core ∧ v.slots = [g.slot])
            ∧ (o.waits = [] → now = false → (t.group g).waiting = .sync n ∧ SameRegs x (t.group g)
              ∧ t.obj n = { o with waits := [own] })
      waits (.syncWaitSet g w) syncWaitSetForm .waitSet o.flag true o
      ∧ waits (.syncWaitClear g w) syncWaitClearForm .waitClear (!o.flag) false o
      ∧ waits (.syncPut g w) syncPutForm .put (!o.flag) false { o with flag := true, payload := pay }
      ∧ waits (.syncTake g w) syncTakeForm .take o.flag true { o with flag := false }
  )

/-- The passes over an object's queue (R188): every wait is satisfied or stays queued, and when the passes end, no queued wait whose condition holds
is the first of its operation. Waits of one operation are satisfied in the order in which they stood. -/
def Obligations.SyncQueuePasses : Prop :=
  ∀ (o : SyncObj),
    let r := passAll (o.waits.length + 1) o
    (r.1.map Prod.fst ++ r.2.waits).Perm o.waits
      ∧ (∀ (a : List SyncWait) (w : SyncWait) (b : List SyncWait), r.2.waits = a ++ w :: b → (∀ v ∈ a, v.op ≠ w.op) →
          w.op.holds r.2 = false)
      ∧ (∀ op : SyncOp, ((r.1.map Prod.fst).filter fun w => decide (w.op = op))
          ++ (r.2.waits.filter fun w => decide (w.op = op)) = o.waits.filter fun w => decide (w.op = op))

/-- SIGNAL sends and its group goes on, SIGNAL_DELIVERY sets the latch of every resident group of the sender's context that the target names or discards
the signal and counts it, WAITSIG ends at once where the latch is set and clears it, and waits otherwise (R192). A release starts when a wake is pending and none runs; step k ends at tick t0 +
ceil(15.625 k) of a running counter, at most 256 × RAMP_UNITS cores receive their wakes in it, and the release ends when no wake remains (R194). -/
def Obligations.SignalsAndWakes : Prop :=
  (
    (∀ (g : GRef) (w : DWord) (s : State), signalForm.clear g w s = true →
      Completes (.signal g w) s fun t =>
        t.signals = s.signals ++ [((s.blockOf g).ctx, ((s.group g).sword (fA w)).val)] ∧ SameRegs (s.group g) (t.group g)
          ∧ (noJoinAt (s.group g) ((s.group g).pc + 8) →
            RunsAt (t.group g) ((s.group g).pc + 8) (s.group g).mask (s.group g).stack)
          ∧ t.mem = (s.afterFetch (s.issued g w)).mem)
    ∧ (∀ (g : GRef) (w : DWord) (s : State), waitsigForm.clear g w s = true →
      Completes (.waitsig g w) s fun t =>
        SameRegs (s.group g) (t.group g)
          ∧ ((s.group g).latch = true → (t.group g).latch = false ∧ (noJoinAt (s.group g) ((s.group g).pc + 8) →
            RunsAt (t.group g) ((s.group g).pc + 8) (s.group g).mask (s.group g).stack))
          ∧ ((s.group g).latch = false → (t.group g).waiting = .signal ∧ (t.group g).pc = (s.group g).pc + 8))
    ∧ (∀ (ctx : Fin 2048) (target : Word) (s : State), (ctx, target) ∈ s.signals →
      Completes (.signalDelivery ctx target) s fun t =>
        t.signals = s.signals.erase (ctx, target) ∧ t.mem = s.mem
          ∧ (s.signalTargets ctx.val target = [] → (∀ k, t.core k = s.core k)
            ∧ ∃ ch, (t.chan ch).sigDiscard = satAdd (s.chan ch).sigDiscard 1)
          ∧ (∀ (k slot : Nat), (k, slot) ∈ s.signalTargets ctx.val target → (t.groupAt k slot).latch = true))
  )
  ∧ (
    ∀ (ch : Fin 32) (s : State),
      let c := s.chan ch.val
      (c.wakes ≠ [] → c.releaseStep = none →
        Completes (.wakeRampRelease ch) s fun t =>
          ∃ t0, (t.chan ch.val).releaseStep = some (1, c.rampUnits) ∧ (t.chan ch.val).releaseStart = t0
            ∧ c.refcnt.toNat ≤ t0.toNat ∧ (t.chan ch.val).wakes = c.wakes ∧ ∀ k, t.core k = s.core k)
      ∧ (∀ (k : Nat) (u : Byte), c.releaseStep = some (k, u) →
        Completes (.rampStepEnd ch) s fun t =>
          (∃ chosen : List Nat, chosen.length ≤ 256 * Nat.max 1 (Nat.min u.toNat 0x80)
              ∧ (t.chan ch.val).wakes = c.wakes.filter fun v => !decide (v.core ∈ chosen))
            ∧ ((t.chan ch.val).releaseStep = none ↔ (t.chan ch.val).wakes = [])
            ∧ (c.refRunning = true → Nat.min (c.releaseStart.toNat + (125 * k + 7) / 8) (2 ^ 64 - 1) ≤ (t.chan ch.val).refcnt.toNat)
            ∧ (∀ (core : Nat) (slot : Fin 16) (n : Nat), c.wakes = [⟨core, [slot], none, false, n⟩] →
                (t.groupAt core slot.val).waiting ≠ .wake))
  )

/-- QLOAD, QSWAP, QSTREAM, QDRAIN and QZERO take one entry of the core's Quern queue, with the operands that they read at issue; the group goes on
(R97). An instruction of the Quern whose waits are over, and in what it reads no error is found, starts (R98): QSWAP outside a gang exchanges the
active and the shadow set at once (R94, R95), QZERO makes every entry of its bank read 0 (R106), and neither changes another set or bank; once the
block has ended, it starts without effect (R110). A started instruction completes, a stream after the earlier streams (R97): its entry leaves the
queue; while the block holds the Quern, a QLOAD leaves the set of its words in the shadow set, and a QDRAIN to binary32 writes the 32 entries it
captured into v(D), v(D+1), whatever the execution mask, a NaN as the canonical NaN and −0 as +0 (R106). -/
def Obligations.QuernQueue : Prop :=
  (
    ∀ (g : GRef) (w : DWord) (s : State),
      let x := s.group g
      let i := s.issued g w
      let q := (s.core i.core).quern
      let off (r : Nat) : Nat := (x.sword r).val.toNat
      let queues (c : Instr) (f : Form) (op : QuernOp) : Prop :=
        f.clear g w s = true →
        Completes c s fun t =>
          ∃ e : QuernEntry, (t.core i.core).quern = { q with queue := q.queue ++ [e] } ∧ e.op = op ∧ e.slot = g.slot ∧ e.live = true
            ∧ e.started = false ∧ e.ctx = (s.blockOf g).ctx ∧ e.mask = i.mask ∧ e.pc = x.pc
            ∧ SameRegs x (t.group g) ∧ t.mem = (s.afterFetch i).mem
            ∧ (noJoinAt x (x.pc + 8) → RunsAt (t.group g) (x.pc + 8) x.mask x.stack)
      queues (.qload g w) qloadForm (.load (fAs w) i.blk.gang (off (fA w))
        (if fAs w then [] else (List.range (tileWords (qFmt w) i.blk.gang)).map fun l => (x.vword (fA w) l).val)
        (qFmt w) (w.extractLsb' 10 4) (w.extractLsb' 2 8))
      ∧ queues (.qswap g w) qswapForm .swap
      ∧ queues (.qstream g w) qstreamForm
          (.stream (off (fA w)) (off (fB w)) (off (fC w)) (qFmt w) (w.getLsbD 13) (w.getLsbD 12) (w.getLsbD 11) i.blk.gang [] [] [])
      ∧ queues (.qdrain g w) qdrainForm (.drain (fD w) (qFmt w) (w.getLsbD 13) (w.extractLsb' 11 2) (w.getLsbD 10) [] 0)
      ∧ queues (.qzero g w) qzeroForm (.zero (w.getLsbD 13))
  )
  ∧ (
    ∀ (c : CoreRef) (id : Nat) (s : State) (x : QuernEntry),
      let k := coreId c
      let q := (s.core k).quern
      q.queue.find? (fun x => decide (x.id = id) && !x.started) = some x → s.quernReady k x = true →
      Completes (.quernQueueStart c id []) s fun t =>
        let r := (t.core k).quern
        (∃ e ∈ r.queue, e.id = id ∧ e.started = true) ∧ (r.queue.map fun e => e.id) = (q.queue.map fun e => e.id)
          ∧ t.mem = s.mem
          ∧ (q.block = none → r.active = q.active ∧ r.shadow = q.shadow ∧ r.acc = q.acc)
          ∧ (q.block ≠ none → x.op = .swap → (s.core k).gangQuern = false → r.active = q.shadow ∧ r.shadow = q.active ∧ r.acc = q.acc)
          ∧ (q.block ≠ none → ∀ b, x.op = .zero b → r.active = q.active ∧ r.shadow = q.shadow
              ∧ (∀ n, n < 32 → r.entry b n = 0 ∧ r.entry (!b) n = q.entry (!b) n))
  )
  ∧ (
    ∀ (c : CoreRef) (id : Nat) (s : State) (e : QuernEntry),
      let k := coreId c
      let q := (s.core k).quern
      q.queue.find? (fun x => decide (x.id = id) && x.started) = some e →
      (∀ x ∈ q.queue, x.op.isStream = true → e.op.isStream = true → id ≤ x.id) →
      Completes (.quernInstructionComplete c id) s fun t =>
        (t.core k).quern.queue = (q.queue.filter fun x => !decide (x.id = id))
          ∧ (q.block ≠ none → ∀ loc gang a ws f r m, e.op = .load loc gang a ws f r m →
              (t.core k).quern.shadow = setOfWords gang f r m ws ∧ (t.core k).quern.active = q.active ∧ t.mem = s.mem)
          ∧ (q.block ≠ none → ∀ d b sat clr es wr, e.op = .drain d 4 b sat clr es wr →
              (∀ l, l < 16 →
                let out (v : Word) : Word := if isNaN32 v then 0x7FC00000 else if v = 0x80000000 then 0 else v
                ((t.core k).group e.slot.val).vword d l = ⟨out (es.getD l 0), false⟩
                  ∧ ((t.core k).group e.slot.val).vword (d + 1) l = ⟨out (es.getD (16 + l) 0), false⟩)
              ∧ t.mem = s.mem)
  )

/-- The value of one accumulator entry after a streamed step (R104): a NaN or NaR among the terms, or in the entry when it accumulates, gives the
canonical NaN and an accumulated infinity stays; a step whose terms are all finite rounds their exact sum once, and never leaves −0. -/
def Obligations.QuernAccumulates : Prop :=
  ∀ (fl acc : Bool) (old : Word) (terms : List Decoded),
    ((∃ t ∈ terms, t.1 = .nan) → (streamEntry fl acc old terms).1 = 0x7FC00000)
    ∧ (acc = true → isNaN32 old = true → (streamEntry fl acc old terms).1 = 0x7FC00000)
    ∧ (acc = true → (old = 0x7F800000 ∨ old = 0xFF800000) → (∀ t ∈ terms, t.1 ≠ .nan) → (streamEntry fl acc old terms).1 = old)
    ∧ ((∀ t ∈ terms, ∃ n m e, t.1 = .num n m e) → isNaN32 old = false → (acc = false ∨ old.toNat % 2 ^ 31 < 0x7F800000) →
        isNaN32 (streamEntry fl acc old terms).1 = false ∧ (streamEntry fl acc old terms).1 ≠ 0x80000000)

/-- MOVEQ copies its descriptor at issue (R87, R262): the descriptor, with SRC, DST, LENGTH, SYNC and the flags of its 32 bytes, is queued and the group
goes on, or it waits for its translations or pins and the group waits at the instruction. MOVE_DESCRIPTOR_START begins the one descriptor of its
engine, once the stores that it awaits are acknowledged, by reading its source: the first line's request is on its way (R173). MOVE_ENGINE_COMPLETION
frees a descriptor whose lines are done, after the completions before it in the queue (R189), and, where its object still belongs to its context under
its handle and no wait is queued there, sets FLAG with the status in payload [7:0] and, with no line bad, the length in [61:8] (R87, R174, R186). -/
def Obligations.MoveEngine : Prop :=
  (
    ∀ (g : GRef) (w : DWord) (s : State),
      let x := s.group g
      let i := s.issued g w
      let k := clusterOfCore i.core
      let byte (n : Nat) : Byte := tget 0 i.blk.lm ((x.sword (fA w)).val.toNat + n)
      let num (a n : Nat) : Nat := leNat ((List.range n).map fun j => byte (a + j))
      moveqForm.clear g w s = true → (∀ d ∈ (s.cluster k).forming, d.core ≠ i.core ∨ d.slot ≠ g.slot) →
      Completes (.moveq g w) s fun t =>
        SameRegs x (t.group g) ∧ t.mem = (s.afterFetch i).mem
          ∧ ∃ d : Desc, d.src.toNat = num 0 8 ∧ d.dst.toNat = num 8 8 ∧ d.length = num 16 4 ∧ d.sync.toNat = num 20 4
            ∧ d.fe = (byte 25).getLsbD 0 ∧ d.stash.isSome = (byte 24).getLsbD 7 ∧ d.core = i.core ∧ d.started = false
            ∧ ((d ∈ (t.cluster k).queue ∧ (noJoinAt x (x.pc + 8) → RunsAt (t.group g) (x.pc + 8) x.mask x.stack))
              ∨ (d ∈ (t.cluster k).forming ∧ (t.group g).pc = x.pc ∧ (t.group g).waiting = .walk))
  )
  ∧ (
    ∀ (ch : Fin 32) (cl : Fin 128) (s : State) (d : Desc),
      let k := clusterId ch cl
      ((s.cluster k).queue = [d] → d.started = false → s.descReady d = true → d.next = 0 → d.lines = [] → 0 < d.length →
        (∀ l, s.lostNode l = false) →
        Completes (.moveDescriptorStart ch cl) s fun t =>
          (∃ e ∈ (t.cluster k).queue, e.id = d.id ∧ e.started = true) ∧ t.mem = s.mem
            ∧ Sent t .rdSnap (lineOfPa (d.srcPa 0)) (engineAgent k) (sliceAgent (lineOfPa (d.srcPa 0))) fun _ => True)
      ∧ ((s.cluster k).queue.find? (fun e => decide (e.id = d.id)) = some d → d.started = true → d.length ≤ d.next → d.lines = [] →
        (s.cluster k).forming = [] →
        (d.sync = 0xFFFFFFFF ∨ ∀ x ∈ (s.cluster k).queue.takeWhile (fun x => !decide (x.id = d.id)), x.sync = 0xFFFFFFFF) →
        Completes (.moveEngineCompletion ch cl d.id) s fun t =>
          (t.cluster k).queue = (s.cluster k).queue.filter (fun e => !decide (e.id = d.id))
            ∧ (let n := handleNum d.sync
               d.sync ≠ 0xFFFFFFFF → handleKind d.sync = 0 → (s.obj n).accepts d.ctx.val d.sync = true → (s.obj n).waits = [] →
               (t.obj n).flag = true
                 ∧ (t.obj n).payload.toNat % 256 = (if d.lost then 0x0A else if d.poisoned then 0x0E else 0)
                 ∧ (d.bad = none → d.length < 2 ^ 32 → (t.obj n).payload.toNat / 256 = d.length)))
  )

/-- GROUP_DEMOTE moves a waiting active group to the pending set while the active slots are full and a pending group is ready; GROUP_PROMOTE makes the
pending group that became ready earliest active; ROTATION_CHECK restarts the rotation count, takes over the channel's scheduling values, and demotes the
group promoted longest ago where a pending group is ready and no slot is free; WAITHINT_BACKOFF resumes the topmost yielded entry (R40 to R43, R51).
None of them touches a register or memory. A stalled block barrier and a stalled wait on a watched object raise BARRIER_STALL once, and their groups keep
waiting (R49, R202, R203). -/
def Obligations.Scheduling : Prop :=
  (
    ∀ (c : CoreRef) (s : State),
      let k := coreId c
      let co := s.core k
      (∀ slot : Fin 16,
        let x := co.group slot.val
        (x.active = true → s.standing k slot.val = .waiting → s.pendingReady k ≠ [] → co.activeFull = true →
          Completes (.groupDemote ⟨c, slot, .ok, []⟩) s fun t =>
            (t.groupAt k slot.val).active = false ∧ SameRegs x (t.groupAt k slot.val) ∧ (t.groupAt k slot.val).pc = x.pc ∧ t.mem = s.mem
              ∧ ∀ n, n ≠ slot.val → t.groupAt k n = s.groupAt k n)
        ∧ (∀ e, x.live = true → x.waiting = .backoff → x.stack.find? (fun e => e.kind.isYielded) = some e → e.mask ≠ 0 →
          (∀ j ∈ x.stack, j.kind.isJoin = true → j.addr ≠ e.addr) →
          Completes (.waithintBackoff ⟨c, slot, .ok, []⟩) s fun t =>
            (t.groupAt k slot.val).pc = e.addr ∧ (t.groupAt k slot.val).mask = e.mask ∧ (t.groupAt k slot.val).waiting = .no
              ∧ SameRegs x (t.groupAt k slot.val) ∧ t.mem = s.mem))
      ∧ (∀ y, leastBy (fun g => g.2.readySince.getD 0) (s.pendingReady k) = some y → co.activeFull = false →
        Completes (.groupPromote c) s fun t =>
          (t.groupAt k y.1).active = true ∧ t.mem = s.mem ∧ ∀ n, n ≠ y.1 → t.groupAt k n = s.groupAt k n)
      ∧ Completes (.rotationCheck c) s fun t => t.mem = s.mem
          ∧ (t.core k).rotation = 0
          ∧ ((t.core k).demoteWait = (s.chan (channelOfCore k)).demoteWait ∧ (t.core k).backoff = (s.chan (channelOfCore k)).waithintBackoff
            ∧ (t.core k).quantum = (s.chan (channelOfCore k)).rotateQuantum)
          ∧ ((s.pendingReady k = [] ∨ co.activeFull = false) → ∀ n, t.groupAt k n = s.groupAt k n)
          ∧ (s.pendingReady k ≠ [] → co.activeFull = true → ∀ y, leastBy (fun g => g.2.activeSince) (co.groupsIn true) = some y →
            (t.groupAt k y.1).active = false ∧ ∀ n, n ≠ y.1 → t.groupAt k n = s.groupAt k n)
  )
  ∧ (
    (∀ (c : CoreRef) (blk bar : Fin 4) (s : State) (slot : Fin 16),
      let b := tget Barrier.fresh ((s.core (coreId c)).block blk.val).bars bar.val
      b.arrived.getLast? = some slot → b.limit ≠ 0 → b.stallRaised = false →
      Completes (.barrierStall c blk bar) s fun t =>
        (tget Barrier.fresh ((t.core (coreId c)).block blk.val).bars bar.val).stallRaised = true
          ∧ (tget Barrier.fresh ((t.core (coreId c)).block blk.val).bars bar.val).arrived = b.arrived
          ∧ ∀ n, t.groupAt (coreId c) n = s.groupAt (coreId c) n)
    ∧ (∀ (g : GRef) (s : State) (n : Nat), (s.group g).waiting = .sync n → (s.obj n).watch = true →
      (s.group g).stallLimit ≠ 0 → (s.group g).stall = 0 →
      Completes (.syncWaitStall g) s fun t =>
        (t.group g).waiting = .sync n ∧ (t.group g).stall ≠ 0 ∧ SameRegs (s.group g) (t.group g) ∧ t.obj n = s.obj n)
  )

/-- BLOCK_PLACE (R32 to R35, R72): the dispatcher places the launch's next block, outside a gang, on the core that R35 chooses; every group of it
starts with all lanes active at the program's address, p0 all ones, and the scalar registers of R72. CORE_SAVE moves the blocks of a drained core,
outside a gang, into the saved state of their context and empties the core; CORE_RESTORE takes one out of it (R54 to R56). IDLE_SELF_TEST changes
nothing when it passes and drains the core when it fails; SPARE_CORE_SWAP maps a drained, emptied core to the lowest-numbered spare, which passes its
test, or finds that no spare is left; where no saved block waits for the core, draining ends with the one, and the core is unavailable with the other
(R57 to R59, R62). -/
def Obligations.BlocksPlacedAndSaved : Prop :=
  (
    ∀ (ch : Fin 32) (id : Nat) (s : State) (k : Nat),
      let l := s.launchOf id
      s.up ch.val = true → s.chosen id ch.val = true → l.gang = false → s.chooseCore l ch.val = some k → s.poolTurn l k ch.val = true →
      Completes (.blockPlace ch id) s fun t =>
        (t.launchOf id).liveBlocks = l.liveBlocks + 1 ∧ t.mem = s.mem
          ∧ (tget (0, 0) (t.launchOf id).next ch.val).1 = (tget (0, 0) l.next ch.val).1 + 1
          ∧ ∀ j slot, ((s.core k).slotsFree.take l.groups)[j]? = some slot →
              let y := t.groupAt k slot
              y.live = true ∧ y.pc = l.program ∧ y.mask = 0xFFFF ∧ y.stack = [] ∧ y.flags = 0 ∧ y.pmask 0 = 0xFFFF
                ∧ (y.sword 0).val = BitVec.ofNat 32 (tget (0, 0) l.next ch.val).1 ∧ (y.sword 1).val = BitVec.ofNat 32 l.grid
                ∧ (y.sword 2).val = BitVec.ofNat 32 j ∧ (y.sword 3).val = BitVec.ofNat 32 l.groups
                ∧ ((y.sword 5).val ++ (y.sword 4).val : DWord) = l.argptr
                ∧ (y.sword 6).val = BitVec.ofNat 32 ((l.lm + 255) / 256 * 256) ∧ (y.sword 7).val = BitVec.ofNat 32 (popcount l.chset)
  )
  ∧ (
    (∀ (c : CoreRef) (s : State),
      let k := coreId c
      s.gangCores k = [k] → (s.core k).liveBlocks ≠ [] → s.mustSave k = true → (s.core k).drained = true →
      Completes (.coreSave c []) s fun t =>
        (t.core k).groups = [] ∧ (t.core k).blocks = [] ∧ (t.core k).quern = .idle
          ∧ ∀ b ∈ (s.core k).liveBlocks, ∃ sb ∈ (t.ctx b.2.ctx.val).saved, sb.core = k ∧ sb.block.index = b.2.index
              ∧ sb.block.launch = b.2.launch ∧ sb.block.lm = b.2.lm)
    ∧ (∀ (c : CoreRef) (n : Nat) (s : State) (b : SavedBlock),
      ((s.savedBlocks.map Prod.snd).filter fun b => s.mayRestore (coreId c) b)[n]? = some b → b.block.gang = false →
      Completes (.coreRestore c n) s fun t =>
        (t.ctx b.block.ctx.val).saved = (s.ctx b.block.ctx.val).saved.erase b)
  )
  ∧ (
    ∀ (c : CoreRef) (s : State),
      let k := coreId c
      let cl := clusterOfCore k
      (s.up (channelOfCore k) = true → s.available k = true → (s.core k).liveBlocks = [] → s.drains k = false →
        (s.chan (channelOfCore k)).handoff = false →
        Completes (.idleSelfTest c true) s (fun t => t = s)
          ∧ Completes (.idleSelfTest c false) s fun t => (t.core k).draining = true)
      ∧ (s.up (channelOfCore k) = true → (s.core k).draining = true → (s.core k).swap = .none → (s.core k).liveBlocks = [] →
        (s.core k).drained = true →
        (∀ p rest, (s.cluster cl).sparesLeft = p :: rest →
          Completes (.spareCoreSwap c [true]) s fun t =>
            (t.cluster cl).physical c.core = some p ∧ (t.core k).unavailable = (s.core k).unavailable
              ∧ ((∀ b ∈ s.savedBlocks, b.2.core ≠ k) → (t.core k).draining = false ∧ (t.core k).swap = .none))
        ∧ ((s.cluster cl).sparesLeft = [] →
          Completes (.spareCoreSwap c []) s fun t =>
            (∀ b ∈ s.savedBlocks, b.2.core ≠ k) → (t.core k).unavailable = true ∧ (t.cluster cl).physical c.core = none))
  )

/-- Every request at a slice, where it may be served and the checks find no error: while its line is in a transaction it waits behind the requests
that came before (R218); a line that the slice does not hold is asked for; a line outside the presented memory of its home is read as poisoned data
(R236). A request changes no byte of memory. A request at a home slice whose line clusters of this device hold (the columns SHARED and OWNED of R216):
the owner gets the snoop of its request, every other sharer that must lose its copy gets SNP_INV, and the line is in the request's transaction. -/
def Obligations.SliceRequestsAndSnoops : Prop :=
  (
    ∀ (ch : Fin 32) (m : Msg) (s : State),
      let l := m.line
      ∀ x ∈ [(MsgKind.readS, Instr.readS m noErrors), (.readU, .readU m noErrors), (.own, .own m noErrors), (.rdSnap, .rdSnap m noErrors), (.wrMerge, .wrMerge m noErrors),
          (.atomic, .atomic m noErrors), (.feOp, .feOp m noErrors)],
        AtSlice x.1 ch m s → Servable m s →
        Completes x.2 s fun t =>
          t.mem = s.mem
            ∧ (s.lineFree l = false → t.slice l = { s.slice l with queue := (s.slice l).queue ++ [m] })
            ∧ (SetAtRest s l → (s.slice l).present = false → (s.isLocal l = true → s.inMemory l = true) →
                ((t.slice l).ask.map fun a => a.req) = some m)
            ∧ (SetAtRest s l → s.isLocal l = true → s.inMemory l = false → m.src ≠ sliceAgent l →
                t.slice l = s.slice l ∧ (x.1 ∈ [MsgKind.readS, .readU, .own, .rdSnap] →
                  Sent t .data l (sliceAgent l) m.src fun r => r.poison = 3 ∧ r.tag = m.tag))
  )
  ∧ (
    ∀ (ch : Fin 32) (m : Msg) (s : State),
      let l := m.line
      let e := s.slice l
      SetAtRest s l → e.present = true → s.isLocal l = true → s.inMemory l = true →
      e.coarse = false → e.nodes = [] → e.wide = false →
      ∀ x ∈ [(MsgKind.readS, Instr.readS m noErrors, MsgKind.snpFwd), (.readU, .readU m noErrors, .snpFwdU), (.own, .own m noErrors, .snpFwdU),
          (.rdSnap, .rdSnap m noErrors, .snpPeek), (.wrMerge, .wrMerge m noErrors, .snpRecall), (.atomic, .atomic m noErrors, .snpRecall), (.feOp, .feOp m noErrors, .snpRecall)],
        AtSlice x.1 ch m s → Servable m s →
        (∀ o : Fin 4096, e.owner = some (.cluster o) → m.src ≠ .cluster o →
          Completes x.2.1 s fun t =>
            ((t.slice l).busy.map fun y => y.req) = some m ∧ (t.slice l).data = e.data ∧ t.mem = s.mem
              ∧ Sent t x.2.2 l (sliceAgent l) (.cluster o) fun r => r.tag = m.tag)
        ∧ (∀ k ∈ e.sharers, x.1 ∉ [MsgKind.readS, .rdSnap] → m.src ≠ .cluster k → e.owner ≠ some (.cluster k) →
          Completes x.2.1 s fun t =>
            ((t.slice l).busy.map fun y => y.req) = some m ∧ t.mem = s.mem ∧ Sent t .snpInv l (sliceAgent l) (.cluster k) fun _ => True)
  )

/-- A request at a home slice that holds its line with no other holder (the column UNCACHED of R216), where it may be served and no error is found:
READ_S is granted E and READ_U and OWN are
granted M, with data, and the requester owns the line; RD_SNAP gets data and leaves the line as it is; WR_MERGE, ATOMIC and the full/empty request are
applied to the slice's copy, which becomes newer than memory, and are answered. WB at a home (R216, R218, R222): the recorded owner's data becomes the
slice's, which is newer than memory, the owner holds nothing any more, and the write-back is acknowledged; full/empty bits stay. In a transaction that
has snooped this owner the data is kept as the snoop's data. -/
def Obligations.SliceGrantsAndWriteBacks : Prop :=
  (
    ∀ (ch : Fin 32) (m : Msg) (s : State),
      let l := m.line
      let e := s.slice l
      let home := sliceAgent l
      SetAtRest s l → e.present = true → e.alone = e → s.isLocal l = true → s.inMemory l = true → m.src ≠ home → Servable m s →
      let granted (c : Instr) (g : Grant) : Prop :=
        Completes c s fun t =>
          t.mem = s.mem ∧ (t.slice l).dstate = .owned ∧ (t.slice l).owner = some m.src ∧ (t.slice l).data = e.data ∧ (t.slice l).fe = e.fe
            ∧ Sent t .data l home m.src fun r => r.grant = g ∧ r.data = e.data ∧ r.poison = e.poison ∧ r.tag = m.tag
      let applied (c : Instr) : Prop :=
        let r := applyOps m.flush m.ops ⟨e.data, e.fe, false⟩
        Completes c s fun t =>
          t.mem = s.mem ∧ (t.slice l).dstate = .uncached ∧ (t.slice l).dirty = true ∧ (t.slice l).data = r.1.data ∧ (t.slice l).fe = r.1.fe
            ∧ (m.hasData = true → Sent t .result l home m.src fun x => x.flushed = r.1.flushed
              ∧ (x.results.map fun y => (y.lane, y.value, y.full, y.parked)) = r.2.map fun y => (y.lane, y.value, y.full, y.parked))
            ∧ (m.hasData = false → Sent t .ack l home m.src fun x => x.flushed = r.1.flushed)
      (AtSlice .readS ch m s → granted (.readS m noErrors) .exclusive)
      ∧ (AtSlice .readU ch m s → granted (.readU m noErrors) .modified)
      ∧ (AtSlice .own ch m s → granted (.own m noErrors) .modified)
      ∧ (AtSlice .rdSnap ch m s → Completes (.rdSnap m noErrors) s fun t =>
          t.mem = s.mem ∧ t.slice l = e
            ∧ Sent t .data l home m.src fun r => r.grant = .none ∧ r.data = e.data ∧ r.poison = e.poison ∧ r.tag = m.tag)
      ∧ (AtSlice .wrMerge ch m s → m.stash = none → Completes (.wrMerge m noErrors) s fun t =>
          t.mem = s.mem ∧ (t.slice l).dstate = .uncached ∧ (t.slice l).dirty = true ∧ (t.slice l).data = mergeLine e.data m.data m.mask
            ∧ (t.slice l).fe = (e.fe &&& ~~~m.feMask) ||| (m.fe &&& m.feMask) ∧ Sent t .ack l home m.src fun _ => True)
      ∧ (AtSlice .atomic ch m s → applied (.atomic m noErrors))
      ∧ (AtSlice .feOp ch m s → applied (.feOp m noErrors))
  )
  ∧ (
    ∀ (ch : Fin 32) (m : Msg) (s : State),
      let l := m.line
      let e := s.slice l
      AtSlice .wb ch m s → m.src ≠ sliceAgent l → s.isLocal l = true → s.inMemory l = true → e.present = true →
      (e.owner = some m.src → SetAtRest s l →
        Completes (.wb m .ok) s fun t =>
          (t.slice l).data = m.data ∧ (t.slice l).poison = m.poison ∧ (t.slice l).dirty = true ∧ (t.slice l).owner = none
            ∧ (t.slice l).fe = e.fe ∧ t.mem = s.mem ∧ Sent t .wbAck l (sliceAgent l) m.src fun _ => True)
      ∧ (∀ x : SliceTxn, e.busy = some x → m.src ∈ x.awaiting → m.requester = m.src → x.answer ≠ .crossed →
        Completes (.wb m .ok) s fun t =>
          (t.slice l).data = m.data ∧ (t.slice l).poison = m.poison ∧ (t.slice l).dirty = true
            ∧ (t.slice l).busy = some { x with wb := true, snooped := some m.src }
            ∧ t.mem = s.mem ∧ Sent t .wbAck l (sliceAgent l) m.src fun _ => True)
  )

/-- A snoop at a cluster (R217, R230): while the cluster awaits the line's fill the snoop waits with it; otherwise it is answered as the table of R217
says for the way's state, with the way's data where the table says so, and it leaves every other way, the slices and memory alone. An entry marked Not
sent is a protocol fault. -/
def Obligations.Snoops : Prop :=
  ∀ (k : Fin 4096) (m : Msg) (s : State),
    let l := m.line
    let x := s.copyOf k.val l
    let me := Agent.cluster k
    let home := sliceAgent l
    let frame (t : State) : Prop :=
      (∀ (j : Nat) (v : LineAddr), j ≠ k.val ∨ v ≠ l → t.copyOf j v = s.copyOf j v) ∧ t.lines = s.lines ∧ t.mem = s.mem
    let answers (c : Instr) (kind : MsgKind) (st : WayState) (shared : Bool) (p : State → Prop) : Prop :=
      Completes c s fun t => (t.copyOf k.val l).state = st ∧ frame t ∧ p t
        ∧ Sent t kind l me home fun r => r.ownerNowShared = shared ∧ r.tag = m.tag
    let sends (kind : MsgKind) (dst : Agent) (g : Grant) (t : State) : Prop :=
      Sent t kind l me dst fun r => r.data = x.data ∧ r.poison = x.poison ∧ r.grant = g
    (∀ y ∈ [(MsgKind.snpFwd, Instr.snpFwd m .ok), (.snpFwdU, .snpFwdU m .ok), (.snpInv, .snpInv m .ok), (.snpPeek, .snpPeek m .ok), (.snpRecall, .snpRecall m .ok)],
      AtCluster y.1 k m s → s.awaitsFill k.val l = true →
      Completes y.2 s fun t => (∃ z, (t.cluster k.val).txn l = some z ∧ m ∈ z.snoops) ∧ t.lines = s.lines ∧ t.mem = s.mem)
    ∧ (s.awaitsFill k.val l = false → m.src = home → clusterSet l ∉ (s.cluster k.val).lostSets →
      (AtCluster .snpFwd k m s →
        (x.state = .m ∨ x.state = .o → answers (.snpFwd m .ok) .ack .o false (sends .data m.requester .shared))
        ∧ (x.state = .e → answers (.snpFwd m .ok) .ack .s true (sends .data m.requester .shared))
        ∧ (x.state = .i → answers (.snpFwd m .ok) .none .i false fun _ => True)
        ∧ (x.state = .wb → answers (.snpFwd m .ok) .inFlight .wb false fun _ => True)
        ∧ (x.state = .s → exec (.snpFwd m .ok) s = .fault .protocol))
      ∧ (AtCluster .snpFwdU k m s →
        (x.state = .m ∨ x.state = .o ∨ x.state = .e → answers (.snpFwdU m .ok) .ack .i false (sends .data m.requester .none))
        ∧ (x.state = .i → answers (.snpFwdU m .ok) .none .i false fun _ => True)
        ∧ (x.state = .wb → answers (.snpFwdU m .ok) .inFlight .wb false fun _ => True)
        ∧ (x.state = .s → exec (.snpFwdU m .ok) s = .fault .protocol))
      ∧ (AtCluster .snpInv k m s →
        (x.state = .s ∨ x.state = .i → answers (.snpInv m .ok) .ack .i false fun _ => True)
        ∧ (x.state = .wb → answers (.snpInv m .ok) .ack .wb false fun _ => True)
        ∧ (x.state = .m ∨ x.state = .o ∨ x.state = .e → exec (.snpInv m .ok) s = .fault .protocol))
      ∧ (AtCluster .snpPeek k m s →
        (x.state = .m ∨ x.state = .o ∨ x.state = .e →
          Completes (.snpPeek m .ok) s fun t => t.copyOf k.val l = x ∧ frame t ∧ sends .data home .none t)
        ∧ (x.state = .i → answers (.snpPeek m .ok) .none .i false fun _ => True)
        ∧ (x.state = .wb → answers (.snpPeek m .ok) .inFlight .wb false fun _ => True)
        ∧ (x.state = .s → exec (.snpPeek m .ok) s = .fault .protocol))
      ∧ (AtCluster .snpRecall k m s →
        (x.state = .m ∨ x.state = .o →
          Completes (.snpRecall m .ok) s fun t => (t.copyOf k.val l).state = .i ∧ frame t ∧ sends .wb home .none t)
        ∧ (x.state = .e → answers (.snpRecall m .ok) .none .i false fun _ => True)
        ∧ (x.state = .s → answers (.snpRecall m .ok) .ack .i false fun _ => True)
        ∧ (x.state = .i → answers (.snpRecall m .ok) .none .i false fun _ => True)
        ∧ (x.state = .wb → answers (.snpRecall m .ok) .inFlight .wb false fun _ => True)))

/-- Answers at a core (R178, R194, R198, R219): DATA and RESULT complete the load entry that awaits them, LOST completes it poisoned and lost, ACK
acknowledges the store entry, FE_WAKE makes a wake pending for the line. Answers at a cluster (R219, R220, R236, R178): with the grant and the data of
its transaction in hand, and an invalid way or its own copy to take them, the line is installed in the state granted, the transaction ends and the
loads that joined it are served; WB_ACK frees the way; LOST ends the transaction, and its loads return poisoned. The stores, snoops and other
transactions that would go on in the same step are left out here. -/
def Obligations.AnswersAtCoresAndClusters : Prop :=
  (
    ∀ (k : Fin 1048576) (m : Msg) (s : State),
      let waits (e : LoadEntry) : Prop := e ∈ (s.core k.val).loads ∧ e.id = m.tag ∧ e.sent = true ∧ e.ready = false ∧ e.plain = false
      (AtCore .data k m s → Completes (.data m .ok) s fun t =>
        t.mem = s.mem ∧ ∀ e, waits e → { e with ready := true, data := m.data, poison := m.poison } ∈ (t.core k.val).loads)
      ∧ (AtCore .result k m s → Completes (.result m) s fun t =>
        t.mem = s.mem ∧ ∀ e, waits e →
          { e with ready := true, data := m.data, poison := m.poison, results := m.results, flushed := m.flushed } ∈ (t.core k.val).loads)
      ∧ (AtCore .lost k m s → (∀ x ∈ (s.core k.val).stores, x.id ≠ m.tag) → Completes (.lost m) s fun t =>
        t.mem = s.mem ∧ ∀ e, waits e → { e with ready := true, lost := true, poison := 3 } ∈ (t.core k.val).loads)
      ∧ (AtCore .ack k m s → Completes (.ack m) s fun t =>
        t.mem = s.mem ∧ ∀ e, (s.core k.val).stores.find? (fun e => decide (e.id = m.tag) && e.issued && !e.acked && !e.plain) = some e →
          { e with acked := true } ∈ (t.core k.val).stores
            ∧ (m.flushed = true → (t.ctx e.ctx.val).sticky = (s.ctx e.ctx.val).sticky ||| flagFlushed))
      ∧ (AtCore .feWake k m s → Completes (.feWake m) s fun t =>
        t.mem = s.mem ∧ t.cores = s.cores ∧ ∃ v ∈ (t.chan (channelOfCore k.val)).wakes, v.core = k.val ∧ v.line = some m.line)
  )
  ∧ (
    ∀ (k : Fin 4096) (m : Msg) (s : State),
      let l := m.line
      let c := s.cluster k.val
      let x := s.copyOf k.val l
      let noStores : Prop := ∀ j ∈ s.activeCores k.val, (s.core j).waitingStores l = []
      let joined (j : Nat) (e : LoadEntry) : Prop := j ∈ s.activeCores k.val ∧ e ∈ (s.core j).loads ∧ e.line = l ∧ e.sent = true ∧ e.ready = false ∧ e.plain = true
      let installs (cmd : Instr) (st : WayState) (d : Line) (p : BitVec 2) : Prop :=
        Completes cmd s fun t =>
          (t.copyOf k.val l).state = st ∧ (t.copyOf k.val l).data = d ∧ (t.copyOf k.val l).poison = p ∧ (t.cluster k.val).txn l = none
            ∧ t.mem = s.mem ∧ t.lines = s.lines
            ∧ ∀ j e, joined j e → { e with ready := true, data := d, poison := p } ∈ (t.core j).loads
      (∀ y : CacheTxn, c.txn l = some y → y.snoops = [] → y.victim = none → noStores → (x.state ≠ .i ∨ c.freeWay (clusterSet l) ≠ none) →
        (AtCluster .data k m s → (m.grant ≠ .none ∨ y.grant ≠ .none) →
          installs (.data m .ok) (grantWay (if m.grant = .none then y.grant else m.grant)) m.data m.poison)
        ∧ (AtCluster .grant k m s → m.grant ≠ .none → ∀ d, y.data = some d → installs (.grant m .ok) (grantWay m.grant) d.1 d.2)
        ∧ (AtCluster .grant k m s → m.grant ≠ .none → y.data = none → m.hasData = false → x.state ≠ .i →
          installs (.grant m .ok) (grantWay m.grant) x.data x.poison))
      ∧ (AtCluster .wbAck k m s → c.txns = [] → x.state = .wb → Completes (.wbAck m) s fun t =>
          (t.copyOf k.val l).state = .i ∧ t.lines = s.lines)
      ∧ (∀ y : CacheTxn, AtCluster .lost k m s → c.txns = [y] → y.line = l → y.snoops = [] → noStores →
          (∀ j ∈ s.activeCores k.val, ((s.core j).loads.map fun e => e.id).Nodup) → Completes (.lost m) s fun t =>
            t.lines = s.lines ∧ ∀ j e, joined j e → { e with ready := true, lost := true, poison := 3 } ∈ (t.core j).loads)
  )

/-- Answers at a home slice from holders in this device (R216, R222, R230): a holder's ACK, NONE or POISONED removes it from those that the transaction awaits, POISONED spoils the
copy, IN_FLIGHT waits for the write-back or, with the write-back in hand, counts as NONE; the last ACK of an invalidation grants M with the slice's
data. -/
def Obligations.AnswersAtSlices : Prop :=
  ∀ (ch : Fin 32) (m : Msg) (s : State) (x : SliceTxn),
    let l := m.line
    let e := s.slice l
    e.busy = some x → m.src ∈ x.awaiting → (∀ n, m.src ≠ .node n) → s.isLocal l = true →
    (x.awaiting.erase m.src ≠ [] →
      (∀ y ∈ [(MsgKind.ack, Instr.ack m), (.none, .none m), (.poisoned, .poisoned m)], AtSlice y.1 ch m s → Completes y.2 s fun t =>
        ((t.slice l).busy.map fun z => z.awaiting) = some (x.awaiting.erase m.src)
          ∧ (y.1 = .poisoned → (t.slice l).poison = 3 ∧ (t.slice l).dirty = true))
      ∧ (AtSlice .inFlight ch m s → Completes (.inFlight m) s fun t =>
        ((t.slice l).busy.map fun z => z.awaiting) = some (if x.wb then x.awaiting.erase m.src else x.awaiting)))
    ∧ (AtSlice .ack ch m s → x.awaiting = [m.src] → x.req.kind = .readU → x.req.line = l → x.evict = false → x.spoil = false → x.noData = false →
        x.answer = .waiting → x.snooped ≠ some m.src → e.writing = false → e.outer ≠ .wb → e.queue = [] → e.ask = none →
        (∀ z ∈ s.setOf l, z.2.ask = none) → x.req.src ≠ sliceAgent l → Completes (.ack m) s fun t =>
          (t.slice l).owner = some x.req.src ∧ (t.slice l).dstate = .owned ∧ (t.slice l).busy = none ∧ t.mem = s.mem
            ∧ Sent t .data l (sliceAgent l) x.req.src fun r => r.grant = .modified ∧ r.data = e.data)

/-- MEMORY_READ_COMPLETE (R215, R221, R237, R241, R242): where the decoder finds no error in either half, memory stays; a corrected half is counted
and queued for a targeted scrub; an uncorrectable half is counted and rewritten as a valid codeword of zeros, empty and poisoned; the line comes
to the slice as the decoder passes it on, and a READ_S that asked for it is granted E with those bytes. MEMORY_WRITE_ACK stores the evicted line
with its metadata at its place, and during an evacuation at its new place too, and frees the way; outside memory it stores nothing. Scrubbing
(R243, R244): a targeted scrub takes the earliest queued codeword; the patrol scrubber reads the line at its place and goes on to the next, from
the last to slot 0; a half without error stays, and of a line that the slice does not hold a corrected one is rewritten as corrected and a lost
one as zeros, poisoned. The evacuation of a pseudo-channel (R247 to R251): a batch copies the next lines to their new places as the decoder passes
them on, leaves every other place, and records BATCH; when all are copied, and the controllers are idle, COMMIT puts the new map in force and the
lines beyond the new capacity are lost; then the hub's map store holds the map. -/
def Obligations.MemoryAndEvacuation : Prop :=
  (
    ∀ (l : LineAddr) (s : State),
      let e := s.slice l
      let ch := lineChan l
      let p := s.place l
      (∀ (a : Ask) (lo hi : SymErrors),
        let s1 := s.upset ch [(placeHalf p 0, lo), (placeHalf p 1, hi)]
        let read := Completes (.memoryReadComplete l lo hi) s
        e.ask = some a → a.data = none → s.isLocal l = true → s.up ch = true → s.behindC0Read l a = false →
        ((∀ h : Fin 2, s1.findAt p h.val = .clean) → read fun t => t.mem = s.mem ∧ t.halves = s.halves ∧ (t.chan ch).memCorr = (s.chan ch).memCorr)
        ∧ (s.inMemory l = true →
          (∀ (h h' : Fin 2) d m changed, h ≠ h' → s1.findAt p h.val = .corrected d m changed → s1.findAt p h'.val = .clean → read fun t =>
            t.mem = s.mem ∧ t.halves = s.halves ∧ (t.chan ch).memCorr = satAdd (s.chan ch).memCorr 1 ∧ (t.chan ch).targeted = (s.chan ch).targeted ++ [(l, h)])
          ∧ (∀ (h h' : Fin 2) cls, h ≠ h' → s1.findAt p h.val = .lost cls → s1.findAt p h'.val = .clean → read fun t =>
            t.dataAt p h.val = 0 ∧ (t.halfAt p h.val).poison = true ∧ (t.halfAt p h.val).fe = 0 ∧ t.findAt p h.val = .clean
              ∧ t.dataAt p h'.val = s.dataAt p h'.val ∧ t.halfAt p h'.val = s.halfAt p h'.val
              ∧ (t.chan ch).uncorr = satAdd (s.chan ch).uncorr 1)
          ∧ (e = { SliceLine.absent with ask := some a } → (∀ x ∈ s.setOf l, x.1 ≠ l → x.2.ask = none) → s.sliceWay l ≠ none → s.setLost l = false →
            a.req.kind = .readS → a.req.line = l → a.req.src ≠ sliceAgent l → read fun t =>
              (t.slice l).present = true ∧ (t.slice l).owner = some a.req.src ∧ (t.slice l).dirty = false
                ∧ (t.slice l).data = (s1.memLine l).data ∧ (t.slice l).fe = (s1.memLine l).fe
                ∧ Sent t .data l (sliceAgent l) a.req.src fun r =>
                    r.grant = .exclusive ∧ r.data = (s1.memLine l).data ∧ r.poison = (s1.memLine l).poison)))
      ∧ (e.writing = true → s.up ch = true → e.ask = none → e.queue = [] → Completes (.memoryWriteAck l) s fun t =>
          let stored (q : Nat) : Prop := ∀ h : Fin 2, t.dataAt q h.val = e.data.extractLsb' (512 * h.val) 512
            ∧ t.halfAt q h.val = ⟨e.fe.extractLsb' (8 * h.val) 8, e.poison.getLsbD h.val, e.cls⟩
          (t.slice l).present = false
            ∧ (s.inMemory l = true → stored p ∧ (∀ q, s.newPlace l = some q → stored q)
              ∧ ∀ a, a / 128 ≠ p → s.newPlace l ≠ some (a / 128) → readByte t.mem a = readByte s.mem a)
            ∧ (s.inMemory l = false → t.mem = s.mem))
  )
  ∧ (
    ∀ (ch : Fin 32) (s : State),
      let c := s.chan ch.val
      s.scrubs ch.val = true →
      (∀ (v : LineAddr) (h : Fin 2) (q : List (LineAddr × Fin 2)), c.targeted = (v, h) :: q → s.lineFree v = true →
        let p := s.place v
        let scrub := Completes (.targetedScrub ch) s
        (scrub fun t => (t.chan ch.val).targeted = q)
          ∧ (s.inMemory v = false ∨ s.findAt p h.val = .clean → scrub fun t => t.mem = s.mem ∧ t.halves = s.halves ∧ t.lines = s.lines)
          ∧ (∀ d m changed, s.inMemory v = true → (s.slice v).present = false → s.findAt p h.val = .corrected d m changed → scrub fun t =>
              t.dataAt p h.val = d ∧ t.halfAt p h.val = m ∧ t.findAt p h.val = .clean))
      ∧ (∀ upsets : List (Nat × SymErrors),
        let n := c.scrubAt
        let l : LineAddr := BitVec.ofNat 50 ((s.hub.node.val * 2 ^ 5 + ch.val) * 2 ^ 36 + lineAt c.mapOrder (nativeLine (n % 64) (n / 64)))
        let p := s.place l
        let s1 := s.upset ch.val upsets
        let scrub := Completes (.patrolScrub ch upsets) s
        s.lineFree l = true →
        (scrub fun t => (t.chan ch.val).scrubPos = if 2 ^ 29 ≤ n + 1 then 0 else n + 1)
          ∧ ((∀ h : Fin 2, s1.findAt p h.val = .clean) → scrub fun t => t.mem = s.mem ∧ t.halves = s.halves ∧ t.lines = s.lines)
          ∧ (∀ (h h' : Fin 2), h ≠ h' → lineChan l = ch.val → (s.slice l).present = false → s1.findAt p h'.val = .clean →
            (∀ d m changed, s1.findAt p h.val = .corrected d m changed → scrub fun t =>
              t.dataAt p h.val = d ∧ t.halfAt p h.val = m ∧ t.findAt p h.val = .clean ∧ (t.chan ch.val).memCorr = satAdd c.memCorr 1)
            ∧ (∀ cls, s1.findAt p h.val = .lost cls → scrub fun t =>
              t.dataAt p h.val = 0 ∧ (t.halfAt p h.val).poison = true ∧ (t.halfAt p h.val).fe = 0 ∧ (t.chan ch.val).uncorr = satAdd c.uncorr 1)))
  )
  ∧ (
    ∀ (ch : Fin 32) (s : State),
      let c := s.chan ch.val
      (∀ upsets, s.up ch.val = true → c.evacState = 2 → c.evacDone < c.evacTotal → c.handoff = false → s.hub.pin = false → s.hub.coolant = false →
        let line (n : Nat) : LineAddr := BitVec.ofNat 50 ((s.hub.node.val * 2 ^ 5 + ch.val) * 2 ^ 36 + lineAt c.mapOrder (nativeLine c.evacPc.val n))
        let slots := c.batchSlots c.evacPc.val c.evacDone
        let s1 := s.upset ch.val upsets
        Completes (.evacuationBatch ch upsets) s fun t =>
          (t.chan ch.val).evacDone = c.evacDone + 1 ∧ (t.chan ch.val).mapOrder = c.mapOrder
            ∧ (t.chan ch.val).journal = c.journal ++ [(c.journalRec 2 c.evacDone).word]
            ∧ (t.chan ch.val).journalB = c.journalB ++ [(c.journalRec 2 c.evacDone).word]
            ∧ t.lines = s.lines ∧ t.clusters = s.clusters
            ∧ (∀ a, (∀ n ∈ slots, s.newPlace (line n) ≠ some (a / 128)) → readByte t.mem a = readByte s.mem a)
            ∧ (∀ n ∈ slots, ∀ q, s.newPlace (line n) = some q → q ≠ s.place (line n) →
                (∀ k ∈ slots, k ≠ n → s.newPlace (line k) ≠ some q ∧ s.newPlace (line k) ≠ some (s.place (line n))) →
                ∀ h : Fin 2, (t.dataAt q h.val, t.halfAt q h.val) = s1.valueAt (s.place (line n)) h.val))
      ∧ (s.up ch.val = true → c.evacState = 2 → c.evacTotal ≤ c.evacDone → s.controllersIdle ch.val (withdrawnFrom c.mappedOut) = true →
          Completes (.evacuationCommit ch) s fun t =>
            (t.chan ch.val).mapOrder = c.evacPc :: c.mapOrder ∧ (t.chan ch.val).evacState = 3
              ∧ (t.chan ch.val).journal = c.journal ++ [(c.journalRec 3 0).word] ∧ t.mem = s.mem
              ∧ ∀ l, s.isLocal l = true → lineChan l = ch.val → t.inMemory l = false → (t.slice l).present = false)
      ∧ (c.evacState = 3 → Completes (.mapStoreCommit ch) s fun t =>
          (t.chan ch.val).storeOrder = c.mapOrder ∧ (t.chan ch.val).mapOrder = c.mapOrder
            ∧ ((∀ d ∈ c.nominations, d = c.evacPc) → (t.chan ch.val).evacState = 0 ∧ (t.chan ch.val).nominations = []))
  )

/-- Walks (R256 to R260, R267): a waiting walk starts while fewer than 32 are in flight, class C0 first; its end removes it; where the entry of the
page, in its segment as it is now, passes the checks of R260 for a waiter, the page is installed in the waiter's cluster with the entry's frame and
permissions, and the waiter goes on; a page outside every segment faults. FAULT_RECORD_POST writes the earliest record held. -/
def Obligations.Walks : Prop :=
  (∀ (ch : Fin 32) (s : State),
    let c := s.chan ch.val
    s.up ch.val = true → c.waitingWalks ≠ [] → c.inFlight < 32 → Completes (.tlbWalkStart ch) s fun t =>
      (∃ w ∈ c.waitingWalks, ((∃ v ∈ c.waitingWalks, v.cls = 0) → w.cls = 0)
        ∧ (t.chan ch.val).walks = c.walks.map fun x => if x.key = w.key then { x with inFlight := true } else x)
      ∧ t.mem = s.mem ∧ t.clusters = s.clusters)
  ∧ (∀ (ch : Fin 32) (k : WalkKey) (s : State) (w : Walk) (x : WalkWaiter),
    let c := s.chan ch.val
    let va := k.page * pageSize k.big
    let pg := (s.ctx k.context.val).pageOf va
    let ends := fun (p : State → Prop) => Completes (.walkComplete ch k) s fun t =>
      (t.chan ch.val).walks = (c.walks.filter fun y => !decide (y.key = k)) ∧ p t
    c.walks.find? (fun w => decide (w.key = k) && w.inFlight) = some w → s.up ch.val = true → w.waiters = [x] → x.access.move = false →
    (x.access.va.toNat / pageSize pg.2 = pg.1 →
      (∀ (g : Segment) (e : Nat), (s.ctx k.context.val).segmentOf va = some g → (∀ l ∈ linesOf (g.entryAt va) 8, s.isLocal l = true) →
        (s.walk k.context.val va).1 = (e, none) → accessCause e x.access = none → ends fun t =>
          (∃ i, tget TlbEntry.invalid (t.cluster (clusterOfCore x.core)).tlb i
            = { valid := true, ctx := k.context, page := pg.1, big := pg.2, pfn := BitVec.ofNat 32 (ptePfn e), w := pteW e, x := pteX e })
            ∧ ((s.groupAt x.core x.slot.val).waiting = .walk → (t.groupAt x.core x.slot.val).waiting = .no))
      ∧ (x.access.pref = false → (s.ctx k.context.val).segmentOf va = none → ends fun t => ∃ f, (t.groupAt x.core x.slot.val).waiting = .faulted f))
    ∧ (x.access.va.toNat / pageSize pg.2 ≠ pg.1 → (s.groupAt x.core x.slot.val).waiting = .walk → ends fun t =>
        (t.groupAt x.core x.slot.val).waiting = .no))
  ∧ (∀ (fn : Fin 257) (s : State) (r : FaultRec) (q : List FaultRec),
    let f := s.fnOf fn.val
    f.fault.held = r :: q → f.fault.open f.busMaster = true → Completes (.faultRecordPost fn) s fun t =>
      (t.fnOf fn.val).fault.held = q ∧ (t.fnOf fn.val).fault.tail = f.fault.tail + 1 ∧ (t.fnOf fn.val).faultSeq = f.faultSeq + 1)

/-- FLIT_RECEIVE (R276 to R278, R285, R286): a block that fails FEC or CRC is counted and opens a gap; the ACK, the NAK and the credits of a flit have
their effects; the next flit in sequence is accepted and acknowledged, and a sequenced message that ends in it acts, once per TXN, while a duplicate
only draws the recorded answer; a flit at or before the last one draws an ACK, and any other opens a gap. NAK_REPEAT sends the NAK again, KEEPALIVE an
empty sequenced flit, and DIAG changes nothing. -/
def Obligations.Flits : Prop :=
  ∀ (ch : Fin 32) (port : Fin 6) (s : State),
    let p := port.val
    let x := s.port ch.val p
    let c := s.chan ch.val
    let gapped : Port := if x.gap then x else Port.idle p { x with gap := true } true
    x.live = true →
    (∀ (b : RxBlock) (f : Flit), s.nextFlit ch.val p b = some f →
      let gets := fun (q : State → Prop) => Completes (.flitReceive ch port b) s fun t => t.mem = s.mem ∧ q t
      (received x.width.val b.bytes f = .bad → gets fun t =>
        t.port ch.val p = gapped ∧ (t.chan ch.val).ltBadBlocks = satAdd c.ltBadBlocks 1 ∧ t.msgs = s.msgs)
      ∧ (∀ n, received x.width.val b.bytes f = .good n →
        (f.kind = .idle → x.queue = [] → gets fun t =>
          let y := (Port.takeAck p x f.ack).takeCredits f.credits
          t.port ch.val p = (if f.nak then Port.resend p y else y)
            ∧ (t.chan ch.val).ltReplays = (if f.nak then satAdd c.ltReplays 1 else c.ltReplays)
            ∧ (t.chan ch.val).ltFec = satAdd c.ltFec n ∧ t.msgs = s.msgs)
        ∧ (f.kind ≠ .idle →
          (f.seq = x.rxAck + 1 → f.parts = [] → x.part = 0 →
            (gets fun t => (t.port ch.val p).rxAck = f.seq ∧ (t.port ch.val p).gap = false ∧ (t.chan ch.val).ltFec = satAdd c.ltFec n ∧ t.msgs = s.msgs)
            ∧ (x.queue = [] → f.nak = false → gets fun t => t.port ch.val p =
                (Port.takeAck p (Port.idle p { x with rxAck := f.seq, gap := false } false) f.ack).takeCredits f.credits))
          ∧ (f.seq ≠ x.rxAck + 1 → gets fun t =>
              t.port ch.val p = (if atOrBefore f.seq x.rxAck then Port.idle p x false else gapped) ∧ t.msgs = s.msgs)
          ∧ (∀ (y : StreamMsg) (m : Msg) (k : Nat) (r : RxStream), f.seq = x.rxAck + 1 → f.parts = [⟨y, x.part, k⟩] → 1 ≤ k → x.part + k = y.slots →
              x.state = .coherent → y.body = .coherence m → m.answersRecall = false → y.dstNode = s.hub.node → y.dstCh = ch →
              y.srcNode ∉ s.hub.unreachable → s.up ch.val = true → y.sequenced = true →
              tget RxStream.fresh c.rxStreams (streamKey y.srcNode y.srcCh.val) = r → r.known = true → r.inc = some y.inc →
              y.rel = r.base → r.inWindow y.txn = true →
              (y.txn ∉ r.accepted → gets fun t => t.msgs = s.msgs ++ [s.inward y m]
                ∧ y.txn ∈ (tget RxStream.fresh (t.chan ch.val).rxStreams (streamKey y.srcNode y.srcCh.val)).accepted)
              ∧ (y.txn ∈ r.accepted → gets fun t => t.msgs = s.msgs ∧ (t.chan ch.val).ltDuplicates = satAdd c.ltDuplicates 1)))))
    ∧ (x.gap = true → Completes (.nakRepeat ch port) s fun t => t = s.setPort ch.val p (Port.idle p x true))
    ∧ (x.replay.length < replayRoom p → x.ready ch.val p = [] → Completes (.keepalive ch port) s fun t =>
          t.port ch.val p = Port.emit p c.withholds x .ctrl [] ∧ t.msgs = s.msgs)
    ∧ Completes (.diag ch port) s fun t => t = s

/-- IDENT (R292): the port becomes COHERENT exactly when the protocol, the digest, the epoch and the node agree, on an on-module port the serial
number as well, and otherwise QUARANTINE; MISMATCH has the bit of each field that differs. -/
def Obligations.Identified : Prop :=
  ∀ (ch : Fin 32) (port : Fin 6) (r : IdentRec) (s : State), (s.port ch.val port.val).live = true →
    Completes (.ident ch port r) s fun t =>
      let y := t.port ch.val port.val
      let agrees : Prop := r.protoMajor = 2 ∧ r.digest = s.hub.digest ∧ r.epoch = s.hub.dict.epoch
        ∧ (if port.val < 2 then r.node ≠ s.hub.node ∧ s.hub.dict.nodeTable.getLsbD r.node.val = true
           else r.node = s.hub.node ∧ r.serial = Config.serial)
      y.far = some r ∧ (agrees → y.state = .coherent ∧ y.mismatch = 0) ∧ (¬ agrees → y.state = .quarantine ∧ y.mismatch ≠ 0)
        ∧ (y.mismatch.getLsbD 0 = true ↔ r.protoMajor ≠ 2) ∧ (y.mismatch.getLsbD 1 = true ↔ r.digest ≠ s.hub.digest)
        ∧ (y.mismatch.getLsbD 2 = true ↔ r.epoch ≠ s.hub.dict.epoch)
        ∧ (y.mismatch.getLsbD 3 = true ↔ if port.val < 2 then r.node = s.hub.node ∨ s.hub.dict.nodeTable.getLsbD r.node.val = false else r.node ≠ s.hub.node)
        ∧ (y.mismatch.getLsbD 4 = true ↔ 2 ≤ port.val ∧ r.serial ≠ Config.serial)

/-- The states of a port (R290, R293 to R295): training, its end, on an on-module port of both ends, with its credits and its IDENT, and its timeout;
RETRAIN keeps SEQ, ACK, credits and the replay buffer, and its end the flits after the far end's ACK; DEAD goes to DOWN and trains again where the
port may; PORT_EN turns a port off and on. -/
def Obligations.PortStates : Prop :=
  ∀ (ch : Fin 32) (port : Fin 6) (s : State),
    let x := s.port ch.val port.val
    let c := s.chan ch.val
    let at_ (t : State) : Port := t.port ch.val port.val
    let lanesOk (n : Fin 5) : Prop := n = 1 ∨ n = 2 ∨ (n = 4 ∧ port.val < 2)
    let mayTrain : Prop := c.refOk = true ∧ s.up ch.val = true ∧ c.portEn.getLsbD port.val = true
    let retrains (cmd : Instr) : Prop := Completes cmd s fun t =>
      let y := at_ t
      y.state = .retrain ∧ y.beforeRetrain = x.state ∧ y.txSeq = x.txSeq ∧ y.rxAck = x.rxAck ∧ y.replay = x.replay ∧ y.credits = x.credits
    let dies (cmd : Instr) : Prop := Completes cmd s fun t =>
      (mayTrain → (at_ t).state = .training) ∧ (¬ mayTrain → (at_ t).state = .down) ∧ (at_ t).replay = [] ∧ (at_ t).txSeq = 0
    (∀ n, x.state = .training → lanesOk n → s.bothTrain ch.val port.val = true → Completes (.trainingComplete ch port n) s fun t =>
      (at_ t).state = .ident ∧ (at_ t).width = n
        ∧ (x = { Port.down with state := .training, far := x.far, mismatch := x.mismatch } →
            (∀ v, v < 12 → tget 0 (at_ t).credits v = grantedSlots port.val v)
              ∧ ∃ f ∈ (at_ t).wire, f.kind = .ctrl ∧ f.parts.map (·.msg.body) = [.management (.ident (s.identOf ch.val port.val))]))
    ∧ (x.state = .training → Completes (.trainingTimeout ch port) s fun t => at_ t = { Port.down with far := x.far, mismatch := x.mismatch })
    ∧ (x.state = .down → mayTrain → Completes (.trainingRetry ch port) s fun t => (at_ t).state = .training)
    ∧ (x.state = .coherent ∨ x.state = .quarantine ∨ x.state = .retrain → dies (.freshStartPattern ch port) ∧ dies (.linkDeadTimeout ch port))
    ∧ (x.state = .ident → dies (.linkDeadTimeout ch port))
    ∧ (x.established = true → c.autoRetrain = true → retrains (.autoRetrainTrigger ch port))
    ∧ (x.established = true → retrains (.portRetrainRequest ch port))
    ∧ (x.established = false → Completes (.portRetrainRequest ch port) s fun t => t = s)
    ∧ (∀ n a, x.state = .retrain → lanesOk n → Completes (.retrainComplete ch port n a) s fun t =>
        (at_ t).state = x.beforeRetrain ∧ (at_ t).width = n ∧ ∀ f ∈ x.replay, 2048 ≤ (a - f.seq).toNat → f ∈ (at_ t).replay)
    ∧ (Completes (.portDisable ch port) s fun t => (at_ t).state = .down ∧ (t.chan ch.val).portEn = c.portEn &&& ~~~BitVec.ofNat 6 (2 ^ port.val))
    ∧ (Completes (.portEnable ch port) s fun t =>
        (t.chan ch.val).portEn = c.portEn ||| BitVec.ofNat 6 (2 ^ port.val)
          ∧ (at_ t).state = if x.state = .down ∧ c.refOk = true ∧ s.up ch.val = true then .training else x.state)

/-- Nodes that are lost and found (R288, R296, R297): a silent or pathless node, and one that says so itself, becomes unreachable and its lines leave
the slices; NODE_LOST is answered with NODE_REJOIN, which makes the node reachable with fresh streams; CHANNEL_RESET, of another node or of a channel
of this device, completes the outstanding requests lost, moves the stream 1,024 TXNs on and sends the new TXN in STREAM_RESTART, which sets the base
of the received stream. -/
def Obligations.Nodes : Prop :=
  (∀ (n : Fin 512) (theirs ch : Fin 32) (s : State),
    let key := streamKey n theirs.val
    let st := (s.chan ch.val).tx key
    n ∉ s.hub.unreachable → st.waiting = [] → (n = s.hub.node → theirs ≠ ch) →
    (∀ e ∈ s.lines, e.2.busy = none ∧ e.2.queue = [] ∧ e.2.ask = none) →
    Completes (.channelReset n theirs ch) s fun t =>
      (t.chan ch.val).tx key = ⟨st.txn + 1024, [], []⟩
        ∧ (n ≠ s.hub.node → tget RxStream.fresh (t.chan ch.val).rxStreams key = .fresh)
        ∧ (∀ u ∈ st.unreleased, u.msg.kind.isReq = true → lostReply u.msg ∈ t.msgs)
        ∧ ∃ y, t.hub.nodeMsgs = s.hub.nodeMsgs ++ [y] ∧ y.body = .management (.streamRestart (st.txn + 1024)) ∧ y.srcCh = ch ∧ y.dstNode = n ∧ y.dstCh = theirs)
  ∧ (∀ (n : Fin 512) (theirs ch : Fin 32) (base : BitVec 16) (s : State), Completes (.streamRestart n theirs ch base) s fun t =>
      tget RxStream.fresh (t.chan ch.val).rxStreams (streamKey n theirs.val) = { RxStream.fresh with known := true, base := base } ∧ t.mem = s.mem
        ∧ ∀ k, k ≠ ch.val → t.chan k = s.chan k)
  ∧ ∀ (n : Fin 512) (s : State), n ≠ s.hub.node →
    let lost (t : State) : Prop :=
      t.hub.unreachable = s.hub.unreachable ++ [n] ∧ ∀ l, lineNode l = n.val → (t.slice l).present = false
    (n ∉ s.hub.unreachable → s.awaitsNode n = true → Completes (.requestSilenceTimeout n) s lost)
    ∧ (n ∉ s.hub.unreachable → s.hasPath n.val = false → Completes (.noPathTimeout n) s lost)
    ∧ (∀ theirs ch : Fin 32, Completes (.nodeLost n theirs ch) s fun t => (n ∉ s.hub.unreachable → lost t)
        ∧ ∃ y, t.hub.nodeMsgs = s.hub.nodeMsgs ++ [y] ∧ y.body = .management .nodeRejoin ∧ y.srcCh = ch ∧ y.dstNode = n ∧ y.dstCh = theirs)
    ∧ (n ∈ s.hub.unreachable → Completes (.nodeRejoin n) s fun t =>
        n ∉ t.hub.unreachable ∧ t.mem = s.mem ∧ ∀ k j, k < 32 → j < 32 → (t.chan k).tx (streamKey n j) = .fresh)
    ∧ (n ∉ s.hub.unreachable → Completes (.nodeRejoin n) s fun t => t = s)
    ∧ (n ∈ s.hub.unreachable → s.hasPath n.val = true → Completes (.nodeLostTimer n) s fun t => t = s.mgtSend s.firstUp n s.firstUp .nodeLost)

/-- Every command that recomputes the pace leaves the sustainable pace of R389 and, while no firmware hands over, the applied pace of R392. A report
of a peer is kept unless its sequence is old (R298); a peer whose reports stop leaves the minimum. The Governor and what stops a channel (R25, R385 to
R391, R396 to R403): the rail stays between 0.40 V and 0.75 V and moves by at most 10 mV, up while the pace is missed, down in hold; how far it steps
is open (notes/assumptions/2.md). A trip puts its channel in hold at 0.40 V, COOLANT_FAIL the device. -/
def Obligations.PaceAndGovernor : Prop :=
  (
    ∀ (s : State),
      let paced (t : State) : Prop :=
        t.hub.sustainable = BitVec.ofNat 16 t.sustainableNow
          ∧ ((∀ c ∈ s.chans, c.2.handoff = false) → t.hub.applied = BitVec.ofNat 16 (t.hub.appliedOf t.sustainableNow))
      (∀ (n : Fin 512) (pace : BitVec 16) (q : DWord),
          let old := tget PeerPace.none s.hub.peers n.val
          ((old.known = false ∨ old.seqNo < q) → Completes (.paceReport n pace q) s fun t =>
            tget PeerPace.none t.hub.peers n.val = ⟨true, true, pace, q⟩ ∧ paced t ∧ t.mem = s.mem)
          ∧ (old.known = true → q ≤ old.seqNo → Completes (.paceReport n pace q) s fun t => t = s)
          ∧ (old.fresh = true → s.hub.inForce.peerMask.getLsbD n.val = true → Completes (.pacePeerStale n) s fun t =>
            (tget PeerPace.none t.hub.peers n.val).fresh = false ∧ paced t))
      ∧ (s.upChans ≠ [] → s.hub.inForce.peerMask ≠ 0 → Completes .paceReportTimer s fun t =>
          t.hub.reportsSent = s.hub.reportsSent ++ [(s.hub.sustainable, s.hub.powerOn ++ s.hub.reportCount)] ∧ t.hub.reportCount = s.hub.reportCount + 1)
      ∧ (s.hub.powered = true → Completes .inputUndervoltage s fun t => t.hub.undervolt = true ∧ t.hub.sustainable = 0 ∧ paced t)
      ∧ (s.hub.powered = true → s.hub.undervolt = true → Completes .undervoltageEnd s fun t => t.hub.undervolt = false ∧ paced t)
      ∧ (∀ mean mv : Nat, s.hub.powered = true → Completes (.powerInterval mean mv) s fun t =>
          let limit := Nat.min (1000 * s.hub.dict.powerLimit.toNat) (125 * mv)
          let p := s.hub.pPower.toNat
          let target := s.hub.dict.paceTarget.toNat
          t.hub.inForce = s.hub.dict ∧ paced t
            ∧ (target = 0 → t.hub.pPower = s.hub.pPower)
            ∧ (target ≠ 0 → limit < mean → t.hub.pPower.toNat = Nat.max (p - 0x40) 0x100)
            ∧ (target ≠ 0 → mean ≤ limit → 100 * mean < 98 * limit → p < target → t.hub.pPower.toNat = Nat.min (p + 0x10) target)
            ∧ (target ≠ 0 → mean ≤ limit → (98 * limit ≤ 100 * mean ∨ target ≤ p) → t.hub.pPower = s.hub.pPower))
      ∧ (∀ (e : Nat) (rs : List (Fin 32 × Option (Fin 2048) × Nat)), s.hub.powered = true → Completes (.energyInterval e rs) s fun t =>
          1000 * t.hub.deviceEnergy + t.hub.deviceMicro = 1000 * s.hub.deviceEnergy + s.hub.deviceMicro + e ∧ t.mem = s.mem ∧ t.cores = s.cores)
  )
  ∧ (
    ∀ (ch : Fin 32) (s : State),
      let c := s.chan ch.val
      let at_ (t : State) : Channel := t.chan ch.val
      (∀ low mean, s.up ch.val = true → c.refRunning = true → c.issueStopped = false → Completes (.pacemonWindow ch low mean) s fun t =>
          (at_ t).paceMin = low ∧ (at_ t).paceMean = mean ∧ t.cores = s.cores ∧ t.mem = s.mem)
      ∧ (∀ (low : BitVec 16) (die stack : Int), s.up ch.val = true → c.refRunning = true → 400 ≤ c.railMilliVolts → c.railMilliVolts ≤ 750 →
          let v := c.railMilliVolts
          let slow : Prop := s.hub.applied.toNat < (c.curve.getD 0 0).toNat
          Completes (.governorEpoch ch low die stack) s fun t =>
            let r := (at_ t).railMilliVolts
            (at_ t).hottestDie = die ∧ (at_ t).hottestStack = stack ∧ 400 ≤ r ∧ r ≤ 750 ∧ r ≤ v + 10 ∧ v ≤ r + 10
              ∧ (c.handoff = true → r = v)
              ∧ (c.handoff = false → s.inHold ch.val = true ∨ slow → r = 400 ∨ r < v)
              ∧ (c.handoff = false → s.inHold ch.val = false → ¬ slow → low.toNat < s.hub.applied.toNat → r = 750 ∨ v < r)
              ∧ (c.handoff = false → s.inHold ch.val = false → ¬ slow → s.hub.applied.toNat ≤ low.toNat →
                  100 * low.toNat ≤ 103 * s.hub.applied.toNat → r = v))
      ∧ (s.up ch.val = true → c.refRunning = true → c.handoff = false → Completes (.curveRefitTimer ch) s fun t =>
          (at_ t).points = [] ∧ (at_ t).curve.length = 8 ∧ (c.curve.length = 8 → rising c.curve = true → rising (at_ t).curve = true)
            ∧ ∀ i, i < 8 → (c.points.filter fun p => decide (2 * p.1 ≤ 2 * (400 + 50 * i) + 25) && decide (2 * (400 + 50 * i) ≤ 2 * p.1 + 25)).length < 64 →
                (at_ t).curve.getD i 0 = c.curve.getD i 0)
      ∧ (∀ die stack : Int, s.up ch.val = true → c.tripped = false → (880 ≤ die ∨ 800 ≤ stack) → Completes (.thermalTrip ch die stack) s fun t =>
          (at_ t).tripped = true ∧ (at_ t).trips = c.trips + 1 ∧ (at_ t).railMilliVolts = 400 ∧ t.hub.trip = true ∧ t.issuing ch.val = false)
      ∧ (∀ die stack : Int, s.up ch.val = true → c.tripped = true → die ≤ 8 * s.hub.inForce.tjLimit.toNat → stack ≤ 8 * s.hub.inForce.stackLimit.toNat →
          Completes (.tripRecovery ch die stack) s fun t => (at_ t).tripped = false ∧ t.hub = s.hub)
      ∧ (s.hub.powered = true → s.hub.pin = false → Completes .coolantFail s fun t =>
          t.hub.pin = true ∧ t.hub.coolant = true ∧ t.hub.coolantStops = satAdd s.hub.coolantStops 1 ∧ t.hub.sustainable = 0
            ∧ (s.up ch.val = true → (at_ t).railMilliVolts = 400) ∧ t.issuing ch.val = false ∧ t.mem = s.mem)
      ∧ (s.hub.powered = true → s.hub.pin = true → Completes .coolantFailDeassert s fun t =>
          t.hub.pin = false ∧ t.hub.coolant = s.hub.coolant
            ∧ (s.hub.coolant = false → t.hub.pPower = s.hub.inForce.paceStart ∧ (at_ t).pTherm = s.hub.inForce.paceStart))
  )

/-- What starts a channel reset (R17, R26, R274, R343, R350): the channel's state becomes resetting, its cause is kept, its counter stops at 0, and
its cores hold nothing; a lost Leat reference holds it there until it is qualified. CHANNEL_RESET_SEQUENCE (R206, R274, R287, R350): a reset that has
begun ends in state 2 or 3, or 0 after the third isolation in succession; its incarnation has risen, its map is the hub store's, or the one that the
journal shows as committed, and its allocated objects are broken. The hub and its supply (R20, R344, R345, R438, R443): a hub reset ends every
context, launch, object and message and keeps the store; PERST_N and a stable reference let the boot chain run; a lost reference holds the field bus
in bus-off; a loss of input power ends everything volatile, and power-on counts. CHANNEL_BRING_UP (R245, R251, R444, R445): a channel whose memory
does not train or is not initialised, or whose ports fail, is down; otherwise it comes up, and after power-on its memory reads zero. -/
def Obligations.ResetsAndBringUp : Prop :=
  (
    ∀ (ch : Fin 32) (s : State),
      let c := s.chan ch.val
      let begun (t : State) (cause : Fin 4) : Prop :=
        (t.chan ch.val).state = 1 ∧ (t.chan ch.val).resetCause = some cause ∧ (t.chan ch.val).refcnt = 0 ∧ (t.chan ch.val).refRunning = false
          ∧ (t.chan ch.val).selfRefresh = true ∧ (∀ k, channelOfCore k = ch.val → t.core k = .idle)
          ∧ ∀ k, k / 128 = ch.val → ∀ l, (t.copyOf k l).state = .i
      (s.up ch.val = true →
        (s.hub.powered = true → Completes (.supplyFault ch) s fun t => begun t 1 ∧ (t.chan ch.val).supplyFault = true)
        ∧ (s.hub.powered = true → c.refOk = true → Completes (.leatReferenceLoss ch) s fun t =>
            begun t 2 ∧ (t.chan ch.val).refOk = false ∧ (t.chan ch.val).refLost = true)
        ∧ Completes (.controllerWatchdog ch) s (fun t => begun t 3)
        ∧ ((∀ p, 2 ≤ p → p < 6 → (s.port ch.val p).state ≠ .coherent) → Completes (.channelIsolationTimeout ch) s fun t =>
            begun t 0 ∧ (t.chan ch.val).isolations = c.isolations + 1))
      ∧ (s.hub.powered = true → c.refOk = false → Completes (.leatReferenceQualified ch) s fun t =>
          (t.chan ch.val).refOk = true ∧ t.mem = s.mem ∧ t.hub = s.hub)
  )
  ∧ (
    ∀ (ch : Fin 32) (bad : List (Fin 128 × Fin 264)) (failed : List (Fin 64)) (es : List (Fin 2 × Nat × BitVec 512)) (s : State) (cause : Fin 4),
      let c := s.chan ch.val
      c.resetCause = some cause → c.refOk = true → c.state = 1 →
      Completes (.channelResetSequence ch bad failed es) s fun t =>
        let d := t.chan ch.val
        (cause = 0 ∧ 3 ≤ c.isolations → d.state = 0) ∧ (¬ (cause = 0 ∧ 3 ≤ c.isolations) → d.state = 2 ∨ d.state = 3)
          ∧ d.resetCause = none ∧ d.incarnation = c.incarnation + 1 ∧ d.selfRefresh = c.rest
          ∧ (c.memInit = false → d.mapOrder = (match (c.spoilJournal es).journalSays with | .committed a => a.pc :: c.storeOrder | _ => c.storeOrder))
          ∧ ∀ n, (s.obj n).alloc = true → objChan n = ch.val → (t.obj n).broken = true ∧ (t.obj n).flag = false ∧ (t.obj n).payload = 0
  )
  ∧ (
    ∀ (s : State),
      let cleared (t : State) : Prop :=
        t.cores = [] ∧ t.clusters = [] ∧ t.fns = [] ∧ t.ctxs = [] ∧ t.launches = [] ∧ t.objs = [] ∧ t.lines = [] ∧ t.msgs = [] ∧ t.signals = []
          ∧ t.hub.ready = false ∧ t.hub.ownerKey = s.hub.ownerKey ∧ t.hub.floorHub = s.hub.floorHub ∧ t.hub.floorChan = s.hub.floorChan
          ∧ t.hub.powerOn = s.hub.powerOn ∧ (s.hub.restoreAsked = false → t.hub.dict = s.hub.dict)
      (s.hub.powered = true → Completes .hubReset s fun t => cleared t ∧ t.hub.perstN = true ∧ t.hub.coolantStops = s.hub.coolantStops)
      ∧ (s.hub.powered = true → s.hub.inReset = false → Completes .hubWatchdog s cleared)
      ∧ (s.hub.powered = true → s.hub.perstN = false → Completes .perstNRise s fun t =>
          t.hub.perstN = true ∧ (s.hub.refLost = true → t.hub.inReset = s.hub.inReset)
            ∧ (s.hub.refLost = false → s.hub.inReset = true → t.hub.inReset = t.hub.bootFailed))
      ∧ (s.hub.powered = true → s.hub.refLost = false → Completes .hubReferenceLoss s fun t =>
          t = s.unmoderate.setHub fun h => { h with refLost := true, busState := 3, transmit := [] })
      ∧ (s.hub.powered = true → s.hub.refLost = true → Completes .hubReferenceStable s fun t =>
          t.hub.refLost = false ∧ (t.hub.busState = 1 ↔ s.hub.address ≠ 0 ∧ s.hub.address ≠ 127))
      ∧ (s.hub.powered = true → Completes .inputOutOfRange s fun t => cleared t ∧ t.hub.powered = false ∧ ∀ ch, ch < 32 → (t.chan ch).state = 0 ∨ (t.chan ch).state = 4)
      ∧ (s.hub.powered = false → Completes .devicePowerOn s fun t =>
          t.hub.powered = true ∧ t.hub.powerOn = s.hub.powerOn + 1 ∧ t.hub.unreachable = s.coherentNodes)
      ∧ (∀ late, s.hub.powered = true → s.hub.inReset = false → s.hub.ready = false → (late = true ∨ ∀ ch, ch < 32 → (s.chan ch).state ≠ 1) →
          Completes (.hubReady late) s fun t => t = s.setHub fun h => { h with ready := true })
  )
  ∧ (
    ∀ (ch : Fin 32) (x : Sys2Proof.BringUp) (s : State),
      let c := s.chan ch.val
      c.state = 1 → c.resetCause = none → c.refOk = true → s.hub.inReset = false → s.hub.powered = true →
      ((c.curve = [] ∨ c.curveClear = true) → rising x.sweep = true ∧ x.sweep.length = 8) →
      (x.trained = false ∨ x.initOk = false → Completes (.channelBringUp ch x) s fun t => (t.chan ch.val).state = 0 ∧ t.mem = s.mem)
      ∧ (x.trained = true → x.initOk = true → x.portsOk = false → Completes (.channelBringUp ch x) s fun t =>
          (t.chan ch.val).state = 0 ∧ (t.chan ch.val).refRunning = false)
      ∧ (x.trained = true → x.initOk = true → x.portsOk = true → Completes (.channelBringUp ch x) s fun t =>
          ((t.chan ch.val).state = 2 ∨ (t.chan ch.val).state = 3) ∧ (t.chan ch.val).refRunning = true ∧ (t.chan ch.val).memInit = false
            ∧ (c.memInit = true → x.badCores = [] → s.hub.retiredCores = [] → s.ctxs = [] → ∀ a, a / 2 ^ 43 % 32 = ch.val → readByte t.mem a = 0))
  )

/-- NOP and STREAM_FENCE end with SUCCESS and change nothing else; WRITE stores its bytes at their translated places, and COPY moves bytes between
host and device, each ending with its count; a range that does not translate ends with TRANSLATION_FAULT and writes no byte of it (R310, R314, R315):
memory is as reading the page tables left it, where errors in a codeword may show (R242). -/
def Obligations.HostTransfers : Prop :=
  ∀ (c : CmdRef) (x : Cmd) (s : State),
    let k := refContext c
    let r := x.record
    (∀ y ∈ [((0x00 : Byte), Instr.nopCommand c), (0x0F, .streamFence c)], MayStart c y.1 x s → Completes y.2 s fun t =>
      EndsWith c x (stSuccess, 0) t ∧ t.mem = s.mem ∧ t.cores = s.cores ∧ t.objs = s.objs ∧ t.msgs = s.msgs ∧ t.hub = s.hub ∧ t.lines = s.lines)
    ∧ (MayStart c 0x02 x s →
        let va := recNat r 16 8
        let n := recNat r 12 1
        (∀ f, (s.pinRange k va n true).1.2 = some f → Completes (.write c) s fun t =>
            EndsWith c x (translationFault f) t ∧ t.mem = (s.pinRange k va n true).2.mem)
        ∧ (∀ pages, (s.pinRange k va n true).1 = (pages, none) → RangeAtRest (s.pinRange k va n true).2 pages va n → Completes (.write c) s fun t =>
            EndsWith c x (stSuccess, 0) t ∧ ∀ i, i < n → byteThrough t pages (va + i) = some (BitVec.ofNat 8 (recNat r 32 32 / 2 ^ (8 * i)))))
    ∧ (∀ bytes : List Byte, MayStart c 0x03 x s → (s.fnOf c.fn.val).busMaster = true →
        let va := recNat r 24 8
        let n := recNat r 32 4
        (recNat r 12 1 = 0 → bytes.length = n →
          (∀ f, (s.pinRange k va n true).1.2 = some f → Completes (.copy c bytes) s fun t =>
              EndsWith c x (translationFault f) t ∧ t.mem = (s.pinRange k va n true).2.mem)
          ∧ (∀ pages, (s.pinRange k va n true).1 = (pages, none) → RangeAtRest (s.pinRange k va n true).2 pages va n → n ≤ 2 ^ 24 → Completes (.copy c bytes) s fun t =>
            EndsWith c x (stSuccess, BitVec.ofNat 64 n) t ∧ ∀ i, i < n → byteThrough t pages (va + i) = bytes[i]?))
        ∧ (recNat r 12 1 = 1 → bytes = [] → ∀ pages got, (s.pinRange k va n false).1 = (pages, none) →
            ((s.pinRange k va n false).2.readRange pages va n).1 = (got, none, none) → Completes (.copy c bytes) s fun t =>
              EndsWith c x (stSuccess, BitVec.ofNat 64 n) t ∧ t.mem = ((s.pinRange k va n false).2.readRange pages va n).2.mem ∧ ∀ i b, got[i]? = some b → tget none t.hostMem (recNat r 16 8 + i) = some b))

/-- SEGMENT, INVALIDATE and RESOLVE (R254, R255, R264, R265, R269): a valid descriptor is written at its number, a bad one ends with the status of
R255 and changes no segment; replacing a valid one, and INVALIDATE, drop the range's translations from every TLB and go on until its uses have ended;
RESOLVE drops the page's translations and closes its fault entries. -/
def Obligations.TranslationCommands : Prop :=
  ∀ (c : CmdRef) (x : Cmd) (s : State),
    let k := refContext c
    let r := x.record
    let dropped (t : State) (p : TlbEntry → Bool) : Prop := ∀ j, ∀ e ∈ (t.cluster j).tlb, e.2.ctx.val = k → p e.2 = false
    (MayStart c 0x04 x s →
      let g := descSegment r
      let i := recNat r 12 1
      let old := tget Segment.none (s.ctx k).segs i
      let at_ (t : State) : Prop := tget Segment.none (t.ctx k).segs i = if g.valid then g else Segment.none
      (∀ st, g.valid = true → s.segmentBad (s.ctx k) c.fn.val i r = some st → Completes (.segment c) s fun t =>
          EndsWith c x (fails st) t ∧ (t.ctx k).segs = (s.ctx k).segs)
      ∧ ((g.valid = true → s.segmentBad (s.ctx k) c.fn.val i r = none) →
          (old.valid = false → Completes (.segment c) s fun t => EndsWith c x (stSuccess, 0) t ∧ at_ t)
          ∧ (old.valid = true → Completes (.segment c) s fun t =>
              GoesOn c x t (fun y => y.range.isSome = true) ∧ at_ t
                ∧ dropped t fun e => meets old.start old.bytes (e.page * pageSize e.big) (pageSize e.big))))
    ∧ (MayStart c 0x05 x s → Completes (.invalidate c) s fun t =>
        GoesOn c x t (fun y => (y.range.map Prod.snd) = some (recNat r 16 8, recNat r 24 8))
          ∧ dropped t fun e => meets (recNat r 16 8) (recNat r 24 8) (e.page * pageSize e.big) (pageSize e.big))
    ∧ (MayStart c 0x06 x s → Completes (.resolve c) s fun t =>
        EndsWith c x (stSuccess, 0) t
          ∧ (∀ j, j < 4096 → ∀ e ∈ (t.cluster j).tlb, e.2.ctx.val = k → inPage e.2.page e.2.big (recNat r 16 8) = false)
          ∧ ∀ ch, ch < 32 → ∀ f ∈ (t.chan ch).faults, f.ctx.val = k → inPage f.page f.big (recNat r 16 8) = false)

/-- The commands on sync objects (R184 to R186, R206, R314, R315): SYNC_ALLOC takes a free object of the set named, which one is open
(notes/assumptions/2.md); SYNC_FREE frees it and moves its generation on; an operation changes the object as R187 says and answers what stood there
before; a handle that names no object of the context ends the command with the status of R320. -/
def Obligations.ObjectCommands : Prop :=
  ∀ (c : CmdRef) (x : Cmd) (s : State),
    let k := refContext c
    let r := x.record
    let set := (s.ctx k).chset
    let want := recNat r 13 1
    let fits (n : Nat) : Prop := n < 262144 ∧ set.getLsbD (objChan n) = true ∧ (want = 0xFF ∨ objChan n = want) ∧ (s.obj n).alloc = false
    let h := recHandle r
    let o := s.obj (handleNum h)
    let v : BitVec 62 := BitVec.ofNat 62 (recNat r 24 8)
    let others (n : Nat) (t : State) : Prop := ∀ m, m ≠ n → t.obj m = s.obj m
    (MayStart c 0x07 x s →
      ((∃ n, fits n) → (want = 0xFF ∨ (want < 32 ∧ set.getLsbD want = true)) → Completes (.syncAlloc c) s fun t =>
        ∃ n, fits n ∧ others n t ∧ EndsWith c x (stSuccess, (handleOf n (t.obj n)).setWidth 64) t
          ∧ t.obj n = { s.obj n with
              alloc := true, owner := (BitVec.ofNat 11 k).toFin, watch := decide (recNat r 12 1 = 1), flag := false,
              payload := BitVec.ofNat 62 (recNat r 16 8), broken := false })
      ∧ ((¬ ∃ n, fits n) → (want = 0xFF ∨ (want < 32 ∧ set.getLsbD want = true)) → Completes (.syncAlloc c) s fun t =>
        EndsWith c x (stNoResource, 0) t ∧ t.objs = s.objs)
      ∧ (want ≠ 0xFF → ¬ (want < 32 ∧ set.getLsbD want = true) → Completes (.syncAlloc c) s fun t => EndsWith c x (stInvalidArgument, 0) t ∧ t.objs = s.objs))
    ∧ (MayStart c 0x08 x s →
      (∀ st, s.objStatus k h true = some st → Completes (.syncFree c) s fun t => EndsWith c x (fails st) t ∧ t.objs = s.objs)
      ∧ (s.objStatus k h true = none → Completes (.syncFree c) s fun t =>
          EndsWith c x (stSuccess, 0) t ∧ (t.obj (handleNum h)).alloc = false ∧ (t.obj (handleNum h)).gen = o.gen + 1
            ∧ (t.obj (handleNum h)).waits = [] ∧ others (handleNum h) t))
    ∧ (∀ y ∈ [(0, Instr.syncOpSet c, { o with flag := true }), (1, .syncOpClear c, { o with flag := false }), (2, .syncOpTest c, o),
          (3, .syncOpAdd c, { o with payload := o.payload + v }), (4, .syncOpSetPayload c, { o with flag := true, payload := v })],
        MayStart c 0x09 x s → recNat r 16 1 = y.1 →
        (∀ st, s.objStatus k h false = some st → Completes y.2.1 s fun t => EndsWith c x (fails st) t ∧ t.objs = s.objs)
        ∧ (s.objStatus k h false = none → Completes y.2.1 s fun t =>
            EndsWith c x (stSuccess, o.result) t ∧ others (handleNum h) t ∧ (o.waits = [] → t.obj (handleNum h) = y.2.2)))

/-- The settings of a context (R136, R144, R322): MONITOR_AREA, CTX_MODE, whose result is the old mode with the sticky flags, and CQ_SET, which starts
an empty area. EXC_ACTION on a stopped group (R318): RESUME lets it go on at the recorded address, END ends it and marks its launch, ABORT ends its
launch; a group that is not stopped ends the command with INVALID_ARGUMENT. -/
def Obligations.SettingsAndExceptions : Prop :=
  (
    ∀ (c : CmdRef) (x : Cmd) (s : State),
      let k := refContext c
      let r := x.record
      (MayStart c 0x0A x s →
        let base := recNat r 16 8
        let n := recNat r 24 2
        (∀ f, (s.pinRange k base (64 * n) true).1.2 = some f → Completes (.monitorArea c) s fun t => EndsWith c x (translationFault f) t ∧ (t.ctx k).mon = (s.ctx k).mon)
        ∧ (∀ pages, (s.pinRange k base (64 * n) true).1 = (pages, none) → Completes (.monitorArea c) s fun t =>
            EndsWith c x (stSuccess, 0) t ∧ (t.ctx k).mon = some (BitVec.ofNat 64 base, n, pages)))
      ∧ (MayStart c 0x0B x s →
        let m := recNat r 12 1
        let y := s.ctx k
        (m.testBit 2 = y.plane ∨ s.busyWith k (some x.stamp) = false → Completes (.ctxMode c) s fun t =>
            EndsWith c x (stSuccess, BitVec.ofNat 64 (y.cmode + y.sticky.toNat * 2 ^ 8)) t
              ∧ (t.ctx k).flush = m.testBit 0 ∧ (t.ctx k).satNaR = m.testBit 1 ∧ (t.ctx k).plane = m.testBit 2
              ∧ (t.ctx k).sticky = if m.testBit 7 then 0 else y.sticky)
        ∧ (m.testBit 2 ≠ y.plane → s.busyWith k (some x.stamp) = true → Completes (.ctxMode c) s fun t =>
            EndsWith c x (stBusy, 0) t ∧ (t.ctx k).plane = y.plane ∧ (t.ctx k).sticky = y.sticky))
      ∧ (MayStart c 0x0C x s →
        let j := recNat r 24 2
        (∀ st, s.namesContext c.fn.val j = some st → Completes (.cqSet c) s fun t => EndsWith c x (fails st) t)
        ∧ (c.ctx = none → s.namesContext c.fn.val j = none → s.busyWith j none = false → recNat r 12 1 = 0 → Completes (.cqSet c) s fun t =>
            EndsWith c x (stSuccess, 0) t
              ∧ (t.ctx j).cq = { base := BitVec.ofNat 64 (recNat r 16 8), log2n := BitVec.ofNat 5 (recNat r 14 1), vector := (BitVec.ofNat 5 (recNat r 13 1)).toFin,
                                 enabled := true, virt := false, pages := [], head := 0, tail := 0, held := [] }))
  )
  ∧ (
    ∀ (c : CmdRef) (x : Cmd) (s : State),
      let k := refContext c
      let gid := recGroup x.record
      MayStart c 0x0D x s →
      (s.findStopped k gid = none → s.findSaved k gid = none →
        ∀ y ∈ [(0, Instr.excActionResume c), (1, .excActionEnd c), (2, .excActionAbort c)], recNat x.record 12 1 = y.1 →
          Completes y.2 s fun t => EndsWith c x (stInvalidArgument, 0) t ∧ t.cores = s.cores)
      ∧ (∀ (core slot : Nat) (e : Exc), s.findStopped k gid = some (core, slot, e) →
          let g := s.groupAt core slot
          let l := ((s.core core).block g.block.val).launch
          (recNat x.record 12 1 = 0 → Completes (.excActionResume c) s fun t =>
              EndsWith c x (stSuccess, 0) t ∧ (g.mask ≠ 0 → noJoinAt g e.pc → RunsAt (t.groupAt core slot) e.pc g.mask g.stack))
          ∧ (recNat x.record 12 1 = 1 → (s.core core).draining110 slot = false → Completes (.excActionEnd c) s fun t =>
              EndsWith c x (stSuccess, 0) t ∧ (t.launchOf l).excEnd = true)
          ∧ (recNat x.record 12 1 = 2 → Completes (.excActionAbort c) s fun t =>
              EndsWith c x (stSuccess, 0) t ∧ (t.launchOf l).aborted = true))
  )

/-- LAUNCH (R31, R36, R316, R317): a record that fails its checks ends with INVALID_ARGUMENT and places no block; one that passes goes on as a launch
with its fields, or ends with NO_ROOM. Its blocks are shared over its channels in ascending order, in ranges whose sizes differ by at most one. -/
def Obligations.Launches : Prop :=
  (∀ (c : CmdRef) (x : Cmd) (s : State) (pages : List Pin) (b : List Byte),
    let k := refContext c
    let va := recNat x.record 16 8
    MayStart c 0x01 x s → (s.pinRange k va 128 false).1 = (pages, none) →
    ((s.pinRange k va 128 false).2.readRange pages va 128).1 = (b, none, none) →
    (lrecOk (s.ctx k) b = false → Completes (.launch c) s fun t => EndsWith c x (stInvalidArgument, 0) t ∧ t.launches = s.launches ∧ t.cores = s.cores)
    ∧ (lrecOk (s.ctx k) b = true → Completes (.launch c) s fun t =>
        t.cores = s.cores ∧ t.mem = ((s.pinRange k va 128 false).2.readRange pages va 128).2.mem
          ∧ ((EndsWith c x (stNoRoom, 0) t ∧ t.launches = s.launches)
            ∨ ∃ id, GoesOn c x t (fun y => y.launchId = some id) ∧ (t.launchOf id).live = true ∧ (t.launchOf id).ended = false
                ∧ (t.launchOf id).program = BitVec.ofNat 64 (lrec b 0 8) ∧ (t.launchOf id).argptr = BitVec.ofNat 64 (lrec b 8 8)
                ∧ (t.launchOf id).grid = lrec b 16 4 ∧ (t.launchOf id).chset = lrecChset b ∧ (t.launchOf id).groups = lrecGroups b
                ∧ (t.launchOf id).regs = lrecRegs b)))
  ∧ (∀ (grid : Nat) (chans : List Nat), chans ≠ [] →
    let r := shares grid chans
    (r.map fun y => y.1) = chans
      ∧ (r.map fun y => y.2.2 - y.2.1).sum = grid
      ∧ (∀ y ∈ r, y.2.1 ≤ y.2.2 ∧ ∀ z ∈ r, y.2.2 - y.2.1 ≤ (z.2.2 - z.2.1) + 1)
      ∧ ∀ i y z, r[i]? = some y → r[i + 1]? = some z → y.2.2 = z.2.1)

/-- COMMAND_SUBMIT by the checks of R305, and COMMAND_COMPLETION_POST (R303, R305, R307, R308, R312, R326): a write of another form, for another
stream or for no area is discarded and counted; a record of the function stream set waits while Bus Master Enable is 0, at most 64 of them; a stale,
running, completed or new sequence number is handled as the table of R307 says; a new record joins its stream and moves H, one that fails check 6 or 7
being done at once; a SUMMARY is captured as it is accepted, and its bytes reach its buffer; a command that has completed leaves its stream, and its
record is posted or held. -/
def Obligations.HostPort : Prop :=
  (∀ (fn : Fin 257) (offset : BitVec 20) (bytes : Nat) (en : Bool) (r : BitVec 512) (s : State), s.hub.ready = true →
    let n := fn.val
    let c := Instr.commandSubmit fn offset bytes en r
    let ctx : Option Nat := if recFn r then none else some (recCtx r).val
    let i := (recStream r).val
    let x := s.stream n ctx i
    let formed := bytes = 64 ∧ en = true ∧ offset.toNat % 64 = 0 ∧ i = offset.toNat / 65536
    let waits := recFn r = true ∧ (s.fnOf n).busMaster = false
    let named := match ctx with
      | none => (s.fnOf n).storeEn = true ∧ (s.fnOf n).cq.enabled = true
      | some k => (s.ctx k).state ≠ .absent ∧ (s.ctx k).fn.val = n ∧ (s.ctx k).cq.enabled = true
    let discarded (t : State) : Prop :=
      (t.fnOf n).badWrite = satAdd (s.fnOf n).badWrite 1 ∧ (t.fnOf n).streams = (s.fnOf n).streams ∧ (t.fnOf n).queued = (s.fnOf n).queued
        ∧ t.ctxs = s.ctxs ∧ t.cores = s.cores ∧ t.mem = s.mem ∧ t.hostMem = s.hostMem ∧ t.hub = s.hub
    let same (t : State) : Prop := t.stream n ctx i = x ∧ t.cores = s.cores
    let answer (st : Byte) (v : DWord) : Completion := ⟨decide (s.effClass ctx r false = 0), recSeq r, recTag r, recStream r, false, st, 0, v⟩
    (¬ formed → Completes c s discarded)
    ∧ (formed → waits → 64 ≤ (s.fnOf n).queued.length → Completes c s discarded)
    ∧ (formed → waits → (s.fnOf n).queued.length < 64 → Completes c s fun t =>
        (t.fnOf n).queued = (s.fnOf n).queued ++ [(offset, r)] ∧ same t ∧ t.ctxs = s.ctxs ∧ (t.fnOf n).badWrite = (s.fnOf n).badWrite)
    ∧ (formed → ¬ waits → ¬ named → Completes c s discarded)
    ∧ (formed → ¬ waits → named → recOp r ≠ 0x0E →
        (x.check (recSeq r) = .stale → Completes c s fun t =>
          (t.fnOf n).stale = satAdd (s.fnOf n).stale 1 ∧ same t ∧ Posted s t n ctx (answer stSeqStale (x.h.setWidth 64)))
        ∧ (x.check (recSeq r) = .running → Completes c s fun t =>
          (t.fnOf n).dup = satAdd (s.fnOf n).dup 1 ∧ same t ∧ (t.cqOf n ctx) = s.cqOf n ctx)
        ∧ (∀ old, x.check (recSeq r) = .repost old → old.dup = true ∧ Completes c s fun t => same t ∧ Posted s t n ctx old)
        ∧ (∀ h, x.check (recSeq r) = .fresh h → s.tagFree n ctx r = false → Completes c s fun t =>
          same t ∧ Posted s t n ctx (answer stTagInUse 0))
        ∧ (∀ h, x.check (recSeq r) = .fresh h → s.tagFree n ctx r = true → Completes c s fun t =>
          let y := t.stream n ctx i
          y.empty = false ∧ y.h = h ∧ recSeq r ∈ y.accepted ∧ t.cores = s.cores ∧ t.cqOf n ctx = s.cqOf n ctx
            ∧ ∃ z, y.cmds = x.cmds ++ [z] ∧ z.seq = recSeq r ∧ z.tag = recTag r ∧ z.opcode = recOp r ∧ z.record = r ∧ z.order = recOrder r
              ∧ match s.rejects n ctx r with
                | some st => z.stage = .done ∧ z.status = st ∧ z.result = 0
                | none => if s.aborts ctx r = true then z.stage = .done ∧ z.status = stAborted else z.stage = .accepted))
    ∧ (formed → ¬ waits → named → recOp r = 0x0E → s.rejects n ctx r = none → Completes c s fun t =>
        let y := t.stream n ctx i
        y.h = x.h ∧ y.accepted = x.accepted
          ∧ ∃ z, y.cmds = x.cmds ++ [z] ∧ z.seq = recSeq r ∧ z.tag = recTag r
            ∧ (∀ k, ctx = some k → recNat r 24 4 < 448 → z.stage = .done ∧ z.status = stInvalidArgument ∧ z.result = 448)
            ∧ (∀ k, ctx = some k → 448 ≤ recNat r 24 4 → recNat r 12 1 = 0 → z.stage = .started ∧ (t.fnOf n).snap = (s.fnOf n).snap + 1)
            ∧ (ctx = none → 64 + 384 * (s.contextsOf n).length ≤ recNat r 24 4 →
                z.stage = .started ∧ z.snapshot = s.snapshot n (s.contextsOf n) ((s.fnOf n).snap + 1))))
  ∧ (∀ (c : CmdRef) (x : Cmd) (s : State), s.cmdOf c (fun y => s.completed (refCtx c) y) = some x →
      Completes (.commandCompletionPost c) s fun t =>
        (∀ y ∈ (t.stream c.fn.val (refCtx c) c.stream.val).cmds, y.stamp ≠ x.stamp)
          ∧ Posted s t c.fn.val (refCtx c) (s.recordOf c x)
          ∧ (x.isSummary = false → (x.seq, s.recordOf c x) ∈ (t.stream c.fn.val (refCtx c) c.stream.val).completed))
  ∧ (∀ (c : CmdRef) (x : Cmd) (s : State), s.cmdOf c (fun y => y.isSummary && decide (y.stage = .started)) = some x →
      let buf := recNat x.record 16 8
      (recNat x.record 12 1 = 1 → Completes (.summary c) s fun t => EndsWith c x (succeeds x.snapshot.length) t ∧ t.hostMem = s.hostMem)
      ∧ (recNat x.record 12 1 ≠ 1 → (s.fnOf c.fn.val).busMaster = true → Completes (.summary c) s fun t =>
          EndsWith c x (succeeds x.snapshot.length) t ∧ t.mem = s.mem
            ∧ ∀ i b, x.snapshot[i]? = some b → tget none t.hostMem (buf + i) = some b))

/-- The areas, vectors and link of a function (R308, R322, R323, R325, R328, R339): the vector timer and an unmasked pending vector send their
message; a HEAD write within the range from HEAD to TAIL moves HEAD, any other is ignored, and what is held goes out in order; setting EN starts an
area at 0 with the LOG2N written; FN_STORE takes BASE only while EN is 0, and EN is kept while a command of the set is outstanding; Bus Master Enable
posts what is held; the loss of the link clears it in every function; a refill adds RATE tokens up to BURST. -/
def Obligations.HostAreas : Prop :=
  (∀ (fn : Fin 257) (v : Fin 32) (s : State),
    let n := fn.val
    let x := tget Vec.reset (s.fnOf n).vecs v.val
    (x.posted ≠ 0 → x.time ≠ 0 → s.hub.refLost = false → Completes (.msixTimer fn v) s fun t => MessageSent s t n v ∧ t.ctxs = s.ctxs)
    ∧ Completes (.msixUnmask fn v) s fun t =>
        let y := tget Vec.reset (t.fnOf n).vecs v.val
        y.masked = false ∧ y.pending = false ∧ y.addr = x.addr ∧ y.data = x.data ∧ y.count = x.count ∧ y.time = x.time
          ∧ (x.pending = false → t.hub.vecMsgs = s.hub.vecMsgs ∧ (t.fnOf n).heldMsgs = (s.fnOf n).heldMsgs)
          ∧ (x.pending = true → (s.fnOf n).busMaster = true → t.hub.vecMsgs = s.hub.vecMsgs ++ [(n, v.val)])
          ∧ (x.pending = true → (s.fnOf n).busMaster = false → (t.fnOf n).heldMsgs = (s.fnOf n).heldMsgs ++ [v]))
  ∧ (∀ (fn : Fin 257) (head : Word) (s : State),
    let n := fn.val
    let f := s.fnOf n
    let within {α : Type} (a : Area α) : Prop := (head - a.head).toNat ≤ (a.tail - a.head).toNat
    let moves {α : Type} (a b : Area α) : Prop := (within a → Drained { a with head := head } b f.busMaster) ∧ (¬ within a → Drained a b f.busMaster)
    Completes (.areaHeadWrite fn .fnCq head) s (fun t => moves f.cq (t.fnOf n).cq ∧ t.ctxs = s.ctxs)
    ∧ Completes (.areaHeadWrite fn .fault head) s (fun t => moves f.fault (t.fnOf n).fault ∧ t.ctxs = s.ctxs)
    ∧ Completes (.areaHeadWrite fn .event head) s (fun t => moves f.event (t.fnOf n).event ∧ t.ctxs = s.ctxs)
    ∧ ∀ k : Fin 2048,
        ((s.ctx k.val).state ≠ .absent → (s.ctx k.val).fn = fn → Completes (.areaHeadWrite fn (.ctxCq k) head) s fun t =>
          moves (s.ctx k.val).cq (t.ctx k.val).cq)
        ∧ (((s.ctx k.val).state = .absent ∨ (s.ctx k.val).fn ≠ fn) → Completes (.areaHeadWrite fn (.ctxCq k) head) s fun t => t = s))
  ∧ (∀ (fn : Fin 257) (cfg : Word) (s : State),
    let n := fn.val
    let f := s.fnOf n
    let made {α : Type} (a b : Area α) : Prop :=
      (∃ d : Area α, Drained d b f.busMaster ∧ d.held = a.held ∧ d.enabled = cfg.getLsbD 16 ∧ d.vector.val = cfg.toNat / 2 ^ 8 % 32 ∧ d.base = a.base
        ∧ (a.enabled = false → d.log2n = cfg.extractLsb' 0 5) ∧ (a.enabled = true → d.log2n = a.log2n)
        ∧ (cfg.getLsbD 16 = true → a.enabled = false → d.head = 0 ∧ d.tail = 0)
        ∧ (cfg.getLsbD 16 = false ∨ a.enabled = true → d.head = a.head ∧ d.tail = a.tail))
    Completes (.areaEnable fn .fnCq cfg) s (fun t => made f.cq (t.fnOf n).cq)
    ∧ Completes (.areaEnable fn .fault cfg) s (fun t => made f.fault (t.fnOf n).fault)
    ∧ Completes (.areaEnable fn .event cfg) s (fun t => made f.event (t.fnOf n).event)
    ∧ ∀ k, exec (.areaEnable fn (.ctxCq k) cfg) s = .refused .illFormed)
  ∧ (∀ (fn : Fin 257) (v : DWord) (s : State),
    let f := s.fnOf fn.val
    Completes (.fnStoreEnable fn v) s fun t =>
      let g := t.fnOf fn.val
      t.ctxs = s.ctxs ∧ t.mem = s.mem ∧ g.cq = f.cq
        ∧ (f.storeEn = false → g.storeBase = v &&& 0xFFFFFFFFFFFFF000 ∧ g.storeEn = v.getLsbD 0 ∧ g.streams = if v.getLsbD 0 then [] else f.streams)
        ∧ (f.storeEn = true → g.storeBase = f.storeBase ∧ g.streams = f.streams ∧ (g.storeEn = true ↔ v.getLsbD 0 = true ∨ s.anyOutstanding fn.val none = true)))
  ∧ (∀ (fn : Fin 257) (s : State),
    let f := s.fnOf fn.val
    Completes (.busMasterEnable fn) s fun t =>
      let g := t.fnOf fn.val
      g.busMaster = true ∧ g.queued = [] ∧ g.heldMsgs = []
        ∧ (f.queued = [] → Drained f.cq g.cq true ∧ Drained f.event g.event true ∧ Drained f.fault g.fault true))
  ∧ (∀ s : State, Completes .pcieLinkDown s fun t =>
      (∀ n, t.fnOf n = { s.fnOf n with busMaster := false }) ∧ t.ctxs = s.ctxs ∧ t.cores = s.cores ∧ t.chans = s.chans ∧ t.hub = s.hub)
  ∧ (∀ s : State, Completes .tokenRefill s fun t =>
      (∀ k, t.ctx k = let c := s.ctx k; if c.bucket then { c with tokens := Nat.min (c.tokens + c.rate) c.burst } else c) ∧ t.fns = s.fns ∧ t.cores = s.cores)

/-- CTX_CREATE, CTX_CLASS, FN_QUOTA and FN_GRANT (R330 to R334, R339, R401): a context takes the lowest free number with its record's fields and ends
the rest of its channels, or the command ends with the status of its first failure and makes none; a class command writes class, weight, reservation
and bucket, which it fills; a quota and a grant are written at their function, and a grant that shrinks goes on as an invalidation. -/
def Obligations.ContextsMade : Prop :=
  ∀ (c : CmdRef) (x : Cmd) (s : State), c.ctx = none →
    let fn := c.fn.val
    let r := x.record
    (MayStart c 0x10 x s →
      let new := contextFrom c.fn r
      let bad := s.segmentBad new fn 0 r
      let refused : Prop := (∃ ch ∈ chansOf new.chset, (s.chan ch).state = 4) ∨ bad = some stInvalidArgument ∨ new.saveInside = false
      let full : Prop := (∃ ch ∈ chansOf new.chset, 64 ≤ s.contextsOn ch) ∨ (fn ≠ 0 ∧ (s.fnOf fn).maxCtx ≤ (s.contextsOf fn).length)
      let none_ (t : State) : Prop := ∀ j, (t.ctx j).state = (s.ctx j).state
      (refused → Completes (.ctxCreate c) s fun t => EndsWith c x (fails stInvalidArgument) t ∧ none_ t)
      ∧ (¬ refused → (s.fnOf fn).cleaning = true → Completes (.ctxCreate c) s fun t => EndsWith c x (fails stBusy) t ∧ none_ t)
      ∧ (¬ refused → (s.fnOf fn).cleaning = false →
          (bad = some stNotPermitted → Completes (.ctxCreate c) s fun t => EndsWith c x (fails stNotPermitted) t ∧ none_ t)
          ∧ (bad = none → s.freeCtx = none ∨ full → Completes (.ctxCreate c) s fun t => EndsWith c x (fails stNoResource) t ∧ none_ t)
          ∧ (bad = none → ¬ full → ∀ k, s.freeCtx = some k →
              let pin := ((s.setCtx k new).pinRange k new.save.toNat new.saveBytes true).1
              (∀ f, pin.2 = some f → Completes (.ctxCreate c) s fun t => EndsWith c x (translationFault f) t ∧ none_ t)
              ∧ (pin.2 = none → Completes (.ctxCreate c) s fun t =>
                  EndsWith c x (succeeds k) t ∧ t.ctx k = { new with savePages := pin.1 } ∧ (∀ j, j < k → (s.ctx j).state ≠ .absent)
                    ∧ (∀ j, j ≠ k → t.ctx j = s.ctx j) ∧ ∀ ch ∈ chansOf new.chset, (t.chan ch).rest = false))))
    ∧ (MayStart c 0x13 x s →
      let k := recNat r 12 2
      let y := s.ctx k
      let f := s.fnOf y.fn.val
      let cls := recNat r 14 1
      let reserve := recNat r 16 2
      let denied : Prop := (y.fn.val ≠ 0 ∧ cls < f.minClass.val) ∨ (reserve ≠ 0 ∧ cls ≠ 0)
      let overrun : Prop := ∃ ch ∈ chansOf y.chset, 8192 < s.reservesOn k ch (fun z => decide (z.cls = 0)) + reserve
        ∨ (y.fn.val ≠ 0 ∧ f.maxRes < s.reservesOn k ch (fun z => decide (z.fn = y.fn)) + reserve)
      (∀ st, s.namesContext fn k = some st → Completes (.ctxClass c) s fun t => EndsWith c x (fails st) t ∧ t.ctxs = s.ctxs)
      ∧ (s.namesContext fn k = none →
          (denied → Completes (.ctxClass c) s fun t => EndsWith c x (fails stNotPermitted) t ∧ t.ctxs = s.ctxs)
          ∧ (¬ denied → overrun → Completes (.ctxClass c) s fun t => EndsWith c x (fails stNoResource) t ∧ t.ctxs = s.ctxs)
          ∧ (¬ denied → ¬ overrun → Completes (.ctxClass c) s fun t =>
              let z := t.ctx k
              EndsWith c x (succeeds 0) t ∧ z.cls.val = cls % 4 ∧ z.weight = BitVec.ofNat 8 (recNat r 15 1) ∧ z.reserve = reserve
                ∧ z.rate = recNat r 20 4 ∧ z.burst = recNat r 24 4 ∧ z.bucket = decide (cls = 0) ∧ (cls = 0 → z.tokens = recNat r 24 4)
                ∧ z.state = y.state ∧ z.segs = y.segs ∧ z.streams = y.streams)))
    ∧ (MayStart c 0x14 x s → Completes (.fnQuota c) s fun t =>
        let n := recNat r 12 2
        EndsWith c x (succeeds 0) t ∧ (t.fnOf n).minClass.val = recNat r 14 1 % 4 ∧ (t.fnOf n).maxCtx = recNat r 16 2 ∧ (t.fnOf n).maxRes = recNat r 18 2
          ∧ (t.fnOf n).grants = (s.fnOf n).grants ∧ t.ctxs = s.ctxs)
    ∧ (MayStart c 0x15 x s →
      let n := recNat r 12 2
      let i := recNat r 14 1
      let old := tget none (s.fnOf n).grants i
      let new := if recNat r 15 1 = 1 then some (recNat r 16 8, recNat r 24 8) else none
      let kept : Prop := ∀ a b, old = some (a, b) → ∃ d e, new = some (d, e) ∧ d ≤ a ∧ a + b ≤ d + e
      (kept → Completes (.fnGrant c) s fun t => EndsWith c x (succeeds 0) t ∧ tget none (t.fnOf n).grants i = new ∧ t.ctxs = s.ctxs)
      ∧ (¬ kept → Completes (.fnGrant c) s fun t => GoesOn c x t (fun y => y.range.isSome = true) ∧ tget none (t.fnOf n).grants i = new ∧ t.ctxs = s.ctxs))

/-- Ends and resets of contexts and functions (R186, R206, R348, R349, R352, R353): CTX_RESET and CTX_DESTROY of an active context abort its
outstanding commands and its launches, free its objects and go on; on one that is resetting they join, and a destroy takes over; at the end the
commands complete, the one that began a reset with the count, and a destroyed context is gone; a function-level reset destroys the function's contexts
and resets its registers, keeping its quota and grants. CHAN_RESET and CLUSTER_RESET (R332, R346, R347, R353): a channel reset starts and the command
goes on; one in progress is joined; a retired channel is refused. A cluster's reset falls due at its command, which goes on; once no block, access or
line of the cluster is in progress it runs: the cluster writes its dirty lines back, holds no line and no translation, and its commands wait only for
the saved blocks. A channel that is retired or down refuses it; for one that is down that is the model's choice (notes/assumptions/49.md). -/
def Obligations.ContextsEnded : Prop :=
  (
    (∀ (c : CmdRef) (x : Cmd) (s : State), c.ctx = none →
      let k := recNat x.record 12 2
      let y := s.ctx k
      ∀ p ∈ [((0x12 : Byte), Instr.ctxReset c, CtxState.resetting), (0x11, .ctxDestroy c, .destroying)], MayStart c p.1 x s →
        (∀ st, s.namesContext c.fn.val k = some st → Completes p.2.1 s fun t => EndsWith c x (fails st) t ∧ t.ctxs = s.ctxs)
        ∧ (s.namesContext c.fn.val k = none →
            (y.state = .active → Completes p.2.1 s fun t =>
              GoesOn c x t (fun _ => True) ∧ (t.ctx k).state = p.2.2 ∧ (t.ctx k).segs = y.segs ∧ (t.ctx k).cq = y.cq
                ∧ (∀ i, (tget Stream.fresh (t.ctx k).streams i).cmds = (tget Stream.fresh y.streams i).cmds.map Cmd.abort)
                ∧ (∀ n, (s.obj n).alloc = true → (s.obj n).owner.val = k → (t.obj n).alloc = false)
                ∧ (∀ l, (s.launchOf l).live = true → (s.launchOf l).ctx.val = k → (s.launchOf l).ended = false → (t.launchOf l).aborted = true)
                ∧ ∀ ch, ∀ f ∈ (t.chan ch).faults, f.ctx.val ≠ k)
            ∧ (y.state ≠ .active → Completes p.2.1 s fun t =>
              GoesOn c x t (fun z => z.joined = true) ∧ (t.ctx k).streams = y.streams
                ∧ (t.ctx k).state = if p.2.2 = .destroying then .destroying else y.state)))
    ∧ (∀ (k : Fin 2048) (s : State),
      let y := s.ctx k.val
      let done (t : State) (count : Nat) : Prop := ∀ fn i, ∀ z ∈ (s.stream fn none i).cmds,
        (z.opcode = 0x11 ∨ z.opcode = 0x12) → z.stage = .started → recNat z.record 12 2 = k.val →
        ∃ w ∈ (t.stream fn none i).cmds, w.stamp = z.stamp ∧ w.stage = .done ∧ w.status = stSuccess
          ∧ w.result = if z.opcode = 0x12 ∧ z.joined = false then BitVec.ofNat 64 count else 0
      s.workEnded k.val = true →
      (y.state = .resetting → Completes (.contextCleanupEnd k) s fun t => (t.ctx k.val).state = .active ∧ done t y.aborted)
      ∧ (y.state = .destroying → outstandingOf y.streams = [] → Completes (.contextCleanupEnd k) s fun t =>
          (t.ctx k.val).state = .absent ∧ done t y.aborted))
    ∧ (∀ (fn : Fin 257) (s : State), Completes (.functionLevelReset fn) s fun t =>
        let f := s.fnOf fn.val
        let g := t.fnOf fn.val
        g.busMaster = false ∧ g.streams = [] ∧ g.cq = .off ∧ g.fault = .off ∧ g.event.enabled = false ∧ g.vecs = [] ∧ g.storeEn = false
          ∧ g.minClass = f.minClass ∧ g.maxCtx = f.maxCtx ∧ g.maxRes = f.maxRes ∧ g.grants = f.grants
          ∧ ∀ k, (s.ctx k).state ≠ .absent → (s.ctx k).fn = fn → (t.ctx k).state = .destroying ∧ (t.ctx k).streams = [] ∧ (t.ctx k).cq = .off)
  )
  ∧ (
    (∀ (c : CmdRef) (x : Cmd) (s : State), c.ctx = none → MayStart c 0x16 x s →
      let ch := recNat x.record 12 1
      ((s.chan ch).state = 4 → Completes (.chanReset c) s fun t => EndsWith c x (fails stInvalidArgument) t ∧ t.chans = s.chans)
      ∧ ((s.chan ch).state = 1 → Completes (.chanReset c) s fun t => GoesOn c x t (fun _ => True) ∧ t.chans = s.chans)
      ∧ ((s.chan ch).state ≠ 4 → (s.chan ch).state ≠ 1 → Completes (.chanReset c) s fun t =>
          GoesOn c x t (fun _ => True) ∧ (t.chan ch).state = 1 ∧ (t.chan ch).resetCause = some 3 ∧ (t.chan ch).isolations = 0
            ∧ (t.chan ch).refcnt = 0 ∧ (t.chan ch).mapOrder = (s.chan ch).mapOrder ∧ ∀ k, channelOfCore k = ch → t.core k = .idle))
    ∧ (∀ (ch : Fin 32) (cl : Fin 128) (c : CmdRef) (x : Cmd) (s : State), c.ctx = none → MayStart c 0x17 x s →
      recNat x.record 12 1 = ch.val → recNat x.record 13 2 = cl.val →
      let st := (s.chan ch.val).state
      ((st = 0 ∨ st = 4) → Completes (.clusterReset ch cl (some c)) s fun t => EndsWith c x (fails stInvalidArgument) t ∧ t.clusters = s.clusters)
      ∧ (st = 1 → Completes (.clusterReset ch cl (some c)) s fun t => GoesOn c x t (fun _ => True) ∧ t.clusters = s.clusters)
      ∧ (st ≠ 0 → st ≠ 1 → st ≠ 4 → Completes (.clusterReset ch cl (some c)) s fun t =>
          GoesOn c x t (fun _ => True) ∧ (t.cluster (clusterId ch cl)).resetPending = true ∧ t.cores = s.cores ∧ t.lines = s.lines))
    ∧ (∀ (ch : Fin 32) (cl : Fin 128) (s : State),
      let k := clusterId ch cl
      (s.cluster k).resetPending = true → s.clusterEmpty k = true → s.up ch.val = true →
      Completes (.clusterReset ch cl none) s fun t =>
        (t.cluster k).lines = [] ∧ (t.cluster k).tlb = [] ∧ (t.cluster k).resetPending = false ∧ (t.cluster k).poisonings = []
          ∧ (t.cluster k).coreMap = (s.cluster k).coreMap ∧ t.objs = s.objs
          ∧ (∀ n e, (s.cluster k).lines = [(n, e)] → (e.state = .m ∨ e.state = .o) →
              let l : LineAddr := BitVec.ofNat 50 n
              SetAtRest s l → (s.slice l).present = true → (s.isLocal l = true → s.inMemory l = true)
                → (s.slice l).owner = some (.cluster (BitVec.ofNat 12 k).toFin) → (t.slice l).data = e.data ∧ (t.slice l).dirty = true)
          ∧ ∀ fn i, ∀ z ∈ (s.stream fn none i).cmds, z.opcode = 0x17 → z.stage = .started → recNat z.record 12 1 = ch.val → recNat z.record 13 2 = cl.val →
              ∃ w ∈ (t.stream fn none i).cmds, w.stamp = z.stamp ∧ w.joined = true)
  )

/-- Performance counters (R419, R420, R425, R426, R427, R430, R431, R434): a selector write zeroes its counter and OVF bit in all that it governs;
FREEZE stops and releases; a snapshot latches every counter, is refused where it does not lie wholly in memory and ignored while one is in progress,
and its record reaches memory with DONE; a histogram write takes the fields and clears the bins; setting EN starts the ring of tagged instructions,
whose records are written while it has room and else dropped and counted. Reads that change a register (R7, R25, R230 and the register tables):
FAB_REFCNT returns the low half of the counter and latches the high half of the same tick; an error log is returned and cleared; a read-clear counter
is returned in its layout and cleared, and no other channel changes. -/
def Obligations.CountersAndLogs : Prop :=
  (
    ∀ (ch : Fin 32) (s : State),
      let k := ch.val
      let c := s.chan k
      let byteAt (t : State) (a : Nat) : Byte := lineByte (t.newest (lineOfPa a)).data (a % 128)
      let still (a n : Nat) : Prop := ∀ i, i < n → s.isLocal (lineOfPa (a + i)) = true ∧ s.inMemory (lineOfPa (a + i)) = true
        ∧ s.defersWrite (lineOfPa (a + i)) = false ∧ (s.slice (lineOfPa (a + i))).regs = []
      (∀ (sel : Fin 20) (v : Word), Completes (.pmcSelWrite ch sel v) s fun t =>
        tget 0 (t.chan k).sels sel.val = v &&& (if sel.val < 8 then 0xFFFFFFFF else 0x803FFFFF) ∧ (t.chan k).ovf.getLsbD sel.val = false
          ∧ (∀ n, n ≠ sel.val → tget 0 (t.chan k).sels n = tget 0 c.sels n)
          ∧ (sel.val < 8 → ∀ i, channelOfCore i = k → tget 0 (t.core i).pmc sel.val = 0)
          ∧ (8 ≤ sel.val → sel.val < 12 → ∀ i, i / 128 = k → tget 0 (t.cluster i).pmc (sel.val - 8) = 0)
          ∧ (12 ≤ sel.val → tget 0 (t.chan k).chPmc (sel.val - 12) = 0)
          ∧ (∀ i, channelOfCore i ≠ k → t.core i = s.core i) ∧ t.mem = s.mem)
      ∧ Completes (.pmcFreeze ch) s (fun t => (t.chan k).freeze = true ∧ (t.chan k).frozen = true ∧ t.cores = s.cores ∧ t.mem = s.mem)
      ∧ Completes (.pmcUnfreeze ch) s (fun t => (t.chan k).freeze = false ∧ (t.chan k).frozen = false ∧ t.cores = s.cores ∧ t.mem = s.mem)
      ∧ (s.up k = true →
          (c.snapBusy = true → Completes (.pmcSnap ch) s fun t => t = s)
          ∧ (c.snapBusy = false → s.wholeIn c.snapAddr.toNat 2627792 = false → Completes (.pmcSnap ch) s fun t =>
              (t.chan k).snapErr = true ∧ (t.chan k).snapBusy = false ∧ t.cores = s.cores)
          ∧ (c.snapBusy = false → s.wholeIn c.snapAddr.toNat 2627792 = true → Completes (.pmcSnap ch) s fun t =>
              (t.chan k).snapBusy = true ∧ (t.chan k).chLatched.isSome = true ∧ t.mem = s.mem
                ∧ ∀ i, channelOfCore i = k → ∀ n, n < 8 → ((t.core i).latched.getD (0, [], 0, none)).2.1.getD n 0 = tget 0 (s.core i).pmc n))
      ∧ (∀ l, c.chLatched = some l → c.snapBusy = true → s.up k = true → still c.snapAddr.toNat 2627792 →
          c.snapAddr.toNat + 2627792 ≤ 2 ^ 57 → Completes (.snapshotComplete ch) s fun t =>
            let seq := (c.snapCount.toNat + 1) % 2 ^ 32
            (t.chan k).snapBusy = false ∧ (t.chan k).chLatched = none ∧ (t.chan k).snapSeq = c.snapSeq + 1
              ∧ (∀ i, i < 2627792 → ¬ (16 ≤ i ∧ i < 24) → ¬ (120 ≤ i ∧ i < 128) → byteAt t (c.snapAddr.toNat + i) = s.snapByte k l seq 0 i)
              ∧ ∀ i, i < 8 → byteAt t (c.snapAddr.toNat + 120 + i) = byteOf (2 ^ 63 + seq) i)
      ∧ (∀ (n : Fin 4) (v : Word), Completes (.histSelWrite ch n v) s fun t =>
          tget Hist.off (t.chan k).hists n.val = ⟨v &&& 0x80381FFF, []⟩ ∧ (∀ m, m ≠ n.val → tget Hist.off (t.chan k).hists m = tget Hist.off c.hists m)
            ∧ t.cores = s.cores ∧ t.mem = s.mem)
      ∧ (∀ v : Word, Completes (.tagEnable ch v) s fun t =>
          let d := t.chan k
          d.tagCfg.getLsbD 31 = v.getLsbD 31 ∧ d.tagCfg.toNat / 2 ^ 14 % 32 = (if c.tagCfg.getLsbD 31 then c.tagCfg else v).toNat / 2 ^ 14 % 32
            ∧ (v.getLsbD 31 = true → c.tagCfg.getLsbD 31 = false → d.tagHead = 0 ∧ d.tagTail = 0 ∧ d.tagSeq = 0)
            ∧ (v.getLsbD 31 = false ∨ c.tagCfg.getLsbD 31 = true → d.tagHead = c.tagHead ∧ d.tagTail = c.tagTail ∧ d.tagSeq = c.tagSeq))
      ∧ (∀ core x, s.taggedCore k = some (core, x) →
          let size := 2 ^ Nat.max 10 (Nat.min (c.tagCfg.toNat / 2 ^ 14 % 32) 24)
          let at_ := c.tagBase.toNat + 64 * (c.tagTail.toNat % size)
          let fits : Prop := (c.tagTail - c.tagHead).toNat < size ∧ s.wholeIn c.tagBase.toNat (64 * size) = true
          Completes (.tagRecordWrite ch) s fun t =>
            (t.core core).tagged = none ∧ (t.chan k).tagSeq = c.tagSeq + 1
              ∧ (¬ fits → (t.chan k).tagLost = satAdd c.tagLost 1 ∧ (t.chan k).tagTail = c.tagTail ∧ t.mem = s.mem)
              ∧ (fits → (t.chan k).tagTail = c.tagTail + 1 ∧ (t.chan k).tagLost = c.tagLost
                  ∧ (still at_ 64 → ∀ i, i < 32 → byteAt t (at_ + i) = (stageBytes core x c.tagSeq []).getD i 0)))
  )
  ∧ (
    (∀ (ch : Fin 32) (s : State),
      let k := ch.val
      let c := s.chan k
      let one (t : State) (v : DWord) (d : Channel) : Prop := t.hub.readData = v ∧ t.chan k = d ∧ (∀ j, j ≠ k → t.chan j = s.chan j) ∧ t.cores = s.cores ∧ t.mem = s.mem
      let two (hi lo : BitVec 16) : DWord := BitVec.ofNat 64 (hi.toNat * 2 ^ 16 + lo.toNat)
      Completes (.fabRefcntLowRead ch) s (fun t =>
        t.hub.readData.toNat = (t.chan k).refcnt.toNat % 2 ^ 32 ∧ (t.chan k).reflatch.toNat = (t.chan k).refcnt.toNat / 2 ^ 32
          ∧ (c.refRunning = false → (t.chan k).refcnt = c.refcnt))
      ∧ Completes (.errlogRead ch true) s (fun t => one t c.memErrlog { c with memErrlog := 0 })
      ∧ Completes (.errlogRead ch false) s (fun t => one t c.ccErrlog { c with ccErrlog := 0 })
      ∧ ∀ p ∈ [(RcReg.sluEcc ch, c.sluEcc.setWidth 64, { c with sluEcc := 0 }),
          (.sluDrop ch, two c.feUnreg c.sigDiscard, { c with feUnreg := 0, sigDiscard := 0 }),
          (.sluMeDrop ch, c.meDiscard.setWidth 64, { c with meDiscard := 0 }),
          (.ccCorr ch, two c.ccCorrSlice c.ccCorrCluster, { c with ccCorrSlice := 0, ccCorrCluster := 0 }),
          (.ccUncorr ch, two c.ccPoisoned c.ccDropped, { c with ccPoisoned := 0, ccDropped := 0 }),
          (.ccLost ch, c.ccLost.setWidth 64, { c with ccLost := 0 }),
          (.memCorr ch, c.memCorr.setWidth 64, { c with memCorr := 0 }),
          (.memUncorr ch, two c.uncorr c.oor, { c with uncorr := 0, oor := 0 }),
          (.xltWalks ch, c.xltWalks.setWidth 64, { c with xltWalks := 0 }),
          (.xltFaults ch, two c.xltMerged c.xltOpened, { c with xltMerged := 0, xltOpened := 0 }),
          (.ltFec ch, c.ltFec.setWidth 64, { c with ltFec := 0 }),
          (.ltLinkErr ch, two c.ltReplays c.ltBadBlocks, { c with ltReplays := 0, ltBadBlocks := 0 }),
          (.ltDup ch, two c.ltResent c.ltDuplicates, { c with ltResent := 0, ltDuplicates := 0 }),
          (.tagLost ch, c.tagLost.setWidth 64, { c with tagLost := 0 })],
        Completes (.rcCounterRead p.1) s (fun t => one t p.2.1 p.2.2))
    ∧ ∀ (fn : Fin 257) (s : State),
        let f := s.fnOf fn.val
        Completes (.rcCounterRead (.fnCounts fn)) s fun t =>
          t.hub.readData.toNat = f.badWrite.toNat * 2 ^ 24 + f.stale.toNat * 2 ^ 16 + f.dup.toNat * 2 ^ 8 + f.evLost.toNat
            ∧ t.fnOf fn.val = { f with badWrite := 0, stale := 0, dup := 0, evLost := 0 } ∧ t.chans = s.chans
  )

/-- REGISTER_WRITE (R294, R301, R328, R329, R383, R419, R431, R434 and the register tables): a register behaves as the row that names it; the
configuration registers of a channel take their fields; what is written with 1 to be cleared is cleared; a channel window and a mailbox answer the
owner function only; a mailbox whose GO is set ignores writes; a wide write is its two halves, which is the model's reading (notes/assumptions/30.md).
-/
def Obligations.RegisterWrites : Prop :=
  ∀ (fn : Fin 257) (s : State), s.hub.ready = true →
    let as (o : Nat) (w : Word) (c : Instr) : Prop := exec (.registerWrite fn false (BitVec.ofNat 22 o) false (w.setWidth 64)) s = exec c s
    let puts (f : Fin 257) (o : Nat) (w : Word) (p : State → Prop) : Prop :=
      Completes (.registerWrite f false (BitVec.ofNat 22 o) false (w.setWidth 64)) s fun t => p t ∧ t.mem = s.mem ∧ t.ctxs = s.ctxs
    (∀ w : Word, as 0x10 w (.areaEnable fn .fnCq w) ∧ as 0x20 w (.areaEnable fn .fault w) ∧ as 0x30 w (.areaEnable fn .event w)
      ∧ as 0x14 w (.areaHeadWrite fn .fnCq w) ∧ as 0x24 w (.areaHeadWrite fn .fault w) ∧ as 0x34 w (.areaHeadWrite fn .event w)
      ∧ (∀ k : Fin 2048, as (0x2000 + 4 * k.val) w (.areaHeadWrite fn (.ctxCq k) w))
      ∧ ((s.fnOf fn.val).cq.enabled = false → puts fn 0x08 w fun t => (t.fnOf fn.val).cq.base.toNat % 2 ^ 32 = w.toNat / 4096 * 4096)
      ∧ (∀ v : Fin 32, w.getLsbD 0 = false → as (0x8000 + 16 * v.val + 12) w (.msixUnmask fn v))
      ∧ ∀ v : Fin 32, puts fn (0x100 + 4 * v.val) w fun t =>
          let x := tget Vec.reset (t.fnOf fn.val).vecs v.val
          x.count.toNat = w.toNat / 2 ^ 24 ∧ x.time.toNat = w.toNat / 2 ^ 8 % 2 ^ 16)
    ∧ (∀ v : DWord, exec (.registerWrite fn false 0x48 true v) s = exec (.fnStoreEnable fn v) s)
    ∧ (∀ (bar4 : Bool) (o : BitVec 22) (v : DWord), fn.val ≠ 0 → (bar4 = true ∨ 0x10000 ≤ o.toNat) → exec (.registerWrite fn bar4 o false v) s = .next s)
    ∧ (fn.val = 0 → ∀ (ch : Fin 32) (w : Word),
        let at_ (o : Nat) : Nat := 0x100000 + 0x10000 * ch.val + o
        let c := s.chan ch.val
        let reg (o : Nat) (d : Channel) : Prop := puts fn (at_ o) w fun t => t.chan ch.val = d ∧ ∀ j, j ≠ ch.val → t.chan j = s.chan j
        reg 0x10 { c with supplyFault := c.supplyFault && !w.getLsbD 2, refLost := c.refLost && !w.getLsbD 1 }
        ∧ reg 0x100 { c with demoteWait := BitVec.ofNat 5 (w.toNat / 2 ^ 24), waithintBackoff := BitVec.ofNat 8 (w.toNat / 2 ^ 16), rotateQuantum := BitVec.ofNat 16 w.toNat }
        ∧ reg 0x200 { c with rampUnits := BitVec.ofNat 8 w.toNat } ∧ reg 0x204 { c with stallLimit := w }
        ∧ reg 0x300 { c with prefEn := w.getLsbD 1, stashEn := w.getLsbD 0 }
        ∧ (w.getLsbD 16 = false ∨ c.evacState ≠ 1 ∨ s.up ch.val = false →
            reg 0x400 { c with autoGrant := w.getLsbD 16, evacRate := BitVec.ofNat 8 (w.toNat / 2 ^ 8), scrubPeriod := BitVec.ofNat 8 w.toNat })
        ∧ (w.getLsbD 16 = true → c.evacState = 1 → s.up ch.val = true → puts fn (at_ 0x400) w fun t =>
            let d := t.chan ch.val
            d.autoGrant = true ∧ d.evacState = 2 ∧ d.granted = true ∧ d.evacDone = 0
              ∧ d.journal = [(c.journalRec 1 (c.evacBatches c.evacPc.val)).word])
        ∧ reg 0x7C4 { c with tagHead := w }
        ∧ reg 0x704 { c with snapErr := c.snapErr && !w.getLsbD 21, ovf := c.ovf &&& ~~~(BitVec.ofNat 20 w.toNat) }
        ∧ (∀ i : Fin 20, as (at_ (0x720 + 4 * i.val)) w (.pmcSelWrite ch i w)) ∧ (∀ i : Fin 4, as (at_ (0x7E0 + 4 * i.val)) w (.histSelWrite ch i w))
        ∧ as (at_ 0x7C0) w (.tagEnable ch w)
        ∧ puts fn (at_ 0x700) w fun t => (t.chan ch.val).pmcUser = BitVec.ofNat 8 (w.toNat / 2 ^ 16) ∧ (t.chan ch.val).freezeOnOvf = w.getLsbD 2
            ∧ (t.chan ch.val).freeze = w.getLsbD 0)
    ∧ (fn.val = 0 → ∀ (m : Fin 4) (w : Word),
        let x := tget Mailbox.reset s.hub.mailboxes m.val
        let box (o : Nat) (p : Mailbox → Prop) : Prop :=
          Completes (.registerWrite fn true (BitVec.ofNat 22 (0x1000 * m.val + o)) false (w.setWidth 64)) s fun t => p (tget Mailbox.reset t.hub.mailboxes m.val) ∧ t.chans = s.chans
        (x.go = true → ∀ o, o < 0x1000 → box o fun y => y = x)
        ∧ (x.go = false →
            box 0x000 (fun y => y = { x with key := w })
            ∧ (svcDefined (x.key.toNat / 2 ^ 24) = true ∨ w.getLsbD 31 = false → box 0x004 fun y => y = { x with ctrl := w &&& 0xE00000FF })
            ∧ (svcDefined (x.key.toNat / 2 ^ 24) = false → w.getLsbD 31 = true → box 0x004 fun y => y.go = false)
            ∧ box 0x008 (fun y => y = { x with offset := w &&& 0xFFFF }) ∧ box 0x00C (fun y => y = { x with len := w &&& 0xFFF })
            ∧ box 0x010 (fun y => y = { x with txn := w })
            ∧ ∀ i, i < 504 → ∀ j, j < 4 → box (0x800 + 4 * i) fun y => tget 0 y.data (4 * i + j) = byteOf w.toNat j))

/-- READ, DESCRIBE and IDENTIFY (R7, R365, R366, R368, R370, R373, R375, R376, R382): one response with the part of the value asked for, in
little-endian order; with the type, access, flags, size and default of the entry; with the identity; NO_OBJECT, NO_SUBINDEX, WRITE_ONLY and NOT_READY
where there is none to give. They need no session, and change nothing but the answer; in a session the answer carries a tag, and a wrong one is
AUTH_FAILED. -/
def Obligations.EbfoldReads : Prop :=
  ∀ (r : EbReq) (s : State),
    let idx := r.index.toNat
    let sub := r.sub.toNat
    let same (t : State) : Prop := t.hub.dict = s.hub.dict ∧ t.hub.sessions = s.hub.sessions ∧ t.chans = s.chans ∧ t.ctxs = s.ctxs ∧ t.fns = s.fns ∧ t.mem = s.mem
    let gives (c : Instr) (st : Byte) (p : List Byte → Prop) : Prop :=
      (r.auth = false ∨ (SessionHolds r s ∧ TagHolds r s)) → Completes c s fun t => same t ∧ ∃ v, Answered s t r r.auth st v ∧ p v
    let open_ (e : Entry) : Prop := lookup idx sub = .ok e ∧ s.notReady idx = false
    let room := s.hub.room r.src r.auth
    (s.asks r 0x01 = true →
      (∀ st, lookup idx sub = .error st → gives (.read r) st fun v => v = [])
      ∧ (∀ e, lookup idx sub = .ok e → e.access = .wo → gives (.read r) ebWriteOnly fun v => v = [])
      ∧ (∀ e, lookup idx sub = .ok e → e.access ≠ .wo → s.notReady idx = true → gives (.read r) ebNotReady fun v => v = [])
      ∧ (∀ e, open_ e → e.access ≠ .wo → gives (.read r) ebOk fun v =>
          ∃ free, v = ((bytesLe e.size (s.entryNat e idx sub free)).drop r.offset.toNat).take (Nat.min r.len.toNat room))
      ∧ (idx = 0x1008 → sub = 0 → r.offset = 0 → r.len = 8 → gives (.read r) ebOk fun v => v = [0x53, 0x4C, 0x57, 0x2D, 0x39, 0x31, 0x36, 0x30])
      ∧ (idx = 0x7010 → sub = 0 → r.offset = 0 → r.len = 4 → gives (.read r) ebOk fun v => v = bytesLe 4 s.hub.dict.powerLimit.toNat)
      ∧ (∀ ch : Fin 32, idx = 0x4000 + 0x40 * ch.val → sub = 1 → r.offset = 0 → r.len = 1 → gives (.read r) ebOk fun v => v = [BitVec.ofNat 8 (s.chan ch.val).state.val])
      ∧ (r.auth = true → ¬ SessionHolds r s → Completes (.read r) s fun t => same t ∧ Answered s t r false ebNoSession [])
      ∧ (r.auth = true → SessionHolds r s → ¬ TagHolds r s → Completes (.read r) s fun t =>
          Answered s t r false ebAuthFailed [] ∧ t.hub.failedTags = satAdd s.hub.failedTags 1 ∧ t.hub.dict = s.hub.dict ∧ t.chans = s.chans))
    ∧ (s.asks r 0x03 = true →
      (∀ st, lookup idx sub = .error st → gives (.describe r) st fun v => v = [])
      ∧ (∀ e, open_ e → gives (.describe r) ebOk fun v =>
          let head := [BitVec.ofNat 8 e.type, BitVec.ofNat 8 e.access.code, BitVec.ofNat 8 ((if e.p then 1 else 0) + if e.c then 2 else 0), 0] ++ bytesLe 4 e.size
          v.take 8 = head ∧ ∀ n, e.dflt = some n → v = (head ++ bytesLe e.size n).take room))
    ∧ (s.asks r 0x04 = true → gives (.identify r) ebOk fun v =>
        v = bytesLe 4 0x4B4D ++ bytesLe 4 0x9160 ++ bytesLe 4 Config.hardwareRevision.toNat ++ bytesLe 4 Config.serial.toNat
          ++ [BitVec.ofNat 8 s.hub.address.val] ++ bytesLe 2 s.hub.node.val ++ [s.hub.dict.frameMode])

/-- Sessions, events and the bus (R360, R361, R365, R367, R371, R372, R374): SESSION_OPEN binds a free number of the path; SESSION_PROVE takes C and
the signature, in parts or whole, and proves the session with the key of R372 or frees it; a session closes on SESSION_CLOSE and at its timers; EVENT
sends the oldest event that is never replaced, else the latest, as a frame to address 0; bus-off discards the transmit queue and keeps the sessions; a
frame that is not processed, or that finds the queue full, draws no reply and is counted as its header, its source and the queue say. -/
def Obligations.Sessions : Prop :=
  (∀ (r : EbReq) (nonce : BitVec 256) (s : State), s.asks r 0x10 = true →
    let c := Instr.sessionOpen r nonce
    let fails_ (st : Byte) : Prop := Completes c s fun t => Answered s t r false st [] ∧ t.hub.sessions = s.hub.sessions
    let free (n : Nat) : Prop := n ∈ sessionNumbers r.src ∧ (s.session n).source = none
    (s.hub.ownerKey = none → fails_ ebNotPermitted)
    ∧ (s.hub.ownerKey ≠ none → r.value.length ≠ 32 → fails_ ebLength)
    ∧ (s.hub.ownerKey ≠ none → r.value.length = 32 → (¬ ∃ n, free n) → fails_ ebBusy)
    ∧ (s.hub.ownerKey ≠ none → r.value.length = 32 → (∃ n, free n) → Completes c s fun t =>
        Answered s t r false ebOk (bytesLe 32 nonce.toNat ++ bytesLe 4 Config.serial.toNat)
          ∧ ∃ n, free n ∧ (∀ m, m ≠ n → t.session m = s.session m) ∧ (t.session n).source = some r.src ∧ (t.session n).proved = false
              ∧ (t.session n).nr = r.value ∧ (t.session n).nd = nonce ∧ (t.session n).h = 0))
  ∧ (∀ (r : EbReq) (s : State), s.asks r 0x12 = true →
    let n := r.session.toNat
    let x := s.session n
    let bound : Prop := 1 ≤ n ∧ n ≤ 8 ∧ x.source = some r.src
    (¬ bound → Completes (.sessionProve r) s fun t => Answered s t r false ebNoSession [] ∧ t.hub.sessions = s.hub.sessions)
    ∧ (bound → x.proved = false →
        (r.offset = 0 → r.last = false → r.value.length ≤ 768 → Completes (.sessionProve r) s fun t =>
          Answered s t r false ebOk [] ∧ (t.session n).staging = some (r.index, r.sub, r.value) ∧ (t.session n).proved = false)
        ∧ (r.offset ≠ 0 → (∀ i b v, x.staging = some (i, b, v) → v.length ≠ r.offset.toNat) → Completes (.sessionProve r) s fun t =>
          Answered s t r false ebSegment [] ∧ (t.session n).staging = none ∧ (t.session n).source = x.source)
        ∧ (∀ bytes, (r.offset = 0 ∧ bytes = r.value) ∨ (r.offset ≠ 0 ∧ ∃ i b v, x.staging = some (i, b, v) ∧ v.length = r.offset.toNat ∧ bytes = v ++ r.value) →
            r.last = true →
            (bytes.length ≠ 768 → Completes (.sessionProve r) s fun t => Answered s t r false ebLength [] ∧ (t.session n).source = x.source)
            ∧ (bytes.length = 768 → ∀ owner, s.hub.ownerKey = some owner →
              let tr := transcript x n r.src (bytes.take 384)
              (pssVerify owner tr (bytes.drop 384) = false ∨ Config.identityDecrypt (bytes.take 384) = none → Completes (.sessionProve r) s fun t =>
                Answered s t r false ebAuthFailed [] ∧ t.session n = Session.free ∧ t.hub.failedTags = satAdd s.hub.failedTags 1)
              ∧ (∀ secret, pssVerify owner tr (bytes.drop 384) = true → Config.identityDecrypt (bytes.take 384) = some secret →
                Completes (.sessionProve r) s fun t => (t.session n).proved = true ∧ (t.session n).key = sessionKey x n secret ∧ (t.session n).source = some r.src
                  ∧ ∃ v, v.length = 8 ∧ Answered s t r false ebOk v)))))
  ∧ (∀ (r : EbReq) (s : State), s.asks r 0x14 = true →
    (r.auth = false → Completes (.sessionClose r) s fun t => Answered s t r false ebAuthRequired [] ∧ t.hub.sessions = s.hub.sessions)
    ∧ (r.auth = true → r.session ≠ 0 → ¬ SessionHolds r s → Completes (.sessionClose r) s fun t => Answered s t r false ebNoSession [] ∧ t.hub.sessions = s.hub.sessions)
    ∧ (r.auth = true → SessionHolds r s → ¬ TagHolds r s → Completes (.sessionClose r) s fun t => Answered s t r false ebAuthFailed [] ∧ t.hub.failedTags = satAdd s.hub.failedTags 1)
    ∧ (r.auth = true → SessionHolds r s → TagHolds r s → Completes (.sessionClose r) s fun t => Answered s t r true ebOk [] ∧ t.session r.session.toNat = Session.free))
  ∧ (∀ (n : Fin 9) (s : State), (s.session n.val).source ≠ none →
    let freed (t : State) : Prop := t.session n.val = Session.free ∧ ∀ m, m ≠ n.val → t.session m = s.session m
    ((s.session n.val).proved = true → Completes (.sessionIdleTimeout n) s freed) ∧ ((s.session n.val).proved = false → Completes (.sessionProveTimeout n) s freed))
  ∧ (∀ s : State, s.hub.onBus = true →
    (s.hub.dict.eventEn = 1 →
      let sent (t : State) (e : Byte × Byte × DWord) : Prop := t.hub.transmit = s.hub.transmit ++ [s.hub.frame levelEvent 0 (eventPdu e)]
      (∀ e l, s.hub.keptEvents = e :: l → Completes .event s fun t => sent t e ∧ t.hub.keptEvents = l ∧ t.hub.event = s.hub.event)
      ∧ (∀ e, s.hub.keptEvents = [] → s.hub.event = some e → Completes .event s fun t => sent t e ∧ t.hub.event = none))
    ∧ Completes .busOff s (fun t => t.hub.busState = 3 ∧ t.hub.busOffs = satAdd s.hub.busOffs 1 ∧ t.hub.transmit = [] ∧ t.hub.sessions = s.hub.sessions)
    ∧ (∀ (f : BusFrame) (full : Bool), full = true ∨ s.hub.processes f = false → Completes (.malformed f full) s fun t =>
        t.hub.transmit = s.hub.transmit ∧ (s.hub.marked f = false → t = s)
          ∧ (s.hub.marked f = true →
              t.hub.malformed = (if frameHeader f then s.hub.malformed else satAdd s.hub.malformed 1)
                ∧ t.hub.addrConflict = (if s.hub.sender f = s.hub.address.val then satAdd s.hub.addrConflict 1 else s.hub.addrConflict)
                ∧ t.hub.overrun = if full = true ∧ s.hub.processes f = true then satAdd s.hub.overrun 1 else s.hub.overrun)))
  ∧ (∀ s : State, s.hub.powered = true → s.hub.inReset = false → s.hub.busState = 3 → s.hub.refLost = false → s.hub.address ≠ 0 → s.hub.address ≠ 127 →
    Completes .busOffRecovery s fun t => t.hub.busState = 1 ∧ t.hub.sessions = s.hub.sessions)

/-- WRITE (R366, R369, R370, R374, R376, R377, R379, R382): a bus write without a session is AUTH_REQUIRED, one whose session or tag fails is refused,
and H stays; a duplicate draws the stored response and a stale one STALE, neither acting again; a new write is answered and moves H: READ_ONLY,
LENGTH, RANGE or NOT_READY change nothing, and a good value replaces the entry, an equal one changing nothing. A mailbox without a session writes RW
entries and not RWA ones. The named rows are writes of their entries. -/
def Obligations.EbfoldWrites : Prop :=
  ∀ (r : EbReq) (s : State), s.asks r 0x02 = true →
    let c := Instr.ebfoldWrite r
    let idx := r.index.toNat
    let sub := r.sub.toNat
    let n := r.session.toNat
    let x := s.session n
    let v := leNat r.value
    let same (t : State) : Prop := t.hub.dict = s.hub.dict ∧ t.hub.restoreAsked = s.hub.restoreAsked ∧ t.hub.changes = s.hub.changes ∧ t.chans = s.chans
      ∧ t.ctxs = s.ctxs ∧ t.fns = s.fns ∧ t.mem = s.mem
    let plain : Prop := chanIndex idx = none ∧ idx ≠ 0x1011 ∧ idx ≠ 0x7030
    (EbSource.isBus r.src = true → r.auth = false ∨ r.session = 0 → Completes c s fun t => same t ∧ t.hub.sessions = s.hub.sessions ∧ Answered s t r false ebAuthRequired [])
    ∧ (r.auth = true → r.session ≠ 0 → ¬ SessionHolds r s → Completes c s fun t => same t ∧ t.hub.sessions = s.hub.sessions ∧ Answered s t r false ebNoSession [])
    ∧ (r.auth = true → SessionHolds r s → ¬ TagHolds r s → Completes c s fun t =>
        same t ∧ Answered s t r false ebAuthFailed [] ∧ t.hub.failedTags = satAdd s.hub.failedTags 1
          ∧ t.session n = if 15 ≤ x.failed then Session.free else { x with failed := x.failed + 1 })
    ∧ (r.auth = true → SessionHolds r s → TagHolds r s → (r.txn - x.h).toInt < 1 →
        (∀ p, -15 ≤ (r.txn - x.h).toInt → x.responses.find? (fun y => decide (y.1 = r.txn)) = some p → Completes c s fun t =>
          same t ∧ t.hub.sessions = s.hub.sessions ∧ Answered s t r true p.2.1 [])
        ∧ ((r.txn - x.h).toInt < -15 ∨ x.responses.find? (fun y => decide (y.1 = r.txn)) = none → Completes c s fun t =>
          same t ∧ t.hub.sessions = s.hub.sessions ∧ Answered s t r true ebStale []))
    ∧ (WritesNow r s →
        let refused (st : Byte) : Prop := Completes c s fun t => same t ∧ (t.session n).h = r.txn ∧ Answered s t r true st []
        (∀ st, lookup idx sub = .error st → refused st)
        ∧ ∀ e, lookup idx sub = .ok e →
            (e.access = .const ∨ e.access = .ro → refused ebReadOnly)
            ∧ (e.access ≠ .const → e.access ≠ .ro →
                (s.notReady idx = true → retires idx v = false → refused ebNotReady)
                ∧ (s.notReady idx = false → r.value.length ≤ 65535 → r.value.length ≠ e.size → refused ebLength)
                ∧ (s.notReady idx = false → r.value.length = e.size → plain →
                    (s.hub.dict.write idx sub v = none → refused ebRange)
                    ∧ (∀ d, s.hub.dict.write idx sub v = some d → Completes c s fun t =>
                        Answered s t r true ebOk [] ∧ (t.session n).h = r.txn
                          ∧ (v ≠ s.deviceValue idx sub 0 → t.hub.dict = d) ∧ (v = s.deviceValue idx sub 0 → same t)))))
    ∧ (EbSource.isBus r.src = false → r.auth = false → r.session = 0 → r.offset = 0 → r.last = true → ∀ e, lookup idx sub = .ok e →
        (e.access = .rwa → Completes c s fun t => same t ∧ Answered s t r false ebAuthRequired [])
        ∧ (e.access = .rw → s.notReady idx = false → r.value.length = e.size → ∀ d, s.hub.dict.write idx sub v = some d → plain → Completes c s fun t =>
            Answered s t r false ebOk [] ∧ (v ≠ s.deviceValue idx sub 0 → t.hub.dict = d)))
    ∧ (∀ p ∈ [(Instr.restoreDefaults r, idx = 0x1011), (.coherenceConfigWrite r, idx = 0x2001 ∨ idx = 0x2003 ∨ idx = 0x2004),
        (.coolantClear r, idx = 0x7030 ∧ sub = 1 ∧ r.value = [0])], p.2 → exec p.1 s = exec c s)

/-- A field-bus frame without a valid tag of an open session writes no entry (R370): whatever WRITE it carries, through whichever row, the dictionary,
the channels' entries and the device's settings stay; one without AUTH is answered AUTH_REQUIRED. READ, DESCRIBE and IDENTIFY without a session are
answered and change nothing else. -/
def Obligations.NoWriteWithoutATag : Prop :=
  ∀ (r : EbReq) (a : Fin 128) (s : State), r.src = .bus a →
    let same (t : State) : Prop := t.hub.dict = s.hub.dict ∧ t.hub.changes = s.hub.changes ∧ t.hub.restoreAsked = s.hub.restoreAsked ∧ t.hub.coolant = s.hub.coolant
      ∧ t.hub.trip = s.hub.trip ∧ t.chans = s.chans ∧ t.ctxs = s.ctxs ∧ t.fns = s.fns ∧ t.clusters = s.clusters ∧ t.cores = s.cores ∧ t.lines = s.lines ∧ t.mem = s.mem
    (s.asks r 0x02 = true → ¬ (r.auth = true ∧ SessionHolds r s ∧ TagHolds r s) →
      (∀ c ∈ [Instr.ebfoldWrite r, .restoreDefaults r, .coherenceConfigWrite r, .mapoutNominate r, .mapoutGrant r, .mapoutWithdraw r, .curveRefitRequest r,
          .curveClear r, .restEnter r, .restLeave r, .coolantClear r, .retireChannel r, .reinstateChannel r], ∀ t, exec c s = .next t → same t)
      ∧ Completes (.ebfoldWrite r) s fun t => same t ∧ (r.auth = false → Answered s t r false ebAuthRequired [] ∧ t.hub.sessions = s.hub.sessions))
    ∧ (r.auth = false → ∀ c ∈ [((0x01 : Byte), Instr.read r), (0x03, .describe r), (0x04, .identify r)], s.asks r c.1 = true →
        Completes c.2 s fun t => same t ∧ t.hub.sessions = s.hub.sessions ∧ ∃ st v, Answered s t r false st v)

/-- The entries that act (R246, R247, R252, R378, R380, R391, R401, R403, R405, R446, R448): restore asks for the defaults at the next hub reset; a
coherence entry takes its value and IDENT goes out on every live port; a nomination queues its pseudo-channel, or degrades the channel beyond eight; a
grant starts the copying and a withdrawal ends it, each RANGE in any other state; a refit and a clear act on the curve; rest needs a channel in no
context's set; the coolant status clears only while the pin is deasserted; a retirement takes the channel from every set, and ends once nothing of the
channel is left. -/
def Obligations.DictionaryRows : Prop :=
  (∀ (r : EbReq) (s : State), WritesNow r s →
    let gives (c : Instr) (p : State → Prop) : Prop := Completes c s fun t => Answered s t r true ebOk [] ∧ p t
    let range (c : Instr) : Prop := Completes c s fun t => Answered s t r true ebRange [] ∧ t.chans = s.chans ∧ t.ctxs = s.ctxs ∧ t.hub.dict = s.hub.dict
    (∀ b : Byte, r.index = 0x1011 → r.sub = 0 → r.value = [b] →
      (b.toNat ≤ 1 → gives (.restoreDefaults r) fun t => t.hub.restoreAsked = decide (b = 1)) ∧ (1 < b.toNat → range (.restoreDefaults r)))
    ∧ (∀ w : Word, r.index = 0x2001 → r.sub = 0 → r.value = bytesLe 4 w.toNat → gives (.coherenceConfigWrite r) fun t => t.hub.dict.epoch = w
        ∧ (w ≠ s.hub.dict.epoch → (∀ ch p, (s.chan ch).held = [] ∧ (s.port ch p).queue = []) → ∀ ch p, p < 6 → (s.port ch p).live = true →
            ∃ m : StreamMsg, m.body = .management (.ident (t.identOf ch p))
              ∧ (m ∈ (t.port ch p).queue ∨ ∃ f ∈ (t.port ch p).replay, f.kind = .ctrl ∧ m ∈ f.parts.map (·.msg))))
    ∧ (∀ w : BitVec 512, r.index = 0x2003 → r.sub = 0 → r.value = bytesLe 64 w.toNat → gives (.coherenceConfigWrite r) fun t => t.hub.dict.nodeTable = w)
    ∧ (∀ w : Word, r.index = 0x2004 → r.sub = 0 → r.value = bytesLe 4 w.toNat →
        (1 ≤ w.toNat → w.toNat ≤ 60000 → gives (.coherenceConfigWrite r) fun t => t.hub.dict.linkDead = w)
        ∧ (w.toNat = 0 ∨ 60000 < w.toNat → range (.coherenceConfigWrite r)))
    ∧ (r.index = 0x7030 → r.sub = 1 → r.value = [0] →
        (s.hub.pin = false → gives (.coolantClear r) fun t => t.hub.coolant = false ∧ t.hub.trip = false) ∧ (s.hub.pin = true → range (.coolantClear r)))
    ∧ ∀ ch, (s.chan ch).state ≠ 1 →
        let c := s.chan ch
        (∀ d : Fin 64, ForChannel r ch 0x03 1 [BitVec.ofNat 8 d.val] → gives (.mapoutNominate r) fun t =>
          let due := c.mappedOut + (c.nominations.filter fun y => !decide (y ∈ c.mapOrder)).length
          (d ∈ c.nominations ∨ d ∈ c.mapOrder → t.chans = s.chans)
          ∧ (d ∉ c.nominations → d ∉ c.mapOrder →
              (8 ≤ due → (t.chan ch).degraded = true ∧ (t.chan ch).nominations = c.nominations)
              ∧ (due < 8 → (t.chan ch).nominations = c.nominations ++ [d]
                  ∧ (c.nominations = [] → c.evacState = 0 → (t.chan ch).evacPc = d ∧ (t.chan ch).evacState = if c.autoGrant then 2 else 1))))
        ∧ (ForChannel r ch 0x03 2 [1] →
            (c.evacState = 1 → gives (.mapoutGrant r) fun t => (t.chan ch).evacState = 2 ∧ (t.chan ch).granted = true ∧ (t.chan ch).evacDone = 0)
            ∧ (c.evacState ≠ 1 → range (.mapoutGrant r)))
        ∧ (ForChannel r ch 0x03 2 [0] →
            (c.evacState = 1 ∨ c.evacState = 2 → gives (.mapoutWithdraw r) fun t =>
              (t.chan ch).evacState = 1 ∧ (t.chan ch).granted = false ∧ (t.chan ch).mapOrder = c.mapOrder ∧ (t.chan ch).nominations = c.nominations)
            ∧ (c.evacState ≠ 1 → c.evacState ≠ 2 → range (.mapoutWithdraw r)))
        ∧ (ForChannel r ch 0x12 0 [1] → gives (.curveRefitRequest r) fun t => (t.chan ch).points = [] ∧ (t.chan ch).curve.length = 8)
        ∧ (ForChannel r ch 0x12 0 [2] → gives (.curveClear r) fun t => (t.chan ch).curveClear = true ∧ (t.chan ch).curve = c.curve)
        ∧ (ForChannel r ch 0x14 0 [1] →
            (s.contextsOn ch = 0 → gives (.restEnter r) fun t => (t.chan ch).rest = true ∧ (c.rest = false → (t.chan ch).selfRefresh = true))
            ∧ (s.contextsOn ch ≠ 0 → range (.restEnter r)))
        ∧ (ForChannel r ch 0x14 0 [0] → gives (.restLeave r) fun t => (t.chan ch).rest = false ∧ (c.rest = true → (t.chan ch).selfRefresh = false) ∧ t.mem = s.mem)
        ∧ (ForChannel r ch 0x04 0 [1] →
            (s.onlyChannel ch = true ∨ 2 ≤ c.evacState.val → range (.retireChannel r))
            ∧ (s.onlyChannel ch = false → c.evacState.val < 2 → c.retireAsked = false → gives (.retireChannel r) fun t =>
                (t.chan ch).retireAsked = true ∧ (t.chan ch).reinstateAsked = false ∧ (t.chan ch).state = c.state
                  ∧ ∀ k, (s.ctx k).state ≠ .absent → (t.ctx k).chset.getLsbD ch = false))
        ∧ (ForChannel r ch 0x04 0 [0] → c.retireAsked = true → gives (.reinstateChannel r) fun t => (t.chan ch).reinstateAsked = true ∧ (t.chan ch).state = c.state))
  ∧ (∀ (ch : Fin 32) (s : State),
    let k := ch.val
    (s.chan k).retireAsked = true → (s.chan k).state ≠ 4 → (s.chan k).state ≠ 1 → s.workLeft k = false →
    Completes (.channelRetirement ch) s fun t =>
      ((t.chan k).state = 4 ∨ (t.chan k).state = (s.chan k).state)
        ∧ ((∀ e ∈ s.lines, let l : LineAddr := BitVec.ofNat 50 e.1; s.isLocal l = true → lineChan l = k → e.2.present = false) →
            (∀ j, j / 128 = k → (s.cluster j).lines = []) →
            (t.chan k).state = 4 ∧ (t.chan k).railMilliVolts = 0 ∧ (∀ p, p < 6 → (t.port k p).state = .down) ∧ ∀ n, objChan n = k → (t.obj n).alloc = false))

/-- An image is acceptable exactly when its header, key, signature, body and SVN pass (R408), and a failure names its check, the first that fails. -/
def Obligations.Images : Prop :=
  ∀ (b : List Byte) (kind : Nat) (floor : Word),
    let size := partNat b 16 4
    let formed : Prop := 1024 ≤ b.length ∧ partNat b 0 4 = 0x5746534B ∧ partNat b 4 1 = kind ∧ size ≤ (if kind = 1 then 8 else 4) * 2 ^ 20 ∧ b.length = 1024 + size
      ∧ partZero b 5 3 = true ∧ partZero b 52 12 = true ∧ partZero b 452 60 = true ∧ partZero b 896 128 = true
    let keyed : Prop := sha256 ((b.drop 64).take 388) = Config.fusedKeyHash
    let signed : Prop := pssVerify ((b.drop 64).take 388) (b.take 512) ((b.drop 512).take 384) = true
    let whole : Prop := sha256 (b.drop 1024) = BitVec.ofNat 256 (partNat b 20 32)
    let recent : Prop := floor.toNat ≤ partNat b 12 4
    (imageFails b kind floor = none ↔ formed ∧ keyed ∧ signed ∧ whole ∧ recent)
    ∧ (imageFails b kind floor = some 1 ↔ ¬ formed) ∧ (imageFails b kind floor = some 2 ↔ formed ∧ ¬ keyed) ∧ (imageFails b kind floor = some 3 ↔ formed ∧ keyed ∧ ¬ signed)
    ∧ (imageFails b kind floor = some 4 ↔ formed ∧ keyed ∧ signed ∧ ¬ whole) ∧ (imageFails b kind floor = some 5 ↔ formed ∧ keyed ∧ signed ∧ whole ∧ ¬ recent)

/-- The firmware commands of the owner (R408, R411 to R416): FW_STAGE writes the slot that is not in use and names the first check that fails;
FW_ACTIVATE makes the staged hub slot the boot slot, or starts the update of channels, which goes channel by channel and ends at the first that cannot
be updated or fails; a hand-over that is not answered ends it; a floor rises, never falls, and not above an image in use; a key block is accepted
while no key is installed or under the present key with a higher count; QUOTE writes the signed log. The status and the layout of a failed update are
the model's reading (notes/assumptions/45.md). -/
def Obligations.FirmwareCommands : Prop :=
  (∀ (c : CmdRef) (x : Cmd) (s : State), c.ctx = none →
    let r := x.record
    let kind := recNat r 12 1
    let slot (h : Hub) (k : Nat) (b : Bool) : FwSlot := if k = 1 then h.hubSlot b else h.chanSlot b
    let slots (t : State) : Prop := ∀ k b, slot t.hub k b = slot s.hub k b
    (MayStart c 0x20 x s → ∀ reads : Bool,
      let a := recNat r 16 8
      let n := recNat r 24 4
      let img := (s.readPhys a n).1.1
      (s.atNode a n = false → Completes (.fwStage c reads) s fun t => EndsWith c x (fails stInvalidArgument) t ∧ slots t)
      ∧ (s.atNode a n = true → s.stageTarget kind = none → Completes (.fwStage c reads) s fun t => EndsWith c x (fails stBusy) t ∧ slots t)
      ∧ (∀ b, s.atNode a n = true → s.stageTarget kind = some b →
          (∀ reason, imageFails img kind (s.hub.floor kind) = some reason → Completes (.fwStage c reads) s fun t =>
            EndsWith c x (stInvalidArgument, BitVec.ofNat 64 reason) t ∧ slots t)
          ∧ (imageFails img kind (s.hub.floor kind) = none → Completes (.fwStage c reads) s fun t =>
            t.hub.bootB = s.hub.bootB ∧ t.chans = (s.readPhys a n).2.chans ∧ slot t.hub kind (!b) = slot s.hub kind (!b)
              ∧ (reads = false → EndsWith c x (stInvalidArgument, 6) t ∧ (slot t.hub kind b).full = false)
              ∧ (reads = true → (slot t.hub kind b).full = true ∧ (slot t.hub kind b).version = BitVec.ofNat 32 (partNat img 8 4)
                  ∧ (slot t.hub kind b).svn = BitVec.ofNat 32 (partNat img 12 4)
                  ∧ EndsWith c x (succeeds ((slot t.hub kind b).version.toNat + 2 ^ 32 * (slot t.hub kind b).svn.toNat)) t
                  ∧ (if kind = 1 then t.hub.stagedHub else t.hub.stagedChan) = some b))))
    ∧ (MayStart c 0x21 x s →
      (kind = 1 →
        (∀ b, s.hub.stagedHub = some b → (s.hub.hubSlot b).full = true → Completes (.fwActivate c) s fun t => EndsWith c x (succeeds 0) t ∧ t.hub.bootB = b)
        ∧ (s.hub.stagedHub = none → Completes (.fwActivate c) s fun t => EndsWith c x (fails stInvalidArgument) t ∧ t.hub.bootB = s.hub.bootB))
      ∧ (kind ≠ 1 →
        (s.hub.stagedChan = none → Completes (.fwActivate c) s fun t => EndsWith c x (fails stInvalidArgument) t)
        ∧ (∀ b, s.hub.stagedChan = some b → (s.hub.chanSlot b).full = true → s.hub.fwUpdate = none →
            let named (ch : Fin 32) : Prop := (recNat r 16 4).testBit ch.val = true
            ((∀ ch, named ch → (s.chan ch.val).fwSlotB = b) → Completes (.fwActivate c) s fun t => EndsWith c x (succeeds (recNat r 16 4)) t ∧ t.hub.fwUpdate = none)
            ∧ ((∃ ch, named ch ∧ (s.chan ch.val).fwSlotB ≠ b) → Completes (.fwActivate c) s fun t =>
                GoesOn c x t (fun _ => True) ∧ ∃ todo mask, t.hub.fwUpdate = some (c, todo, mask) ∧ ∀ ch, ch ∈ todo ↔ named ch ∧ (s.chan ch.val).fwSlotB ≠ b))))
    ∧ (MayStart c 0x22 x s →
      let v : Word := BitVec.ofNat 32 (recNat r 16 4)
      let now := s.hub.floor kind
      (v ≤ now → Completes (.fwFloor c) s fun t => EndsWith c x (succeeds now.toNat) t ∧ t.hub.floor kind = now ∧ slots t)
      ∧ (now < v → s.namedBelow kind v = true → Completes (.fwFloor c) s fun t => EndsWith c x (fails stInvalidArgument) t ∧ t.hub.floor kind = now ∧ slots t)
      ∧ (now < v → s.namedBelow kind v = false → s.hub.logRoom = true → Completes (.fwFloor c) s fun t =>
          EndsWith c x (succeeds v.toNat) t ∧ t.hub.floor kind = v ∧ t.hub.log.length = s.hub.log.length + 1
            ∧ ∀ b, (slot s.hub kind b).svn < v → (slot t.hub kind b).full = false))
    ∧ (MayStart c 0x23 x s →
      let a := recNat r 16 8
      let b := (s.readPhys a 776).1.1
      (s.atNode a 776 = false → Completes (.ownerKey c) s fun t => EndsWith c x (fails stInvalidArgument) t ∧ t.hub = s.hub)
      ∧ (s.atNode a 776 = true → s.hub.acceptsKey b = false → Completes (.ownerKey c) s fun t =>
          EndsWith c x (fails stNotPermitted) t ∧ t.hub.ownerKey = s.hub.ownerKey ∧ t.hub.sessions = s.hub.sessions)
      ∧ (s.atNode a 776 = true → s.hub.acceptsKey b = true → s.hub.logRoom = true → Completes (.ownerKey c) s fun t =>
          EndsWith c x (succeeds (partNat b 388 4)) t ∧ t.hub.sessions = [] ∧ t.hub.ownerCount = BitVec.ofNat 32 (partNat b 388 4)
            ∧ t.hub.ownerKey = (if partZero b 0 384 then none else some (b.take 388)) ∧ t.hub.log.length = s.hub.log.length + 1)
      ∧ (s.hub.ownerKey = none → s.hub.acceptsKey b = true))
    ∧ (MayStart c 0x24 x s →
      let size := 128 + 64 * s.hub.log.length + 384
      let body := s.hub.quoteBody (recNat r 32 32)
      (recNat r 24 4 < size → Completes (.quote c) s fun t => EndsWith c x (stInvalidArgument, BitVec.ofNat 64 size) t ∧ t.hostMem = s.hostMem)
      ∧ (size ≤ recNat r 24 4 → Completes (.quote c) s fun t =>
          EndsWith c x (succeeds size) t ∧ t.hub = s.hub
            ∧ (∀ i b, body[i]? = some b → tget none t.hostMem (recNat r 16 8 + i) = some b)
            ∧ ∀ i b, i < 384 → (Config.identitySign body)[i]? = some b → tget none t.hostMem (recNat r 16 8 + body.length + i) = some b)))
  ∧ (∀ (ch : Fin 32) (hash : BitVec 256) (answered : Bool) (s : State) (c : CmdRef) (x : Cmd) (rest : List (Fin 32)) (mask : DWord) (b : Bool),
    s.hub.fwUpdate = some (c, ch :: rest, mask) → s.hub.stagedChan = some b → (s.chan ch.val).handoff = false →
    s.cmdOf c (fun y => decide (y.opcode = 0x21) && decide (y.stage = .started)) = some x →
    let cmd := Instr.channelFirmwareUpdate ch hash answered
    let bits := mask ||| BitVec.ofNat 64 (2 ^ ch.val)
    (s.updateBusy ch.val = true → Completes cmd s fun t => EndsWith c x (stBusy, mask) t ∧ t.hub.fwUpdate = none ∧ t.chans = s.chans)
    ∧ (s.updateBusy ch.val = false →
        (hash ≠ (s.hub.chanSlot b).bodyHash → Completes cmd s fun t => EndsWith c x (updateFails mask ch 4) t ∧ t.hub.fwUpdate = none ∧ t.chans = s.chans)
        ∧ (hash = (s.hub.chanSlot b).bodyHash → answered = false → Completes cmd s fun t => (t.chan ch.val).handoff = true ∧ t.hub = s.hub)
        ∧ (hash = (s.hub.chanSlot b).bodyHash → answered = true → Completes cmd s fun t =>
            (t.chan ch.val).fwSlotB = b ∧ (t.chan ch.val).fwVersion = (s.hub.chanSlot b).version ∧ t.hub.log.length = s.hub.log.length + 1
              ∧ t.cores = s.cores ∧ t.mem = s.mem
              ∧ (rest = [] → EndsWith c x (succeeds bits.toNat) t ∧ t.hub.fwUpdate = none) ∧ (rest ≠ [] → t.hub.fwUpdate = some (c, rest, bits)))))
  ∧ (∀ (ch : Fin 32) (s : State), (s.chan ch.val).handoff = true → Completes (.handoffTimeout ch) s fun t =>
      (t.chan ch.val).handoff = false ∧ (t.chan ch.val).fwSlotB = (s.chan ch.val).fwSlotB ∧ t.hub.fwUpdate = none
        ∧ ∀ c x todo mask, s.hub.fwUpdate = some (c, todo, mask) → s.cmdOf c (fun y => decide (y.opcode = 0x21) && decide (y.stage = .started)) = some x →
            EndsWith c x (updateFails mask ch 7) t)

/-- A step runs the command at the front of the queue on the rest of the queue; on an empty queue time passes, which is the model's
choice (notes/assumptions/10.md): every register, buffer, queue and byte of memory stays as it is but the reference counters and the counters that
sample (R22, R421). -/
def Obligations.StepRunsTheFront : Prop :=
  (∀ (c : Instr) (q : List Instr) (s : State), s.pending = c :: q → step s = exec c { s with pending := q })
  ∧ ∀ s : State, s.pending = [] → ∃ t, step s = .next t ∧
      t.mem = s.mem ∧ t.halves = s.halves ∧ t.hub = s.hub ∧ t.msgs = s.msgs ∧ t.ctxs = s.ctxs ∧ t.fns = s.fns ∧ t.lines = s.lines ∧ t.objs = s.objs
        ∧ t.launches = s.launches ∧ t.pending = []
        ∧ (∀ k, (t.core k).groups = (s.core k).groups ∧ (t.core k).stores = (s.core k).stores ∧ (t.core k).loads = (s.core k).loads)
        ∧ ∀ ch, (s.chan ch).refRunning = false → (t.chan ch).refcnt = (s.chan ch).refcnt

/-- What reset leaves (R9, R245, R333, R339, R376, R381, R382, R404, R445): nothing resident, no context, no signal and no record waiting; memory
initialised and in its canonical form; every function with its default quota, its areas off; the dictionary entries at their defaults, every channel
ready with no pseudo-channel mapped out and no line in its slices. -/
def Obligations.ResetLeaves : Prop :=
  let s := State.reset
  Canonical s ∧ (∀ a, readByte s.mem a = 0) ∧ s.pending = []
  ∧ (∀ k, s.core k = .idle ∧ (s.core k).liveBlocks = []) ∧ (∀ k, (s.ctx k).state = .absent) ∧ (∀ n, (s.obj n).alloc = false) ∧ (∀ l, (s.slice l).present = false)
  ∧ (∀ k l, (s.copyOf k l).state = .i) ∧ s.msgs = [] ∧ s.signals = []
  ∧ (∀ n, let f := s.fnOf n; f.minClass = 1 ∧ f.maxCtx = 8 ∧ f.maxRes = 0 ∧ f.grants = [] ∧ f.cq.enabled = false ∧ f.fault.enabled = false ∧ f.event.enabled = false ∧ f.storeEn = false)
  ∧ (∀ ch, (s.chan ch).state = 2 ∧ (s.chan ch).memMap = 0 ∧ (s.chan ch).mappedOut = 0)
  ∧ (s.hub.dict.powerLimit = 6500 ∧ s.hub.dict.tjLimit = 100 ∧ s.hub.dict.stackLimit = 90 ∧ s.hub.dict.paceTarget = 0x1000 ∧ s.hub.dict.paceFloor = 0x0334
      ∧ s.hub.dict.paceStart = 0x0800 ∧ s.hub.dict.arbRate = 500 ∧ s.hub.dict.fdRate = 2000 ∧ s.hub.dict.xlRate = 5000 ∧ s.hub.dict.frameMode = 1
      ∧ s.hub.dict.prioBase = 0x0400 ∧ s.hub.dict.eventEn = 1 ∧ s.hub.dict.sessionIdle = 30 ∧ s.hub.dict.epoch = 0 ∧ s.hub.dict.nodeTable = 0 ∧ s.hub.dict.linkDead = 20)
  ∧ s.hub.sessions = [] ∧ s.hub.coolant = false ∧ s.hub.trip = false ∧ s.hub.fwUpdate = none ∧ s.hub.stagedHub = none ∧ s.hub.stagedChan = none

/-- Encoding and decoding of Drarak words agree (R66, R452): every field of a word made of fields reads as it was put, in all five forms, FMT is 1 in
form I alone; and every word is the word of its fields. -/
def Obligations.WordsReadBack : Prop :=
  (∀ (h : Head) (t : Tail),
    let w := encodeDrarak h t
    headOf w = h ∧ fClass w = h.cls.toNat ∧ fOp w = h.op.toNat ∧ fPgn w = h.pgn.getLsbD 0 ∧ fPg w = h.pg.toNat ∧ fType w = h.type.toNat
      ∧ fD w = h.d.toNat ∧ fA w = h.a.toNat ∧ fAs w = h.as_.getLsbD 0
      ∧ match t with
        | .formR b c bs cs x => fFmt w = false ∧ fB w = b.toNat ∧ fC w = c.toNat ∧ fBs w = bs.getLsbD 0 ∧ fCs w = cs.getLsbD 0 ∧ fX w = x.toNat
        | .formI imm => fFmt w = true ∧ fImm w = imm
        | .formM b bv bu sz sx cp scale offs => fFmt w = false ∧ fB w = b.toNat ∧ mBv w = bv.getLsbD 0 ∧ mBu w = bu.getLsbD 0 ∧ mSz w = sz.toNat ∧ mSx w = sx.getLsbD 0
            ∧ mCp w = cp.toNat ∧ mScale w = scale.toNat ∧ (mOffs w).toInt = offs.toInt
        | .formA b c bv bu sz8 opx offs => fFmt w = false ∧ fB w = b.toNat ∧ fC w = c.toNat ∧ aBv w = bv.getLsbD 0 ∧ aBu w = bu.getLsbD 0 ∧ aSz8 w = sz8.getLsbD 0
            ∧ aOpx w = opx.toNat ∧ (aOffs w).toInt = offs.toInt
        | .formBR target join => fFmt w = false ∧ (brTarget w).toInt = 8 * target.toInt ∧ (brJoin w).toInt = 8 * join.toInt)
  ∧ (∀ w : DWord, fFmt w = true → encodeDrarak (headOf w) (.formI (fImm w)) = w)
  ∧ (∀ w : DWord, fFmt w = false →
      encodeDrarak (headOf w) (.formR (BitVec.ofNat 6 (fB w)) (BitVec.ofNat 6 (fC w)) (BitVec.ofBool (fBs w)) (BitVec.ofBool (fCs w)) (BitVec.ofNat 18 (fX w))) = w)

/-- Every command keeps the canonical form of the device's memory: the addresses rise, and no byte is listed that an unlisted address reads as (R245:
memory is initialised to zero). It holds of every command and every state, reachable or not. -/
def Obligations.MemoryStaysCanonical : Prop :=
 ∀ s t : State, Canonical s → step s = .next t → Canonical t

/-- An instruction that issues runs, whatever its row, its operands and the errors found in what it reads: the device goes on, with the instruction's
effect, with the exception that R89 gives, or with the wait for its translations (R38, R89, R91, R260). An instruction whose fetch has no translation
starts its walk, and its group waits for it with its registers as they were (R257, R261). -/
def Obligations.IssuedInstructionsRun : Prop :=
  (
    ∀ (g : GRef) (w : DWord) (s : State),
      let rows : List ((GRef → DWord → Instr) × Form) :=
        [(.nop, nopForm), (.bra, braForm), (.brx, brxForm), (.jmpl, jmplForm), (.jmpr, jmprForm), (.exit, exitForm), (.trap, trapForm),
          (.mov, movForm w), (.add, (aluForm 1 2 intTypes 0).byClass w), (.sub, (aluForm 2 2 intTypes 0).byClass w),
          (.mul, (aluForm 3 2 intTypes 0).byClass w), (.mulhi, (aluForm 4 2 [0, 1] 0).byClass w), (.mad, (aluForm 5 3 intTypes 0).byClass w),
          (.min, (aluForm 6 2 intTypes 0).byClass w), (.max, (aluForm 7 2 intTypes 0).byClass w), (.and, (aluForm 8 2 intTypes 0).byClass w),
          (.or, (aluForm 9 2 intTypes 0).byClass w), (.xor, (aluForm 10 2 intTypes 0).byClass w), (.shl, (aluForm 11 2 intTypes 0).byClass w),
          (.shr, (aluForm 12 2 intTypes 0).byClass w), (.sar, (aluForm 13 2 intTypes 0).byClass w), (.sel, selForm w),
          (.popc, (aluForm 15 1 [0, 2] 0).byClass w), (.clz, (aluForm 16 1 [0, 2] 0).byClass w), (.fadd, floatForm [(1, 32), (3, 1)] 2 w),
          (.fsub, floatForm [(3, 2)] 2 w), (.fmul, floatForm [(1, 33), (3, 3)] 2 w), (.ffma, floatForm [(1, 34), (3, 4)] 3 w),
          (.fmin, floatForm [(3, 5)] 2 w), (.fmax, floatForm [(3, 6)] 2 w), (.frcp, floatForm [(3, 7)] 1 w), (.frsq, floatForm [(3, 8)] 1 w),
          (.fsqrt, floatForm [(3, 9)] 1 w), (.fexp2, floatForm [(3, 10)] 1 w), (.flog2, floatForm [(3, 11)] 1 w), (.hzadd, hzaddForm w),
          (.cvt, cvtForm), (.cmp, cmpForm), (.plop, plopForm), (.ptos, ptosForm), (.stop, stopForm), (.pcnt, pcntForm), (.shfl, shflForm),
          (.rdlane, rdlaneForm), (.ld, ldForm), (.st, stForm), (.pref, prefForm), (.ldl, ldlForm), (.stl, stlForm), (.atom, atomForm),
          (.red, redForm), (.ldfe, ldfeForm), (.stfe, stfeForm), (.waitfe, waitfeForm), (.syncSet, syncSetForm), (.syncClear, syncClearForm),
          (.syncWaitSet, syncWaitSetForm), (.syncWaitClear, syncWaitClearForm), (.syncPut, syncPutForm), (.syncTake, syncTakeForm),
          (.syncTest, syncTestForm), (.syncAdd, syncAddForm), (.signal, signalForm), (.waitsig, waitsigForm), (.qload, qloadForm),
          (.qswap, qswapForm), (.qstream, qstreamForm), (.qdrain, qdrainForm), (.qzero, qzeroForm), (.fence, fenceForm), (.complete, completeForm),
          (.barGroup, barGroupForm), (.barBlock, barBlockForm), (.waithint, waithintForm), (.getsr, getsrForm), (.gettid, gettidForm),
          (.clrflags, clrflagsForm), (.moveq, moveqForm)]
      (∀ x ∈ rows, x.2.issues g w s = true → ∃ t, exec (x.1 g w) s = .next t)
        ∧ (∀ lag : Fin 5, getsr64Form.issues g w s = true → ∃ t, exec (.getsr64 g w lag) s = .next t)
        ∧ ((Form.plain [(fClass w, fOp w)] (fun _ _ => false) false).issues g w s = true → decodeDrarak g w = .illegal g w →
          ∃ t, exec (.illegal g w) s = .next t)
  )
  ∧ (
    ∀ (f : Form) (g : GRef) (w : DWord) (s : State) (run : Issued → Out),
      (fClass w, fOp w) ∈ f.encs → s.mayIssue g = true → s.fetched (s.issued g w) = none →
      ∃ t, f.issue g w s run = .next t ∧ (t.group g).waiting = .walk ∧ (t.group g).pc = (s.group g).pc ∧ SameRegs (s.group g) (t.group g)
  )
end

