-- ==== Sys2Proof/Laws/Maps.lean ====
section
/-! SUPPORT. The sparse tables: what a read gives after a write, and that every operation keeps the canonical form. -/

namespace Sys2Proof.Machine

variable {α : Type} (d : α)

/-! ## Reading -/

theorem tget_tput_self (t : Table α) (i : Nat) (x : α) : tget d (tput t i x) i = x := by
  induction t with
  | nil => simp [tput, tget]
  | cons e t ih =>
    obtain ⟨k, v⟩ := e
    simp only [tput]
    split
    · simp [tget]
    · split
      · simp [tget]
      · rename_i h
        simp [tget, h, ih]

theorem tget_tput_other (t : Table α) {i j : Nat} (x : α) (h : j ≠ i) : tget d (tput t i x) j = tget d t j := by
  induction t with
  | nil => simp [tput, tget, h]
  | cons e t ih =>
    obtain ⟨k, v⟩ := e
    simp only [tput]
    split
    · simp [tget, h]
    · split
      · rename_i hk
        subst hk
        simp [tget, h]
      · simp [tget, ih]

theorem tget_tdel_self (t : Table α) (i : Nat) : tget d (tdel t i) i = d := by
  induction t with
  | nil => rfl
  | cons e t ih =>
    obtain ⟨k, v⟩ := e
    by_cases h : k = i
    · simpa [tdel, h] using ih
    · have h' : ¬i = k := fun e => h e.symm
      simpa [tdel, h, h', tget] using ih

theorem tget_tdel_other (t : Table α) {i j : Nat} (h : j ≠ i) : tget d (tdel t i) j = tget d t j := by
  induction t with
  | nil => rfl
  | cons e t ih =>
    obtain ⟨k, v⟩ := e
    by_cases hk : k = i
    · subst hk
      simpa [tdel, tget, h] using ih
    · simp only [tdel, ne_eq, hk, not_false_eq_true, decide_true, List.filter_cons_of_pos, tget]
      split
      · rfl
      · simpa [tdel] using ih

variable [DecidableEq α]

/-- A read of the key that a write wrote gives the written value. -/
@[simp] theorem tget_tset_self (t : Table α) (i : Nat) (x : α) : tget d (tset d t i x) i = x := by
  unfold tset
  split
  · rename_i h
    rw [tget_tdel_self, h]
  · exact tget_tput_self d t i x

/-- A read of another key gives what it gave before. -/
theorem tget_tset_other (t : Table α) {i j : Nat} (x : α) (h : j ≠ i) : tget d (tset d t i x) j = tget d t j := by
  unfold tset
  split
  · exact tget_tdel_other d t h
  · exact tget_tput_other d t x h

theorem tget_tset (t : Table α) (i j : Nat) (x : α) : tget d (tset d t i x) j = if j = i then x else tget d t j := by
  split
  · rename_i h
    rw [h, tget_tset_self]
  · rename_i h
    exact tget_tset_other d t x h

@[simp] theorem tget_tmod_self (t : Table α) (i : Nat) (f : α → α) : tget d (tmod d t i f) i = f (tget d t i) := by
  simp [tmod]

theorem tget_tmod_other (t : Table α) {i j : Nat} (f : α → α) (h : j ≠ i) : tget d (tmod d t i f) j = tget d t j := by
  simp [tmod, tget_tset_other d t _ h]

/-! ## The canonical form -/

theorem risingFrom_mono {β : Type} {a b : Nat} (h : a ≤ b) : ∀ {t : Table β}, risingFrom b t = true → risingFrom a t = true
  | [], _ => rfl
  | (k, v) :: t, ht => by
    simp only [risingFrom, Bool.and_eq_true, decide_eq_true_eq] at ht ⊢
    exact ⟨by omega, ht.2⟩

theorem risingFrom_filter {β : Type} (p : Nat × β → Bool) : ∀ (t : Table β) (lo : Nat), risingFrom lo t = true →
    risingFrom lo (t.filter p) = true
  | [], _, _ => rfl
  | (k, v) :: t, lo, h => by
    simp only [risingFrom, Bool.and_eq_true, decide_eq_true_eq] at h
    have ih := risingFrom_filter p t (k + 1) h.2
    by_cases hp : p (k, v) = true
    · simp [List.filter_cons_of_pos hp, risingFrom, h.1, ih]
    · simp only [List.filter_cons_of_neg hp]
      exact risingFrom_mono (by omega) ih

theorem risingFrom_tput {β : Type} (i : Nat) (x : β) : ∀ (t : Table β) (lo : Nat), lo ≤ i → risingFrom lo t = true →
    risingFrom lo (tput t i x) = true
  | [], lo, hi, _ => by simp [tput, risingFrom, hi]
  | (k, v) :: t, lo, hi, h => by
    simp only [risingFrom, Bool.and_eq_true, decide_eq_true_eq] at h
    simp only [tput]
    split
    · simp [risingFrom, hi, h.2]
      omega
    · split
      · rename_i e
        subst e
        simp [risingFrom, hi, h.2]
      · simp only [risingFrom, Bool.and_eq_true, decide_eq_true_eq]
        exact ⟨h.1, risingFrom_tput i x t (k + 1) (by omega) h.2⟩

theorem all_tput {β : Type} (p : Nat × β → Bool) (i : Nat) (x : β) (hx : p (i, x) = true) : ∀ t : Table β, t.all p = true →
    (tput t i x).all p = true
  | [], _ => by simp [tput, hx]
  | (k, v) :: t, h => by
    simp only [List.all_cons, Bool.and_eq_true] at h
    simp only [tput]
    split
    · simp [hx, h.1, h.2]
    · split
      · simp [hx, h.2]
      · simp [h.1, all_tput p i x hx t h.2]

theorem twf_filter (p : Nat × α → Bool) {t : Table α} (h : twf d t = true) : twf d (t.filter p) = true := by
  simp only [twf, Bool.and_eq_true] at h ⊢
  refine ⟨risingFrom_filter p t 0 h.1, ?_⟩
  simp only [List.all_eq_true] at h ⊢
  exact fun e he => h.2 e (List.mem_filter.mp he).1

/-- A write keeps the canonical form. -/
theorem twf_tset {t : Table α} (h : twf d t = true) (i : Nat) (x : α) : twf d (tset d t i x) = true := by
  unfold tset
  split
  · exact twf_filter d _ h
  · rename_i hx
    simp only [twf, Bool.and_eq_true] at h ⊢
    exact ⟨risingFrom_tput i x t 0 (by omega) h.1, all_tput _ i x (by simp [hx]) t h.2⟩

theorem twf_tmod {t : Table α} (h : twf d t = true) (i : Nat) (f : α → α) : twf d (tmod d t i f) = true := twf_tset d h i _

theorem twf_tdrop {t : Table α} (h : twf d t = true) (p : Nat → Bool) : twf d (tdrop t p) = true := twf_filter d _ h

omit [DecidableEq α] in
theorem mem_tkeys : ∀ (t : Table α) (i : Nat), tget d t i ≠ d → i ∈ tkeys t
  | [], i, h => absurd rfl h
  | (k, v) :: t, i, h => by
    by_cases hik : i = k
    · simp [tkeys, hik]
    · have h' : tget d t i ≠ d := by simpa [tget, hik] using h
      simp [tkeys, hik, mem_tkeys t i h']

theorem nodup_tkeys {β : Type} : ∀ t : Table β, (tkeys t).Nodup
  | [] => List.nodup_nil
  | (k, v) :: t => by
    simp only [tkeys, List.nodup_cons]
    exact ⟨by simp, (nodup_tkeys t).filter _⟩

theorem tget_foldl_tmod (f : α → α) (i : Nat) : ∀ (ks : List Nat) (t : Table α), ks.Nodup →
    tget d (ks.foldl (fun u k => tmod d u k f) t) i = if i ∈ ks then f (tget d t i) else tget d t i
  | [], t, _ => by simp
  | k :: ks, t, h => by
    rw [List.foldl_cons, tget_foldl_tmod f i ks _ (List.nodup_cons.1 h).2]
    by_cases hik : i = k
    · subst hik
      simp [(List.nodup_cons.1 h).1]
    · simp [hik, tget_tmod_other d t f hik]

/-- A map that keeps the default maps every key that satisfies `p`, listed or not. -/
theorem tget_tmapIf (t : Table α) (p : Nat → Bool) (f : α → α) (hd : f d = d) (i : Nat) :
    tget d (tmapIf d t p f) i = if p i then f (tget d t i) else tget d t i := by
  unfold tmapIf
  rw [tget_foldl_tmod d f i _ t ((nodup_tkeys t).filter p)]
  by_cases hp : p i = true
  · by_cases hk : i ∈ tkeys t
    · simp [hp, hk]
    · have : tget d t i = d := Classical.byContradiction fun hne => hk (mem_tkeys d t i hne)
      simp [hp, hk, this, hd]
  · simp [hp]

theorem twf_tmapIf {t : Table α} (h : twf d t = true) (p : Nat → Bool) (f : α → α) : twf d (tmapIf d t p f) = true := by
  unfold tmapIf
  have : ∀ (ks : List Nat) (t : Table α), twf d t = true → twf d (ks.foldl (fun u k => tmod d u k f) t) = true := by
    intro ks
    induction ks with
    | nil => exact fun t h => h
    | cons k ks ih => exact fun t h => ih _ (twf_tmod d h k f)
  exact this _ t h

/-! ## Memory -/

/-- A read of the byte that a write wrote. -/
@[simp] theorem readByte_writeByte_self (m : List Host.Cell) (a : Nat) (b : Byte) : readByte (writeByte m a b) a = b :=
  tget_tset_self 0 m a b

/-- A write leaves every other byte as it was. -/
theorem readByte_writeByte_other (m : List Host.Cell) {a c : Nat} (b : Byte) (h : c ≠ a) : readByte (writeByte m a b) c = readByte m c :=
  tget_tset_other 0 m b h

theorem memWf_writeByte {m : List Host.Cell} (h : Memory.wf m = true) (a : Nat) (b : Byte) : Memory.wf (writeByte m a b) = true :=
  twf_tset 0 h a b

/-- Writing a number of bytes keeps the canonical form of memory. -/
theorem memWf_writeBytes : ∀ (n : Nat) {m : List Host.Cell} (a x : Nat), Memory.wf m = true → Memory.wf (writeBytes m a n x) = true
  | 0, _, _, _, h => h
  | n + 1, _, a, x, h => memWf_writeBytes n (a + 1) (x / 256) (memWf_writeByte h a _)

/-- A byte outside the written range is as it was. -/
theorem readByte_writeBytes_other : ∀ (n : Nat) (m : List Host.Cell) (a x c : Nat), (c < a ∨ a + n ≤ c) →
    readByte (writeBytes m a n x) c = readByte m c
  | 0, _, _, _, _, _ => rfl
  | n + 1, m, a, x, c, h => by
    simp only [writeBytes]
    rw [readByte_writeBytes_other n _ (a + 1) (x / 256) c (by omega), readByte_writeByte_other m _ (by omega)]

/-- Byte `k` of a written range. -/
theorem readByte_writeBytes_in : ∀ (n : Nat) (m : List Host.Cell) (a x k : Nat), k < n →
    readByte (writeBytes m a n x) (a + k) = BitVec.ofNat 8 (x / 256 ^ k)
  | 0, _, _, _, _, h => absurd h (by omega)
  | n + 1, m, a, x, 0, _ => by
    simp only [writeBytes, Nat.add_zero, Nat.pow_zero, Nat.div_one]
    rw [readByte_writeBytes_other n _ (a + 1) _ a (by omega), readByte_writeByte_self]
  | n + 1, m, a, x, k + 1, h => by
    simp only [writeBytes]
    have e : a + (k + 1) = a + 1 + k := by omega
    rw [e, readByte_writeBytes_in n _ (a + 1) (x / 256) k (by omega), Nat.div_div_eq_div_mul, Nat.pow_succ, Nat.mul_comm 256]

end Sys2Proof.Machine
end

