-- ==== Sys2Proof/Laws/State.lean ====
section
/-! SUPPORT. Reading the state after an update: one lemma for each field or accessor and each update. -/

namespace Sys2Proof.Machine

/-! ## The update of `cores` -/

@[simp] theorem State.setCore_core (s : State) (k : Nat) (x : Core) : (s.setCore k x).core k = x := tget_tset_self _ s.cores _ x
theorem State.setCore_core_other (s : State) {k j : Nat} (x : Core) (h : j ≠ k) : (s.setCore k x).core j = s.core j :=
  tget_tset_other _ s.cores _ h
@[simp] theorem State.setCore_cluster (s : State) (k : Nat) (x : Core) (j : Nat) : (s.setCore k x).cluster j = s.cluster j := rfl
@[simp] theorem State.setCore_chan (s : State) (k : Nat) (x : Core) (j : Nat) : (s.setCore k x).chan j = s.chan j := rfl
@[simp] theorem State.setCore_fnOf (s : State) (k : Nat) (x : Core) (j : Nat) : (s.setCore k x).fnOf j = s.fnOf j := rfl
@[simp] theorem State.setCore_ctx (s : State) (k : Nat) (x : Core) (j : Nat) : (s.setCore k x).ctx j = s.ctx j := rfl
@[simp] theorem State.setCore_launchOf (s : State) (k : Nat) (x : Core) (j : Nat) : (s.setCore k x).launchOf j = s.launchOf j := rfl
@[simp] theorem State.setCore_obj (s : State) (k : Nat) (x : Core) (j : Nat) : (s.setCore k x).obj j = s.obj j := rfl
@[simp] theorem State.setCore_slice (s : State) (k : Nat) (x : Core) (j : LineAddr) : (s.setCore k x).slice j = s.slice j := rfl
@[simp] theorem State.setCore_pending (s : State) (k : Nat) (x : Core) : (s.setCore k x).pending = s.pending := rfl
@[simp] theorem State.setCore_hub (s : State) (k : Nat) (x : Core) : (s.setCore k x).hub = s.hub := rfl
@[simp] theorem State.setCore_mem (s : State) (k : Nat) (x : Core) : (s.setCore k x).mem = s.mem := rfl
@[simp] theorem State.setCore_halves (s : State) (k : Nat) (x : Core) : (s.setCore k x).halves = s.halves := rfl
@[simp] theorem State.setCore_upsets (s : State) (k : Nat) (x : Core) : (s.setCore k x).upsets = s.upsets := rfl
@[simp] theorem State.setCore_hostMem (s : State) (k : Nat) (x : Core) : (s.setCore k x).hostMem = s.hostMem := rfl
@[simp] theorem State.setCore_msgs (s : State) (k : Nat) (x : Core) : (s.setCore k x).msgs = s.msgs := rfl
@[simp] theorem State.setCore_signals (s : State) (k : Nat) (x : Core) : (s.setCore k x).signals = s.signals := rfl
@[simp] theorem State.setCore_freeCount (s : State) (k : Nat) (x : Core) : (s.setCore k x).freeCount = s.freeCount := rfl
@[simp] theorem State.setCore_tickets (s : State) (k : Nat) (x : Core) : (s.setCore k x).tickets = s.tickets := rfl
@[simp] theorem State.setCore_clusters (s : State) (k : Nat) (x : Core) : (s.setCore k x).clusters = s.clusters := rfl
@[simp] theorem State.setCore_chans (s : State) (k : Nat) (x : Core) : (s.setCore k x).chans = s.chans := rfl
@[simp] theorem State.setCore_fns (s : State) (k : Nat) (x : Core) : (s.setCore k x).fns = s.fns := rfl
@[simp] theorem State.setCore_ctxs (s : State) (k : Nat) (x : Core) : (s.setCore k x).ctxs = s.ctxs := rfl
@[simp] theorem State.setCore_launches (s : State) (k : Nat) (x : Core) : (s.setCore k x).launches = s.launches := rfl
@[simp] theorem State.setCore_objs (s : State) (k : Nat) (x : Core) : (s.setCore k x).objs = s.objs := rfl
@[simp] theorem State.setCore_lines (s : State) (k : Nat) (x : Core) : (s.setCore k x).lines = s.lines := rfl

@[simp] theorem State.modCore_core (s : State) (k : Nat) (x : Core → Core) : (s.modCore k x).core k = x (s.core k) := tget_tset_self _ s.cores _ (x (s.core k))
theorem State.modCore_core_other (s : State) {k j : Nat} (x : Core → Core) (h : j ≠ k) : (s.modCore k x).core j = s.core j :=
  tget_tset_other _ s.cores _ h
@[simp] theorem State.modCore_cluster (s : State) (k : Nat) (x : Core → Core) (j : Nat) : (s.modCore k x).cluster j = s.cluster j := rfl
@[simp] theorem State.modCore_chan (s : State) (k : Nat) (x : Core → Core) (j : Nat) : (s.modCore k x).chan j = s.chan j := rfl
@[simp] theorem State.modCore_fnOf (s : State) (k : Nat) (x : Core → Core) (j : Nat) : (s.modCore k x).fnOf j = s.fnOf j := rfl
@[simp] theorem State.modCore_ctx (s : State) (k : Nat) (x : Core → Core) (j : Nat) : (s.modCore k x).ctx j = s.ctx j := rfl
@[simp] theorem State.modCore_launchOf (s : State) (k : Nat) (x : Core → Core) (j : Nat) : (s.modCore k x).launchOf j = s.launchOf j := rfl
@[simp] theorem State.modCore_obj (s : State) (k : Nat) (x : Core → Core) (j : Nat) : (s.modCore k x).obj j = s.obj j := rfl
@[simp] theorem State.modCore_slice (s : State) (k : Nat) (x : Core → Core) (j : LineAddr) : (s.modCore k x).slice j = s.slice j := rfl
@[simp] theorem State.modCore_pending (s : State) (k : Nat) (x : Core → Core) : (s.modCore k x).pending = s.pending := rfl
@[simp] theorem State.modCore_hub (s : State) (k : Nat) (x : Core → Core) : (s.modCore k x).hub = s.hub := rfl
@[simp] theorem State.modCore_mem (s : State) (k : Nat) (x : Core → Core) : (s.modCore k x).mem = s.mem := rfl
@[simp] theorem State.modCore_halves (s : State) (k : Nat) (x : Core → Core) : (s.modCore k x).halves = s.halves := rfl
@[simp] theorem State.modCore_upsets (s : State) (k : Nat) (x : Core → Core) : (s.modCore k x).upsets = s.upsets := rfl
@[simp] theorem State.modCore_hostMem (s : State) (k : Nat) (x : Core → Core) : (s.modCore k x).hostMem = s.hostMem := rfl
@[simp] theorem State.modCore_msgs (s : State) (k : Nat) (x : Core → Core) : (s.modCore k x).msgs = s.msgs := rfl
@[simp] theorem State.modCore_signals (s : State) (k : Nat) (x : Core → Core) : (s.modCore k x).signals = s.signals := rfl
@[simp] theorem State.modCore_freeCount (s : State) (k : Nat) (x : Core → Core) : (s.modCore k x).freeCount = s.freeCount := rfl
@[simp] theorem State.modCore_tickets (s : State) (k : Nat) (x : Core → Core) : (s.modCore k x).tickets = s.tickets := rfl
@[simp] theorem State.modCore_clusters (s : State) (k : Nat) (x : Core → Core) : (s.modCore k x).clusters = s.clusters := rfl
@[simp] theorem State.modCore_chans (s : State) (k : Nat) (x : Core → Core) : (s.modCore k x).chans = s.chans := rfl
@[simp] theorem State.modCore_fns (s : State) (k : Nat) (x : Core → Core) : (s.modCore k x).fns = s.fns := rfl
@[simp] theorem State.modCore_ctxs (s : State) (k : Nat) (x : Core → Core) : (s.modCore k x).ctxs = s.ctxs := rfl
@[simp] theorem State.modCore_launches (s : State) (k : Nat) (x : Core → Core) : (s.modCore k x).launches = s.launches := rfl
@[simp] theorem State.modCore_objs (s : State) (k : Nat) (x : Core → Core) : (s.modCore k x).objs = s.objs := rfl
@[simp] theorem State.modCore_lines (s : State) (k : Nat) (x : Core → Core) : (s.modCore k x).lines = s.lines := rfl

/-! ## The update of `clusters` -/

@[simp] theorem State.setCluster_cluster (s : State) (k : Nat) (x : Cluster) : (s.setCluster k x).cluster k = x := tget_tset_self _ s.clusters _ x
theorem State.setCluster_cluster_other (s : State) {k j : Nat} (x : Cluster) (h : j ≠ k) : (s.setCluster k x).cluster j = s.cluster j :=
  tget_tset_other _ s.clusters _ h
@[simp] theorem State.setCluster_core (s : State) (k : Nat) (x : Cluster) (j : Nat) : (s.setCluster k x).core j = s.core j := rfl
@[simp] theorem State.setCluster_chan (s : State) (k : Nat) (x : Cluster) (j : Nat) : (s.setCluster k x).chan j = s.chan j := rfl
@[simp] theorem State.setCluster_fnOf (s : State) (k : Nat) (x : Cluster) (j : Nat) : (s.setCluster k x).fnOf j = s.fnOf j := rfl
@[simp] theorem State.setCluster_ctx (s : State) (k : Nat) (x : Cluster) (j : Nat) : (s.setCluster k x).ctx j = s.ctx j := rfl
@[simp] theorem State.setCluster_launchOf (s : State) (k : Nat) (x : Cluster) (j : Nat) : (s.setCluster k x).launchOf j = s.launchOf j := rfl
@[simp] theorem State.setCluster_obj (s : State) (k : Nat) (x : Cluster) (j : Nat) : (s.setCluster k x).obj j = s.obj j := rfl
@[simp] theorem State.setCluster_slice (s : State) (k : Nat) (x : Cluster) (j : LineAddr) : (s.setCluster k x).slice j = s.slice j := rfl
@[simp] theorem State.setCluster_pending (s : State) (k : Nat) (x : Cluster) : (s.setCluster k x).pending = s.pending := rfl
@[simp] theorem State.setCluster_hub (s : State) (k : Nat) (x : Cluster) : (s.setCluster k x).hub = s.hub := rfl
@[simp] theorem State.setCluster_mem (s : State) (k : Nat) (x : Cluster) : (s.setCluster k x).mem = s.mem := rfl
@[simp] theorem State.setCluster_halves (s : State) (k : Nat) (x : Cluster) : (s.setCluster k x).halves = s.halves := rfl
@[simp] theorem State.setCluster_upsets (s : State) (k : Nat) (x : Cluster) : (s.setCluster k x).upsets = s.upsets := rfl
@[simp] theorem State.setCluster_hostMem (s : State) (k : Nat) (x : Cluster) : (s.setCluster k x).hostMem = s.hostMem := rfl
@[simp] theorem State.setCluster_msgs (s : State) (k : Nat) (x : Cluster) : (s.setCluster k x).msgs = s.msgs := rfl
@[simp] theorem State.setCluster_signals (s : State) (k : Nat) (x : Cluster) : (s.setCluster k x).signals = s.signals := rfl
@[simp] theorem State.setCluster_freeCount (s : State) (k : Nat) (x : Cluster) : (s.setCluster k x).freeCount = s.freeCount := rfl
@[simp] theorem State.setCluster_tickets (s : State) (k : Nat) (x : Cluster) : (s.setCluster k x).tickets = s.tickets := rfl
@[simp] theorem State.setCluster_cores (s : State) (k : Nat) (x : Cluster) : (s.setCluster k x).cores = s.cores := rfl
@[simp] theorem State.setCluster_chans (s : State) (k : Nat) (x : Cluster) : (s.setCluster k x).chans = s.chans := rfl
@[simp] theorem State.setCluster_fns (s : State) (k : Nat) (x : Cluster) : (s.setCluster k x).fns = s.fns := rfl
@[simp] theorem State.setCluster_ctxs (s : State) (k : Nat) (x : Cluster) : (s.setCluster k x).ctxs = s.ctxs := rfl
@[simp] theorem State.setCluster_launches (s : State) (k : Nat) (x : Cluster) : (s.setCluster k x).launches = s.launches := rfl
@[simp] theorem State.setCluster_objs (s : State) (k : Nat) (x : Cluster) : (s.setCluster k x).objs = s.objs := rfl
@[simp] theorem State.setCluster_lines (s : State) (k : Nat) (x : Cluster) : (s.setCluster k x).lines = s.lines := rfl

@[simp] theorem State.modCluster_cluster (s : State) (k : Nat) (x : Cluster → Cluster) : (s.modCluster k x).cluster k = x (s.cluster k) := tget_tset_self _ s.clusters _ (x (s.cluster k))
theorem State.modCluster_cluster_other (s : State) {k j : Nat} (x : Cluster → Cluster) (h : j ≠ k) : (s.modCluster k x).cluster j = s.cluster j :=
  tget_tset_other _ s.clusters _ h
@[simp] theorem State.modCluster_core (s : State) (k : Nat) (x : Cluster → Cluster) (j : Nat) : (s.modCluster k x).core j = s.core j := rfl
@[simp] theorem State.modCluster_chan (s : State) (k : Nat) (x : Cluster → Cluster) (j : Nat) : (s.modCluster k x).chan j = s.chan j := rfl
@[simp] theorem State.modCluster_fnOf (s : State) (k : Nat) (x : Cluster → Cluster) (j : Nat) : (s.modCluster k x).fnOf j = s.fnOf j := rfl
@[simp] theorem State.modCluster_ctx (s : State) (k : Nat) (x : Cluster → Cluster) (j : Nat) : (s.modCluster k x).ctx j = s.ctx j := rfl
@[simp] theorem State.modCluster_launchOf (s : State) (k : Nat) (x : Cluster → Cluster) (j : Nat) : (s.modCluster k x).launchOf j = s.launchOf j := rfl
@[simp] theorem State.modCluster_obj (s : State) (k : Nat) (x : Cluster → Cluster) (j : Nat) : (s.modCluster k x).obj j = s.obj j := rfl
@[simp] theorem State.modCluster_slice (s : State) (k : Nat) (x : Cluster → Cluster) (j : LineAddr) : (s.modCluster k x).slice j = s.slice j := rfl
@[simp] theorem State.modCluster_pending (s : State) (k : Nat) (x : Cluster → Cluster) : (s.modCluster k x).pending = s.pending := rfl
@[simp] theorem State.modCluster_hub (s : State) (k : Nat) (x : Cluster → Cluster) : (s.modCluster k x).hub = s.hub := rfl
@[simp] theorem State.modCluster_mem (s : State) (k : Nat) (x : Cluster → Cluster) : (s.modCluster k x).mem = s.mem := rfl
@[simp] theorem State.modCluster_halves (s : State) (k : Nat) (x : Cluster → Cluster) : (s.modCluster k x).halves = s.halves := rfl
@[simp] theorem State.modCluster_upsets (s : State) (k : Nat) (x : Cluster → Cluster) : (s.modCluster k x).upsets = s.upsets := rfl
@[simp] theorem State.modCluster_hostMem (s : State) (k : Nat) (x : Cluster → Cluster) : (s.modCluster k x).hostMem = s.hostMem := rfl
@[simp] theorem State.modCluster_msgs (s : State) (k : Nat) (x : Cluster → Cluster) : (s.modCluster k x).msgs = s.msgs := rfl
@[simp] theorem State.modCluster_signals (s : State) (k : Nat) (x : Cluster → Cluster) : (s.modCluster k x).signals = s.signals := rfl
@[simp] theorem State.modCluster_freeCount (s : State) (k : Nat) (x : Cluster → Cluster) : (s.modCluster k x).freeCount = s.freeCount := rfl
@[simp] theorem State.modCluster_tickets (s : State) (k : Nat) (x : Cluster → Cluster) : (s.modCluster k x).tickets = s.tickets := rfl
@[simp] theorem State.modCluster_cores (s : State) (k : Nat) (x : Cluster → Cluster) : (s.modCluster k x).cores = s.cores := rfl
@[simp] theorem State.modCluster_chans (s : State) (k : Nat) (x : Cluster → Cluster) : (s.modCluster k x).chans = s.chans := rfl
@[simp] theorem State.modCluster_fns (s : State) (k : Nat) (x : Cluster → Cluster) : (s.modCluster k x).fns = s.fns := rfl
@[simp] theorem State.modCluster_ctxs (s : State) (k : Nat) (x : Cluster → Cluster) : (s.modCluster k x).ctxs = s.ctxs := rfl
@[simp] theorem State.modCluster_launches (s : State) (k : Nat) (x : Cluster → Cluster) : (s.modCluster k x).launches = s.launches := rfl
@[simp] theorem State.modCluster_objs (s : State) (k : Nat) (x : Cluster → Cluster) : (s.modCluster k x).objs = s.objs := rfl
@[simp] theorem State.modCluster_lines (s : State) (k : Nat) (x : Cluster → Cluster) : (s.modCluster k x).lines = s.lines := rfl

/-! ## The update of `chans` -/

@[simp] theorem State.setChan_chan (s : State) (k : Nat) (x : Channel) : (s.setChan k x).chan k = x := tget_tset_self _ s.chans _ x
theorem State.setChan_chan_other (s : State) {k j : Nat} (x : Channel) (h : j ≠ k) : (s.setChan k x).chan j = s.chan j :=
  tget_tset_other _ s.chans _ h
@[simp] theorem State.setChan_core (s : State) (k : Nat) (x : Channel) (j : Nat) : (s.setChan k x).core j = s.core j := rfl
@[simp] theorem State.setChan_cluster (s : State) (k : Nat) (x : Channel) (j : Nat) : (s.setChan k x).cluster j = s.cluster j := rfl
@[simp] theorem State.setChan_fnOf (s : State) (k : Nat) (x : Channel) (j : Nat) : (s.setChan k x).fnOf j = s.fnOf j := rfl
@[simp] theorem State.setChan_ctx (s : State) (k : Nat) (x : Channel) (j : Nat) : (s.setChan k x).ctx j = s.ctx j := rfl
@[simp] theorem State.setChan_launchOf (s : State) (k : Nat) (x : Channel) (j : Nat) : (s.setChan k x).launchOf j = s.launchOf j := rfl
@[simp] theorem State.setChan_obj (s : State) (k : Nat) (x : Channel) (j : Nat) : (s.setChan k x).obj j = s.obj j := rfl
@[simp] theorem State.setChan_slice (s : State) (k : Nat) (x : Channel) (j : LineAddr) : (s.setChan k x).slice j = s.slice j := rfl
@[simp] theorem State.setChan_pending (s : State) (k : Nat) (x : Channel) : (s.setChan k x).pending = s.pending := rfl
@[simp] theorem State.setChan_hub (s : State) (k : Nat) (x : Channel) : (s.setChan k x).hub = s.hub := rfl
@[simp] theorem State.setChan_mem (s : State) (k : Nat) (x : Channel) : (s.setChan k x).mem = s.mem := rfl
@[simp] theorem State.setChan_halves (s : State) (k : Nat) (x : Channel) : (s.setChan k x).halves = s.halves := rfl
@[simp] theorem State.setChan_upsets (s : State) (k : Nat) (x : Channel) : (s.setChan k x).upsets = s.upsets := rfl
@[simp] theorem State.setChan_hostMem (s : State) (k : Nat) (x : Channel) : (s.setChan k x).hostMem = s.hostMem := rfl
@[simp] theorem State.setChan_msgs (s : State) (k : Nat) (x : Channel) : (s.setChan k x).msgs = s.msgs := rfl
@[simp] theorem State.setChan_signals (s : State) (k : Nat) (x : Channel) : (s.setChan k x).signals = s.signals := rfl
@[simp] theorem State.setChan_freeCount (s : State) (k : Nat) (x : Channel) : (s.setChan k x).freeCount = s.freeCount := rfl
@[simp] theorem State.setChan_tickets (s : State) (k : Nat) (x : Channel) : (s.setChan k x).tickets = s.tickets := rfl
@[simp] theorem State.setChan_cores (s : State) (k : Nat) (x : Channel) : (s.setChan k x).cores = s.cores := rfl
@[simp] theorem State.setChan_clusters (s : State) (k : Nat) (x : Channel) : (s.setChan k x).clusters = s.clusters := rfl
@[simp] theorem State.setChan_fns (s : State) (k : Nat) (x : Channel) : (s.setChan k x).fns = s.fns := rfl
@[simp] theorem State.setChan_ctxs (s : State) (k : Nat) (x : Channel) : (s.setChan k x).ctxs = s.ctxs := rfl
@[simp] theorem State.setChan_launches (s : State) (k : Nat) (x : Channel) : (s.setChan k x).launches = s.launches := rfl
@[simp] theorem State.setChan_objs (s : State) (k : Nat) (x : Channel) : (s.setChan k x).objs = s.objs := rfl
@[simp] theorem State.setChan_lines (s : State) (k : Nat) (x : Channel) : (s.setChan k x).lines = s.lines := rfl

@[simp] theorem State.modChan_chan (s : State) (k : Nat) (x : Channel → Channel) : (s.modChan k x).chan k = x (s.chan k) := tget_tset_self _ s.chans _ (x (s.chan k))
theorem State.modChan_chan_other (s : State) {k j : Nat} (x : Channel → Channel) (h : j ≠ k) : (s.modChan k x).chan j = s.chan j :=
  tget_tset_other _ s.chans _ h
@[simp] theorem State.modChan_core (s : State) (k : Nat) (x : Channel → Channel) (j : Nat) : (s.modChan k x).core j = s.core j := rfl
@[simp] theorem State.modChan_cluster (s : State) (k : Nat) (x : Channel → Channel) (j : Nat) : (s.modChan k x).cluster j = s.cluster j := rfl
@[simp] theorem State.modChan_fnOf (s : State) (k : Nat) (x : Channel → Channel) (j : Nat) : (s.modChan k x).fnOf j = s.fnOf j := rfl
@[simp] theorem State.modChan_ctx (s : State) (k : Nat) (x : Channel → Channel) (j : Nat) : (s.modChan k x).ctx j = s.ctx j := rfl
@[simp] theorem State.modChan_launchOf (s : State) (k : Nat) (x : Channel → Channel) (j : Nat) : (s.modChan k x).launchOf j = s.launchOf j := rfl
@[simp] theorem State.modChan_obj (s : State) (k : Nat) (x : Channel → Channel) (j : Nat) : (s.modChan k x).obj j = s.obj j := rfl
@[simp] theorem State.modChan_slice (s : State) (k : Nat) (x : Channel → Channel) (j : LineAddr) : (s.modChan k x).slice j = s.slice j := rfl
@[simp] theorem State.modChan_pending (s : State) (k : Nat) (x : Channel → Channel) : (s.modChan k x).pending = s.pending := rfl
@[simp] theorem State.modChan_hub (s : State) (k : Nat) (x : Channel → Channel) : (s.modChan k x).hub = s.hub := rfl
@[simp] theorem State.modChan_mem (s : State) (k : Nat) (x : Channel → Channel) : (s.modChan k x).mem = s.mem := rfl
@[simp] theorem State.modChan_halves (s : State) (k : Nat) (x : Channel → Channel) : (s.modChan k x).halves = s.halves := rfl
@[simp] theorem State.modChan_upsets (s : State) (k : Nat) (x : Channel → Channel) : (s.modChan k x).upsets = s.upsets := rfl
@[simp] theorem State.modChan_hostMem (s : State) (k : Nat) (x : Channel → Channel) : (s.modChan k x).hostMem = s.hostMem := rfl
@[simp] theorem State.modChan_msgs (s : State) (k : Nat) (x : Channel → Channel) : (s.modChan k x).msgs = s.msgs := rfl
@[simp] theorem State.modChan_signals (s : State) (k : Nat) (x : Channel → Channel) : (s.modChan k x).signals = s.signals := rfl
@[simp] theorem State.modChan_freeCount (s : State) (k : Nat) (x : Channel → Channel) : (s.modChan k x).freeCount = s.freeCount := rfl
@[simp] theorem State.modChan_tickets (s : State) (k : Nat) (x : Channel → Channel) : (s.modChan k x).tickets = s.tickets := rfl
@[simp] theorem State.modChan_cores (s : State) (k : Nat) (x : Channel → Channel) : (s.modChan k x).cores = s.cores := rfl
@[simp] theorem State.modChan_clusters (s : State) (k : Nat) (x : Channel → Channel) : (s.modChan k x).clusters = s.clusters := rfl
@[simp] theorem State.modChan_fns (s : State) (k : Nat) (x : Channel → Channel) : (s.modChan k x).fns = s.fns := rfl
@[simp] theorem State.modChan_ctxs (s : State) (k : Nat) (x : Channel → Channel) : (s.modChan k x).ctxs = s.ctxs := rfl
@[simp] theorem State.modChan_launches (s : State) (k : Nat) (x : Channel → Channel) : (s.modChan k x).launches = s.launches := rfl
@[simp] theorem State.modChan_objs (s : State) (k : Nat) (x : Channel → Channel) : (s.modChan k x).objs = s.objs := rfl
@[simp] theorem State.modChan_lines (s : State) (k : Nat) (x : Channel → Channel) : (s.modChan k x).lines = s.lines := rfl

/-! ## The update of `fns` -/

@[simp] theorem State.setFn_fnOf (s : State) (k : Nat) (x : Func) : (s.setFn k x).fnOf k = x := tget_tset_self _ s.fns _ x
theorem State.setFn_fnOf_other (s : State) {k j : Nat} (x : Func) (h : j ≠ k) : (s.setFn k x).fnOf j = s.fnOf j :=
  tget_tset_other _ s.fns _ h
@[simp] theorem State.setFn_core (s : State) (k : Nat) (x : Func) (j : Nat) : (s.setFn k x).core j = s.core j := rfl
@[simp] theorem State.setFn_cluster (s : State) (k : Nat) (x : Func) (j : Nat) : (s.setFn k x).cluster j = s.cluster j := rfl
@[simp] theorem State.setFn_chan (s : State) (k : Nat) (x : Func) (j : Nat) : (s.setFn k x).chan j = s.chan j := rfl
@[simp] theorem State.setFn_ctx (s : State) (k : Nat) (x : Func) (j : Nat) : (s.setFn k x).ctx j = s.ctx j := rfl
@[simp] theorem State.setFn_launchOf (s : State) (k : Nat) (x : Func) (j : Nat) : (s.setFn k x).launchOf j = s.launchOf j := rfl
@[simp] theorem State.setFn_obj (s : State) (k : Nat) (x : Func) (j : Nat) : (s.setFn k x).obj j = s.obj j := rfl
@[simp] theorem State.setFn_slice (s : State) (k : Nat) (x : Func) (j : LineAddr) : (s.setFn k x).slice j = s.slice j := rfl
@[simp] theorem State.setFn_pending (s : State) (k : Nat) (x : Func) : (s.setFn k x).pending = s.pending := rfl
@[simp] theorem State.setFn_hub (s : State) (k : Nat) (x : Func) : (s.setFn k x).hub = s.hub := rfl
@[simp] theorem State.setFn_mem (s : State) (k : Nat) (x : Func) : (s.setFn k x).mem = s.mem := rfl
@[simp] theorem State.setFn_halves (s : State) (k : Nat) (x : Func) : (s.setFn k x).halves = s.halves := rfl
@[simp] theorem State.setFn_upsets (s : State) (k : Nat) (x : Func) : (s.setFn k x).upsets = s.upsets := rfl
@[simp] theorem State.setFn_hostMem (s : State) (k : Nat) (x : Func) : (s.setFn k x).hostMem = s.hostMem := rfl
@[simp] theorem State.setFn_msgs (s : State) (k : Nat) (x : Func) : (s.setFn k x).msgs = s.msgs := rfl
@[simp] theorem State.setFn_signals (s : State) (k : Nat) (x : Func) : (s.setFn k x).signals = s.signals := rfl
@[simp] theorem State.setFn_freeCount (s : State) (k : Nat) (x : Func) : (s.setFn k x).freeCount = s.freeCount := rfl
@[simp] theorem State.setFn_tickets (s : State) (k : Nat) (x : Func) : (s.setFn k x).tickets = s.tickets := rfl
@[simp] theorem State.setFn_cores (s : State) (k : Nat) (x : Func) : (s.setFn k x).cores = s.cores := rfl
@[simp] theorem State.setFn_clusters (s : State) (k : Nat) (x : Func) : (s.setFn k x).clusters = s.clusters := rfl
@[simp] theorem State.setFn_chans (s : State) (k : Nat) (x : Func) : (s.setFn k x).chans = s.chans := rfl
@[simp] theorem State.setFn_ctxs (s : State) (k : Nat) (x : Func) : (s.setFn k x).ctxs = s.ctxs := rfl
@[simp] theorem State.setFn_launches (s : State) (k : Nat) (x : Func) : (s.setFn k x).launches = s.launches := rfl
@[simp] theorem State.setFn_objs (s : State) (k : Nat) (x : Func) : (s.setFn k x).objs = s.objs := rfl
@[simp] theorem State.setFn_lines (s : State) (k : Nat) (x : Func) : (s.setFn k x).lines = s.lines := rfl

@[simp] theorem State.modFn_fnOf (s : State) (k : Nat) (x : Func → Func) : (s.modFn k x).fnOf k = x (s.fnOf k) := tget_tset_self _ s.fns _ (x (s.fnOf k))
theorem State.modFn_fnOf_other (s : State) {k j : Nat} (x : Func → Func) (h : j ≠ k) : (s.modFn k x).fnOf j = s.fnOf j :=
  tget_tset_other _ s.fns _ h
@[simp] theorem State.modFn_core (s : State) (k : Nat) (x : Func → Func) (j : Nat) : (s.modFn k x).core j = s.core j := rfl
@[simp] theorem State.modFn_cluster (s : State) (k : Nat) (x : Func → Func) (j : Nat) : (s.modFn k x).cluster j = s.cluster j := rfl
@[simp] theorem State.modFn_chan (s : State) (k : Nat) (x : Func → Func) (j : Nat) : (s.modFn k x).chan j = s.chan j := rfl
@[simp] theorem State.modFn_ctx (s : State) (k : Nat) (x : Func → Func) (j : Nat) : (s.modFn k x).ctx j = s.ctx j := rfl
@[simp] theorem State.modFn_launchOf (s : State) (k : Nat) (x : Func → Func) (j : Nat) : (s.modFn k x).launchOf j = s.launchOf j := rfl
@[simp] theorem State.modFn_obj (s : State) (k : Nat) (x : Func → Func) (j : Nat) : (s.modFn k x).obj j = s.obj j := rfl
@[simp] theorem State.modFn_slice (s : State) (k : Nat) (x : Func → Func) (j : LineAddr) : (s.modFn k x).slice j = s.slice j := rfl
@[simp] theorem State.modFn_pending (s : State) (k : Nat) (x : Func → Func) : (s.modFn k x).pending = s.pending := rfl
@[simp] theorem State.modFn_hub (s : State) (k : Nat) (x : Func → Func) : (s.modFn k x).hub = s.hub := rfl
@[simp] theorem State.modFn_mem (s : State) (k : Nat) (x : Func → Func) : (s.modFn k x).mem = s.mem := rfl
@[simp] theorem State.modFn_halves (s : State) (k : Nat) (x : Func → Func) : (s.modFn k x).halves = s.halves := rfl
@[simp] theorem State.modFn_upsets (s : State) (k : Nat) (x : Func → Func) : (s.modFn k x).upsets = s.upsets := rfl
@[simp] theorem State.modFn_hostMem (s : State) (k : Nat) (x : Func → Func) : (s.modFn k x).hostMem = s.hostMem := rfl
@[simp] theorem State.modFn_msgs (s : State) (k : Nat) (x : Func → Func) : (s.modFn k x).msgs = s.msgs := rfl
@[simp] theorem State.modFn_signals (s : State) (k : Nat) (x : Func → Func) : (s.modFn k x).signals = s.signals := rfl
@[simp] theorem State.modFn_freeCount (s : State) (k : Nat) (x : Func → Func) : (s.modFn k x).freeCount = s.freeCount := rfl
@[simp] theorem State.modFn_tickets (s : State) (k : Nat) (x : Func → Func) : (s.modFn k x).tickets = s.tickets := rfl
@[simp] theorem State.modFn_cores (s : State) (k : Nat) (x : Func → Func) : (s.modFn k x).cores = s.cores := rfl
@[simp] theorem State.modFn_clusters (s : State) (k : Nat) (x : Func → Func) : (s.modFn k x).clusters = s.clusters := rfl
@[simp] theorem State.modFn_chans (s : State) (k : Nat) (x : Func → Func) : (s.modFn k x).chans = s.chans := rfl
@[simp] theorem State.modFn_ctxs (s : State) (k : Nat) (x : Func → Func) : (s.modFn k x).ctxs = s.ctxs := rfl
@[simp] theorem State.modFn_launches (s : State) (k : Nat) (x : Func → Func) : (s.modFn k x).launches = s.launches := rfl
@[simp] theorem State.modFn_objs (s : State) (k : Nat) (x : Func → Func) : (s.modFn k x).objs = s.objs := rfl
@[simp] theorem State.modFn_lines (s : State) (k : Nat) (x : Func → Func) : (s.modFn k x).lines = s.lines := rfl

/-! ## The update of `ctxs` -/

@[simp] theorem State.setCtx_ctx (s : State) (k : Nat) (x : Context) : (s.setCtx k x).ctx k = x := tget_tset_self _ s.ctxs _ x
theorem State.setCtx_ctx_other (s : State) {k j : Nat} (x : Context) (h : j ≠ k) : (s.setCtx k x).ctx j = s.ctx j :=
  tget_tset_other _ s.ctxs _ h
@[simp] theorem State.setCtx_core (s : State) (k : Nat) (x : Context) (j : Nat) : (s.setCtx k x).core j = s.core j := rfl
@[simp] theorem State.setCtx_cluster (s : State) (k : Nat) (x : Context) (j : Nat) : (s.setCtx k x).cluster j = s.cluster j := rfl
@[simp] theorem State.setCtx_chan (s : State) (k : Nat) (x : Context) (j : Nat) : (s.setCtx k x).chan j = s.chan j := rfl
@[simp] theorem State.setCtx_fnOf (s : State) (k : Nat) (x : Context) (j : Nat) : (s.setCtx k x).fnOf j = s.fnOf j := rfl
@[simp] theorem State.setCtx_launchOf (s : State) (k : Nat) (x : Context) (j : Nat) : (s.setCtx k x).launchOf j = s.launchOf j := rfl
@[simp] theorem State.setCtx_obj (s : State) (k : Nat) (x : Context) (j : Nat) : (s.setCtx k x).obj j = s.obj j := rfl
@[simp] theorem State.setCtx_slice (s : State) (k : Nat) (x : Context) (j : LineAddr) : (s.setCtx k x).slice j = s.slice j := rfl
@[simp] theorem State.setCtx_pending (s : State) (k : Nat) (x : Context) : (s.setCtx k x).pending = s.pending := rfl
@[simp] theorem State.setCtx_hub (s : State) (k : Nat) (x : Context) : (s.setCtx k x).hub = s.hub := rfl
@[simp] theorem State.setCtx_mem (s : State) (k : Nat) (x : Context) : (s.setCtx k x).mem = s.mem := rfl
@[simp] theorem State.setCtx_halves (s : State) (k : Nat) (x : Context) : (s.setCtx k x).halves = s.halves := rfl
@[simp] theorem State.setCtx_upsets (s : State) (k : Nat) (x : Context) : (s.setCtx k x).upsets = s.upsets := rfl
@[simp] theorem State.setCtx_hostMem (s : State) (k : Nat) (x : Context) : (s.setCtx k x).hostMem = s.hostMem := rfl
@[simp] theorem State.setCtx_msgs (s : State) (k : Nat) (x : Context) : (s.setCtx k x).msgs = s.msgs := rfl
@[simp] theorem State.setCtx_signals (s : State) (k : Nat) (x : Context) : (s.setCtx k x).signals = s.signals := rfl
@[simp] theorem State.setCtx_freeCount (s : State) (k : Nat) (x : Context) : (s.setCtx k x).freeCount = s.freeCount := rfl
@[simp] theorem State.setCtx_tickets (s : State) (k : Nat) (x : Context) : (s.setCtx k x).tickets = s.tickets := rfl
@[simp] theorem State.setCtx_cores (s : State) (k : Nat) (x : Context) : (s.setCtx k x).cores = s.cores := rfl
@[simp] theorem State.setCtx_clusters (s : State) (k : Nat) (x : Context) : (s.setCtx k x).clusters = s.clusters := rfl
@[simp] theorem State.setCtx_chans (s : State) (k : Nat) (x : Context) : (s.setCtx k x).chans = s.chans := rfl
@[simp] theorem State.setCtx_fns (s : State) (k : Nat) (x : Context) : (s.setCtx k x).fns = s.fns := rfl
@[simp] theorem State.setCtx_launches (s : State) (k : Nat) (x : Context) : (s.setCtx k x).launches = s.launches := rfl
@[simp] theorem State.setCtx_objs (s : State) (k : Nat) (x : Context) : (s.setCtx k x).objs = s.objs := rfl
@[simp] theorem State.setCtx_lines (s : State) (k : Nat) (x : Context) : (s.setCtx k x).lines = s.lines := rfl

@[simp] theorem State.modCtx_ctx (s : State) (k : Nat) (x : Context → Context) : (s.modCtx k x).ctx k = x (s.ctx k) := tget_tset_self _ s.ctxs _ (x (s.ctx k))
theorem State.modCtx_ctx_other (s : State) {k j : Nat} (x : Context → Context) (h : j ≠ k) : (s.modCtx k x).ctx j = s.ctx j :=
  tget_tset_other _ s.ctxs _ h
@[simp] theorem State.modCtx_core (s : State) (k : Nat) (x : Context → Context) (j : Nat) : (s.modCtx k x).core j = s.core j := rfl
@[simp] theorem State.modCtx_cluster (s : State) (k : Nat) (x : Context → Context) (j : Nat) : (s.modCtx k x).cluster j = s.cluster j := rfl
@[simp] theorem State.modCtx_chan (s : State) (k : Nat) (x : Context → Context) (j : Nat) : (s.modCtx k x).chan j = s.chan j := rfl
@[simp] theorem State.modCtx_fnOf (s : State) (k : Nat) (x : Context → Context) (j : Nat) : (s.modCtx k x).fnOf j = s.fnOf j := rfl
@[simp] theorem State.modCtx_launchOf (s : State) (k : Nat) (x : Context → Context) (j : Nat) : (s.modCtx k x).launchOf j = s.launchOf j := rfl
@[simp] theorem State.modCtx_obj (s : State) (k : Nat) (x : Context → Context) (j : Nat) : (s.modCtx k x).obj j = s.obj j := rfl
@[simp] theorem State.modCtx_slice (s : State) (k : Nat) (x : Context → Context) (j : LineAddr) : (s.modCtx k x).slice j = s.slice j := rfl
@[simp] theorem State.modCtx_pending (s : State) (k : Nat) (x : Context → Context) : (s.modCtx k x).pending = s.pending := rfl
@[simp] theorem State.modCtx_hub (s : State) (k : Nat) (x : Context → Context) : (s.modCtx k x).hub = s.hub := rfl
@[simp] theorem State.modCtx_mem (s : State) (k : Nat) (x : Context → Context) : (s.modCtx k x).mem = s.mem := rfl
@[simp] theorem State.modCtx_halves (s : State) (k : Nat) (x : Context → Context) : (s.modCtx k x).halves = s.halves := rfl
@[simp] theorem State.modCtx_upsets (s : State) (k : Nat) (x : Context → Context) : (s.modCtx k x).upsets = s.upsets := rfl
@[simp] theorem State.modCtx_hostMem (s : State) (k : Nat) (x : Context → Context) : (s.modCtx k x).hostMem = s.hostMem := rfl
@[simp] theorem State.modCtx_msgs (s : State) (k : Nat) (x : Context → Context) : (s.modCtx k x).msgs = s.msgs := rfl
@[simp] theorem State.modCtx_signals (s : State) (k : Nat) (x : Context → Context) : (s.modCtx k x).signals = s.signals := rfl
@[simp] theorem State.modCtx_freeCount (s : State) (k : Nat) (x : Context → Context) : (s.modCtx k x).freeCount = s.freeCount := rfl
@[simp] theorem State.modCtx_tickets (s : State) (k : Nat) (x : Context → Context) : (s.modCtx k x).tickets = s.tickets := rfl
@[simp] theorem State.modCtx_cores (s : State) (k : Nat) (x : Context → Context) : (s.modCtx k x).cores = s.cores := rfl
@[simp] theorem State.modCtx_clusters (s : State) (k : Nat) (x : Context → Context) : (s.modCtx k x).clusters = s.clusters := rfl
@[simp] theorem State.modCtx_chans (s : State) (k : Nat) (x : Context → Context) : (s.modCtx k x).chans = s.chans := rfl
@[simp] theorem State.modCtx_fns (s : State) (k : Nat) (x : Context → Context) : (s.modCtx k x).fns = s.fns := rfl
@[simp] theorem State.modCtx_launches (s : State) (k : Nat) (x : Context → Context) : (s.modCtx k x).launches = s.launches := rfl
@[simp] theorem State.modCtx_objs (s : State) (k : Nat) (x : Context → Context) : (s.modCtx k x).objs = s.objs := rfl
@[simp] theorem State.modCtx_lines (s : State) (k : Nat) (x : Context → Context) : (s.modCtx k x).lines = s.lines := rfl

/-! ## The update of `launches` -/

@[simp] theorem State.setLaunch_launchOf (s : State) (k : Nat) (x : Launch) : (s.setLaunch k x).launchOf k = x := tget_tset_self _ s.launches _ x
theorem State.setLaunch_launchOf_other (s : State) {k j : Nat} (x : Launch) (h : j ≠ k) : (s.setLaunch k x).launchOf j = s.launchOf j :=
  tget_tset_other _ s.launches _ h
@[simp] theorem State.setLaunch_core (s : State) (k : Nat) (x : Launch) (j : Nat) : (s.setLaunch k x).core j = s.core j := rfl
@[simp] theorem State.setLaunch_cluster (s : State) (k : Nat) (x : Launch) (j : Nat) : (s.setLaunch k x).cluster j = s.cluster j := rfl
@[simp] theorem State.setLaunch_chan (s : State) (k : Nat) (x : Launch) (j : Nat) : (s.setLaunch k x).chan j = s.chan j := rfl
@[simp] theorem State.setLaunch_fnOf (s : State) (k : Nat) (x : Launch) (j : Nat) : (s.setLaunch k x).fnOf j = s.fnOf j := rfl
@[simp] theorem State.setLaunch_ctx (s : State) (k : Nat) (x : Launch) (j : Nat) : (s.setLaunch k x).ctx j = s.ctx j := rfl
@[simp] theorem State.setLaunch_obj (s : State) (k : Nat) (x : Launch) (j : Nat) : (s.setLaunch k x).obj j = s.obj j := rfl
@[simp] theorem State.setLaunch_slice (s : State) (k : Nat) (x : Launch) (j : LineAddr) : (s.setLaunch k x).slice j = s.slice j := rfl
@[simp] theorem State.setLaunch_pending (s : State) (k : Nat) (x : Launch) : (s.setLaunch k x).pending = s.pending := rfl
@[simp] theorem State.setLaunch_hub (s : State) (k : Nat) (x : Launch) : (s.setLaunch k x).hub = s.hub := rfl
@[simp] theorem State.setLaunch_mem (s : State) (k : Nat) (x : Launch) : (s.setLaunch k x).mem = s.mem := rfl
@[simp] theorem State.setLaunch_halves (s : State) (k : Nat) (x : Launch) : (s.setLaunch k x).halves = s.halves := rfl
@[simp] theorem State.setLaunch_upsets (s : State) (k : Nat) (x : Launch) : (s.setLaunch k x).upsets = s.upsets := rfl
@[simp] theorem State.setLaunch_hostMem (s : State) (k : Nat) (x : Launch) : (s.setLaunch k x).hostMem = s.hostMem := rfl
@[simp] theorem State.setLaunch_msgs (s : State) (k : Nat) (x : Launch) : (s.setLaunch k x).msgs = s.msgs := rfl
@[simp] theorem State.setLaunch_signals (s : State) (k : Nat) (x : Launch) : (s.setLaunch k x).signals = s.signals := rfl
@[simp] theorem State.setLaunch_freeCount (s : State) (k : Nat) (x : Launch) : (s.setLaunch k x).freeCount = s.freeCount := rfl
@[simp] theorem State.setLaunch_tickets (s : State) (k : Nat) (x : Launch) : (s.setLaunch k x).tickets = s.tickets := rfl
@[simp] theorem State.setLaunch_cores (s : State) (k : Nat) (x : Launch) : (s.setLaunch k x).cores = s.cores := rfl
@[simp] theorem State.setLaunch_clusters (s : State) (k : Nat) (x : Launch) : (s.setLaunch k x).clusters = s.clusters := rfl
@[simp] theorem State.setLaunch_chans (s : State) (k : Nat) (x : Launch) : (s.setLaunch k x).chans = s.chans := rfl
@[simp] theorem State.setLaunch_fns (s : State) (k : Nat) (x : Launch) : (s.setLaunch k x).fns = s.fns := rfl
@[simp] theorem State.setLaunch_ctxs (s : State) (k : Nat) (x : Launch) : (s.setLaunch k x).ctxs = s.ctxs := rfl
@[simp] theorem State.setLaunch_objs (s : State) (k : Nat) (x : Launch) : (s.setLaunch k x).objs = s.objs := rfl
@[simp] theorem State.setLaunch_lines (s : State) (k : Nat) (x : Launch) : (s.setLaunch k x).lines = s.lines := rfl

@[simp] theorem State.modLaunch_launchOf (s : State) (k : Nat) (x : Launch → Launch) : (s.modLaunch k x).launchOf k = x (s.launchOf k) := tget_tset_self _ s.launches _ (x (s.launchOf k))
theorem State.modLaunch_launchOf_other (s : State) {k j : Nat} (x : Launch → Launch) (h : j ≠ k) : (s.modLaunch k x).launchOf j = s.launchOf j :=
  tget_tset_other _ s.launches _ h
@[simp] theorem State.modLaunch_core (s : State) (k : Nat) (x : Launch → Launch) (j : Nat) : (s.modLaunch k x).core j = s.core j := rfl
@[simp] theorem State.modLaunch_cluster (s : State) (k : Nat) (x : Launch → Launch) (j : Nat) : (s.modLaunch k x).cluster j = s.cluster j := rfl
@[simp] theorem State.modLaunch_chan (s : State) (k : Nat) (x : Launch → Launch) (j : Nat) : (s.modLaunch k x).chan j = s.chan j := rfl
@[simp] theorem State.modLaunch_fnOf (s : State) (k : Nat) (x : Launch → Launch) (j : Nat) : (s.modLaunch k x).fnOf j = s.fnOf j := rfl
@[simp] theorem State.modLaunch_ctx (s : State) (k : Nat) (x : Launch → Launch) (j : Nat) : (s.modLaunch k x).ctx j = s.ctx j := rfl
@[simp] theorem State.modLaunch_obj (s : State) (k : Nat) (x : Launch → Launch) (j : Nat) : (s.modLaunch k x).obj j = s.obj j := rfl
@[simp] theorem State.modLaunch_slice (s : State) (k : Nat) (x : Launch → Launch) (j : LineAddr) : (s.modLaunch k x).slice j = s.slice j := rfl
@[simp] theorem State.modLaunch_pending (s : State) (k : Nat) (x : Launch → Launch) : (s.modLaunch k x).pending = s.pending := rfl
@[simp] theorem State.modLaunch_hub (s : State) (k : Nat) (x : Launch → Launch) : (s.modLaunch k x).hub = s.hub := rfl
@[simp] theorem State.modLaunch_mem (s : State) (k : Nat) (x : Launch → Launch) : (s.modLaunch k x).mem = s.mem := rfl
@[simp] theorem State.modLaunch_halves (s : State) (k : Nat) (x : Launch → Launch) : (s.modLaunch k x).halves = s.halves := rfl
@[simp] theorem State.modLaunch_upsets (s : State) (k : Nat) (x : Launch → Launch) : (s.modLaunch k x).upsets = s.upsets := rfl
@[simp] theorem State.modLaunch_hostMem (s : State) (k : Nat) (x : Launch → Launch) : (s.modLaunch k x).hostMem = s.hostMem := rfl
@[simp] theorem State.modLaunch_msgs (s : State) (k : Nat) (x : Launch → Launch) : (s.modLaunch k x).msgs = s.msgs := rfl
@[simp] theorem State.modLaunch_signals (s : State) (k : Nat) (x : Launch → Launch) : (s.modLaunch k x).signals = s.signals := rfl
@[simp] theorem State.modLaunch_freeCount (s : State) (k : Nat) (x : Launch → Launch) : (s.modLaunch k x).freeCount = s.freeCount := rfl
@[simp] theorem State.modLaunch_tickets (s : State) (k : Nat) (x : Launch → Launch) : (s.modLaunch k x).tickets = s.tickets := rfl
@[simp] theorem State.modLaunch_cores (s : State) (k : Nat) (x : Launch → Launch) : (s.modLaunch k x).cores = s.cores := rfl
@[simp] theorem State.modLaunch_clusters (s : State) (k : Nat) (x : Launch → Launch) : (s.modLaunch k x).clusters = s.clusters := rfl
@[simp] theorem State.modLaunch_chans (s : State) (k : Nat) (x : Launch → Launch) : (s.modLaunch k x).chans = s.chans := rfl
@[simp] theorem State.modLaunch_fns (s : State) (k : Nat) (x : Launch → Launch) : (s.modLaunch k x).fns = s.fns := rfl
@[simp] theorem State.modLaunch_ctxs (s : State) (k : Nat) (x : Launch → Launch) : (s.modLaunch k x).ctxs = s.ctxs := rfl
@[simp] theorem State.modLaunch_objs (s : State) (k : Nat) (x : Launch → Launch) : (s.modLaunch k x).objs = s.objs := rfl
@[simp] theorem State.modLaunch_lines (s : State) (k : Nat) (x : Launch → Launch) : (s.modLaunch k x).lines = s.lines := rfl

/-! ## The update of `objs` -/

@[simp] theorem State.setObj_obj (s : State) (k : Nat) (x : SyncObj) : (s.setObj k x).obj k = x := tget_tset_self _ s.objs _ x
theorem State.setObj_obj_other (s : State) {k j : Nat} (x : SyncObj) (h : j ≠ k) : (s.setObj k x).obj j = s.obj j :=
  tget_tset_other _ s.objs _ h
@[simp] theorem State.setObj_core (s : State) (k : Nat) (x : SyncObj) (j : Nat) : (s.setObj k x).core j = s.core j := rfl
@[simp] theorem State.setObj_cluster (s : State) (k : Nat) (x : SyncObj) (j : Nat) : (s.setObj k x).cluster j = s.cluster j := rfl
@[simp] theorem State.setObj_chan (s : State) (k : Nat) (x : SyncObj) (j : Nat) : (s.setObj k x).chan j = s.chan j := rfl
@[simp] theorem State.setObj_fnOf (s : State) (k : Nat) (x : SyncObj) (j : Nat) : (s.setObj k x).fnOf j = s.fnOf j := rfl
@[simp] theorem State.setObj_ctx (s : State) (k : Nat) (x : SyncObj) (j : Nat) : (s.setObj k x).ctx j = s.ctx j := rfl
@[simp] theorem State.setObj_launchOf (s : State) (k : Nat) (x : SyncObj) (j : Nat) : (s.setObj k x).launchOf j = s.launchOf j := rfl
@[simp] theorem State.setObj_slice (s : State) (k : Nat) (x : SyncObj) (j : LineAddr) : (s.setObj k x).slice j = s.slice j := rfl
@[simp] theorem State.setObj_pending (s : State) (k : Nat) (x : SyncObj) : (s.setObj k x).pending = s.pending := rfl
@[simp] theorem State.setObj_hub (s : State) (k : Nat) (x : SyncObj) : (s.setObj k x).hub = s.hub := rfl
@[simp] theorem State.setObj_mem (s : State) (k : Nat) (x : SyncObj) : (s.setObj k x).mem = s.mem := rfl
@[simp] theorem State.setObj_halves (s : State) (k : Nat) (x : SyncObj) : (s.setObj k x).halves = s.halves := rfl
@[simp] theorem State.setObj_upsets (s : State) (k : Nat) (x : SyncObj) : (s.setObj k x).upsets = s.upsets := rfl
@[simp] theorem State.setObj_hostMem (s : State) (k : Nat) (x : SyncObj) : (s.setObj k x).hostMem = s.hostMem := rfl
@[simp] theorem State.setObj_msgs (s : State) (k : Nat) (x : SyncObj) : (s.setObj k x).msgs = s.msgs := rfl
@[simp] theorem State.setObj_signals (s : State) (k : Nat) (x : SyncObj) : (s.setObj k x).signals = s.signals := rfl
@[simp] theorem State.setObj_freeCount (s : State) (k : Nat) (x : SyncObj) : (s.setObj k x).freeCount = s.freeCount := rfl
@[simp] theorem State.setObj_tickets (s : State) (k : Nat) (x : SyncObj) : (s.setObj k x).tickets = s.tickets := rfl
@[simp] theorem State.setObj_cores (s : State) (k : Nat) (x : SyncObj) : (s.setObj k x).cores = s.cores := rfl
@[simp] theorem State.setObj_clusters (s : State) (k : Nat) (x : SyncObj) : (s.setObj k x).clusters = s.clusters := rfl
@[simp] theorem State.setObj_chans (s : State) (k : Nat) (x : SyncObj) : (s.setObj k x).chans = s.chans := rfl
@[simp] theorem State.setObj_fns (s : State) (k : Nat) (x : SyncObj) : (s.setObj k x).fns = s.fns := rfl
@[simp] theorem State.setObj_ctxs (s : State) (k : Nat) (x : SyncObj) : (s.setObj k x).ctxs = s.ctxs := rfl
@[simp] theorem State.setObj_launches (s : State) (k : Nat) (x : SyncObj) : (s.setObj k x).launches = s.launches := rfl
@[simp] theorem State.setObj_lines (s : State) (k : Nat) (x : SyncObj) : (s.setObj k x).lines = s.lines := rfl

@[simp] theorem State.modObj_obj (s : State) (k : Nat) (x : SyncObj → SyncObj) : (s.modObj k x).obj k = x (s.obj k) := tget_tset_self _ s.objs _ (x (s.obj k))
theorem State.modObj_obj_other (s : State) {k j : Nat} (x : SyncObj → SyncObj) (h : j ≠ k) : (s.modObj k x).obj j = s.obj j :=
  tget_tset_other _ s.objs _ h
@[simp] theorem State.modObj_core (s : State) (k : Nat) (x : SyncObj → SyncObj) (j : Nat) : (s.modObj k x).core j = s.core j := rfl
@[simp] theorem State.modObj_cluster (s : State) (k : Nat) (x : SyncObj → SyncObj) (j : Nat) : (s.modObj k x).cluster j = s.cluster j := rfl
@[simp] theorem State.modObj_chan (s : State) (k : Nat) (x : SyncObj → SyncObj) (j : Nat) : (s.modObj k x).chan j = s.chan j := rfl
@[simp] theorem State.modObj_fnOf (s : State) (k : Nat) (x : SyncObj → SyncObj) (j : Nat) : (s.modObj k x).fnOf j = s.fnOf j := rfl
@[simp] theorem State.modObj_ctx (s : State) (k : Nat) (x : SyncObj → SyncObj) (j : Nat) : (s.modObj k x).ctx j = s.ctx j := rfl
@[simp] theorem State.modObj_launchOf (s : State) (k : Nat) (x : SyncObj → SyncObj) (j : Nat) : (s.modObj k x).launchOf j = s.launchOf j := rfl
@[simp] theorem State.modObj_slice (s : State) (k : Nat) (x : SyncObj → SyncObj) (j : LineAddr) : (s.modObj k x).slice j = s.slice j := rfl
@[simp] theorem State.modObj_pending (s : State) (k : Nat) (x : SyncObj → SyncObj) : (s.modObj k x).pending = s.pending := rfl
@[simp] theorem State.modObj_hub (s : State) (k : Nat) (x : SyncObj → SyncObj) : (s.modObj k x).hub = s.hub := rfl
@[simp] theorem State.modObj_mem (s : State) (k : Nat) (x : SyncObj → SyncObj) : (s.modObj k x).mem = s.mem := rfl
@[simp] theorem State.modObj_halves (s : State) (k : Nat) (x : SyncObj → SyncObj) : (s.modObj k x).halves = s.halves := rfl
@[simp] theorem State.modObj_upsets (s : State) (k : Nat) (x : SyncObj → SyncObj) : (s.modObj k x).upsets = s.upsets := rfl
@[simp] theorem State.modObj_hostMem (s : State) (k : Nat) (x : SyncObj → SyncObj) : (s.modObj k x).hostMem = s.hostMem := rfl
@[simp] theorem State.modObj_msgs (s : State) (k : Nat) (x : SyncObj → SyncObj) : (s.modObj k x).msgs = s.msgs := rfl
@[simp] theorem State.modObj_signals (s : State) (k : Nat) (x : SyncObj → SyncObj) : (s.modObj k x).signals = s.signals := rfl
@[simp] theorem State.modObj_freeCount (s : State) (k : Nat) (x : SyncObj → SyncObj) : (s.modObj k x).freeCount = s.freeCount := rfl
@[simp] theorem State.modObj_tickets (s : State) (k : Nat) (x : SyncObj → SyncObj) : (s.modObj k x).tickets = s.tickets := rfl
@[simp] theorem State.modObj_cores (s : State) (k : Nat) (x : SyncObj → SyncObj) : (s.modObj k x).cores = s.cores := rfl
@[simp] theorem State.modObj_clusters (s : State) (k : Nat) (x : SyncObj → SyncObj) : (s.modObj k x).clusters = s.clusters := rfl
@[simp] theorem State.modObj_chans (s : State) (k : Nat) (x : SyncObj → SyncObj) : (s.modObj k x).chans = s.chans := rfl
@[simp] theorem State.modObj_fns (s : State) (k : Nat) (x : SyncObj → SyncObj) : (s.modObj k x).fns = s.fns := rfl
@[simp] theorem State.modObj_ctxs (s : State) (k : Nat) (x : SyncObj → SyncObj) : (s.modObj k x).ctxs = s.ctxs := rfl
@[simp] theorem State.modObj_launches (s : State) (k : Nat) (x : SyncObj → SyncObj) : (s.modObj k x).launches = s.launches := rfl
@[simp] theorem State.modObj_lines (s : State) (k : Nat) (x : SyncObj → SyncObj) : (s.modObj k x).lines = s.lines := rfl

/-! ## The update of `lines` -/

@[simp] theorem State.setSlice_slice (s : State) (k : LineAddr) (x : SliceLine) : (s.setSlice k x).slice k = x := tget_tset_self _ s.lines _ x
theorem State.setSlice_slice_other (s : State) {k j : LineAddr} (x : SliceLine) (h : j ≠ k) : (s.setSlice k x).slice j = s.slice j :=
  tget_tset_other _ s.lines _ (fun e => h (BitVec.eq_of_toNat_eq e))
@[simp] theorem State.setSlice_core (s : State) (k : LineAddr) (x : SliceLine) (j : Nat) : (s.setSlice k x).core j = s.core j := rfl
@[simp] theorem State.setSlice_cluster (s : State) (k : LineAddr) (x : SliceLine) (j : Nat) : (s.setSlice k x).cluster j = s.cluster j := rfl
@[simp] theorem State.setSlice_chan (s : State) (k : LineAddr) (x : SliceLine) (j : Nat) : (s.setSlice k x).chan j = s.chan j := rfl
@[simp] theorem State.setSlice_fnOf (s : State) (k : LineAddr) (x : SliceLine) (j : Nat) : (s.setSlice k x).fnOf j = s.fnOf j := rfl
@[simp] theorem State.setSlice_ctx (s : State) (k : LineAddr) (x : SliceLine) (j : Nat) : (s.setSlice k x).ctx j = s.ctx j := rfl
@[simp] theorem State.setSlice_launchOf (s : State) (k : LineAddr) (x : SliceLine) (j : Nat) : (s.setSlice k x).launchOf j = s.launchOf j := rfl
@[simp] theorem State.setSlice_obj (s : State) (k : LineAddr) (x : SliceLine) (j : Nat) : (s.setSlice k x).obj j = s.obj j := rfl
@[simp] theorem State.setSlice_pending (s : State) (k : LineAddr) (x : SliceLine) : (s.setSlice k x).pending = s.pending := rfl
@[simp] theorem State.setSlice_hub (s : State) (k : LineAddr) (x : SliceLine) : (s.setSlice k x).hub = s.hub := rfl
@[simp] theorem State.setSlice_mem (s : State) (k : LineAddr) (x : SliceLine) : (s.setSlice k x).mem = s.mem := rfl
@[simp] theorem State.setSlice_halves (s : State) (k : LineAddr) (x : SliceLine) : (s.setSlice k x).halves = s.halves := rfl
@[simp] theorem State.setSlice_upsets (s : State) (k : LineAddr) (x : SliceLine) : (s.setSlice k x).upsets = s.upsets := rfl
@[simp] theorem State.setSlice_hostMem (s : State) (k : LineAddr) (x : SliceLine) : (s.setSlice k x).hostMem = s.hostMem := rfl
@[simp] theorem State.setSlice_msgs (s : State) (k : LineAddr) (x : SliceLine) : (s.setSlice k x).msgs = s.msgs := rfl
@[simp] theorem State.setSlice_signals (s : State) (k : LineAddr) (x : SliceLine) : (s.setSlice k x).signals = s.signals := rfl
@[simp] theorem State.setSlice_freeCount (s : State) (k : LineAddr) (x : SliceLine) : (s.setSlice k x).freeCount = s.freeCount := rfl
@[simp] theorem State.setSlice_tickets (s : State) (k : LineAddr) (x : SliceLine) : (s.setSlice k x).tickets = s.tickets := rfl
@[simp] theorem State.setSlice_cores (s : State) (k : LineAddr) (x : SliceLine) : (s.setSlice k x).cores = s.cores := rfl
@[simp] theorem State.setSlice_clusters (s : State) (k : LineAddr) (x : SliceLine) : (s.setSlice k x).clusters = s.clusters := rfl
@[simp] theorem State.setSlice_chans (s : State) (k : LineAddr) (x : SliceLine) : (s.setSlice k x).chans = s.chans := rfl
@[simp] theorem State.setSlice_fns (s : State) (k : LineAddr) (x : SliceLine) : (s.setSlice k x).fns = s.fns := rfl
@[simp] theorem State.setSlice_ctxs (s : State) (k : LineAddr) (x : SliceLine) : (s.setSlice k x).ctxs = s.ctxs := rfl
@[simp] theorem State.setSlice_launches (s : State) (k : LineAddr) (x : SliceLine) : (s.setSlice k x).launches = s.launches := rfl
@[simp] theorem State.setSlice_objs (s : State) (k : LineAddr) (x : SliceLine) : (s.setSlice k x).objs = s.objs := rfl

@[simp] theorem State.modSlice_slice (s : State) (k : LineAddr) (x : SliceLine → SliceLine) : (s.modSlice k x).slice k = x (s.slice k) := tget_tset_self _ s.lines _ (x (s.slice k))
theorem State.modSlice_slice_other (s : State) {k j : LineAddr} (x : SliceLine → SliceLine) (h : j ≠ k) : (s.modSlice k x).slice j = s.slice j :=
  tget_tset_other _ s.lines _ (fun e => h (BitVec.eq_of_toNat_eq e))
@[simp] theorem State.modSlice_core (s : State) (k : LineAddr) (x : SliceLine → SliceLine) (j : Nat) : (s.modSlice k x).core j = s.core j := rfl
@[simp] theorem State.modSlice_cluster (s : State) (k : LineAddr) (x : SliceLine → SliceLine) (j : Nat) : (s.modSlice k x).cluster j = s.cluster j := rfl
@[simp] theorem State.modSlice_chan (s : State) (k : LineAddr) (x : SliceLine → SliceLine) (j : Nat) : (s.modSlice k x).chan j = s.chan j := rfl
@[simp] theorem State.modSlice_fnOf (s : State) (k : LineAddr) (x : SliceLine → SliceLine) (j : Nat) : (s.modSlice k x).fnOf j = s.fnOf j := rfl
@[simp] theorem State.modSlice_ctx (s : State) (k : LineAddr) (x : SliceLine → SliceLine) (j : Nat) : (s.modSlice k x).ctx j = s.ctx j := rfl
@[simp] theorem State.modSlice_launchOf (s : State) (k : LineAddr) (x : SliceLine → SliceLine) (j : Nat) : (s.modSlice k x).launchOf j = s.launchOf j := rfl
@[simp] theorem State.modSlice_obj (s : State) (k : LineAddr) (x : SliceLine → SliceLine) (j : Nat) : (s.modSlice k x).obj j = s.obj j := rfl
@[simp] theorem State.modSlice_pending (s : State) (k : LineAddr) (x : SliceLine → SliceLine) : (s.modSlice k x).pending = s.pending := rfl
@[simp] theorem State.modSlice_hub (s : State) (k : LineAddr) (x : SliceLine → SliceLine) : (s.modSlice k x).hub = s.hub := rfl
@[simp] theorem State.modSlice_mem (s : State) (k : LineAddr) (x : SliceLine → SliceLine) : (s.modSlice k x).mem = s.mem := rfl
@[simp] theorem State.modSlice_halves (s : State) (k : LineAddr) (x : SliceLine → SliceLine) : (s.modSlice k x).halves = s.halves := rfl
@[simp] theorem State.modSlice_upsets (s : State) (k : LineAddr) (x : SliceLine → SliceLine) : (s.modSlice k x).upsets = s.upsets := rfl
@[simp] theorem State.modSlice_hostMem (s : State) (k : LineAddr) (x : SliceLine → SliceLine) : (s.modSlice k x).hostMem = s.hostMem := rfl
@[simp] theorem State.modSlice_msgs (s : State) (k : LineAddr) (x : SliceLine → SliceLine) : (s.modSlice k x).msgs = s.msgs := rfl
@[simp] theorem State.modSlice_signals (s : State) (k : LineAddr) (x : SliceLine → SliceLine) : (s.modSlice k x).signals = s.signals := rfl
@[simp] theorem State.modSlice_freeCount (s : State) (k : LineAddr) (x : SliceLine → SliceLine) : (s.modSlice k x).freeCount = s.freeCount := rfl
@[simp] theorem State.modSlice_tickets (s : State) (k : LineAddr) (x : SliceLine → SliceLine) : (s.modSlice k x).tickets = s.tickets := rfl
@[simp] theorem State.modSlice_cores (s : State) (k : LineAddr) (x : SliceLine → SliceLine) : (s.modSlice k x).cores = s.cores := rfl
@[simp] theorem State.modSlice_clusters (s : State) (k : LineAddr) (x : SliceLine → SliceLine) : (s.modSlice k x).clusters = s.clusters := rfl
@[simp] theorem State.modSlice_chans (s : State) (k : LineAddr) (x : SliceLine → SliceLine) : (s.modSlice k x).chans = s.chans := rfl
@[simp] theorem State.modSlice_fns (s : State) (k : LineAddr) (x : SliceLine → SliceLine) : (s.modSlice k x).fns = s.fns := rfl
@[simp] theorem State.modSlice_ctxs (s : State) (k : LineAddr) (x : SliceLine → SliceLine) : (s.modSlice k x).ctxs = s.ctxs := rfl
@[simp] theorem State.modSlice_launches (s : State) (k : LineAddr) (x : SliceLine → SliceLine) : (s.modSlice k x).launches = s.launches := rfl
@[simp] theorem State.modSlice_objs (s : State) (k : LineAddr) (x : SliceLine → SliceLine) : (s.modSlice k x).objs = s.objs := rfl

/-! ## The hub -/

@[simp] theorem State.setHub_hub (s : State) (f : Hub → Hub) : (s.setHub f).hub = f s.hub := rfl
@[simp] theorem State.setHub_core (s : State) (f : Hub → Hub) (j : Nat) : (s.setHub f).core j = s.core j := rfl
@[simp] theorem State.setHub_cluster (s : State) (f : Hub → Hub) (j : Nat) : (s.setHub f).cluster j = s.cluster j := rfl
@[simp] theorem State.setHub_chan (s : State) (f : Hub → Hub) (j : Nat) : (s.setHub f).chan j = s.chan j := rfl
@[simp] theorem State.setHub_fnOf (s : State) (f : Hub → Hub) (j : Nat) : (s.setHub f).fnOf j = s.fnOf j := rfl
@[simp] theorem State.setHub_ctx (s : State) (f : Hub → Hub) (j : Nat) : (s.setHub f).ctx j = s.ctx j := rfl
@[simp] theorem State.setHub_launchOf (s : State) (f : Hub → Hub) (j : Nat) : (s.setHub f).launchOf j = s.launchOf j := rfl
@[simp] theorem State.setHub_obj (s : State) (f : Hub → Hub) (j : Nat) : (s.setHub f).obj j = s.obj j := rfl
@[simp] theorem State.setHub_slice (s : State) (f : Hub → Hub) (j : LineAddr) : (s.setHub f).slice j = s.slice j := rfl
@[simp] theorem State.setHub_pending (s : State) (f : Hub → Hub) : (s.setHub f).pending = s.pending := rfl
@[simp] theorem State.setHub_mem (s : State) (f : Hub → Hub) : (s.setHub f).mem = s.mem := rfl
@[simp] theorem State.setHub_halves (s : State) (f : Hub → Hub) : (s.setHub f).halves = s.halves := rfl
@[simp] theorem State.setHub_upsets (s : State) (f : Hub → Hub) : (s.setHub f).upsets = s.upsets := rfl
@[simp] theorem State.setHub_hostMem (s : State) (f : Hub → Hub) : (s.setHub f).hostMem = s.hostMem := rfl
@[simp] theorem State.setHub_msgs (s : State) (f : Hub → Hub) : (s.setHub f).msgs = s.msgs := rfl
@[simp] theorem State.setHub_signals (s : State) (f : Hub → Hub) : (s.setHub f).signals = s.signals := rfl
@[simp] theorem State.setHub_freeCount (s : State) (f : Hub → Hub) : (s.setHub f).freeCount = s.freeCount := rfl
@[simp] theorem State.setHub_tickets (s : State) (f : Hub → Hub) : (s.setHub f).tickets = s.tickets := rfl
@[simp] theorem State.setHub_cores (s : State) (f : Hub → Hub) : (s.setHub f).cores = s.cores := rfl
@[simp] theorem State.setHub_clusters (s : State) (f : Hub → Hub) : (s.setHub f).clusters = s.clusters := rfl
@[simp] theorem State.setHub_chans (s : State) (f : Hub → Hub) : (s.setHub f).chans = s.chans := rfl
@[simp] theorem State.setHub_fns (s : State) (f : Hub → Hub) : (s.setHub f).fns = s.fns := rfl
@[simp] theorem State.setHub_ctxs (s : State) (f : Hub → Hub) : (s.setHub f).ctxs = s.ctxs := rfl
@[simp] theorem State.setHub_launches (s : State) (f : Hub → Hub) : (s.setHub f).launches = s.launches := rfl
@[simp] theorem State.setHub_objs (s : State) (f : Hub → Hub) : (s.setHub f).objs = s.objs := rfl
@[simp] theorem State.setHub_lines (s : State) (f : Hub → Hub) : (s.setHub f).lines = s.lines := rfl

/-! ## `withPending` -/

@[simp] theorem State.withPending_pending (s : State) (q : List Instr) : (s.withPending q).pending = q := rfl
@[simp] theorem State.withPending_core (s : State) (q : List Instr) (j : Nat) : (s.withPending q).core j = s.core j := rfl
@[simp] theorem State.withPending_cluster (s : State) (q : List Instr) (j : Nat) : (s.withPending q).cluster j = s.cluster j := rfl
@[simp] theorem State.withPending_chan (s : State) (q : List Instr) (j : Nat) : (s.withPending q).chan j = s.chan j := rfl
@[simp] theorem State.withPending_fnOf (s : State) (q : List Instr) (j : Nat) : (s.withPending q).fnOf j = s.fnOf j := rfl
@[simp] theorem State.withPending_ctx (s : State) (q : List Instr) (j : Nat) : (s.withPending q).ctx j = s.ctx j := rfl
@[simp] theorem State.withPending_launchOf (s : State) (q : List Instr) (j : Nat) : (s.withPending q).launchOf j = s.launchOf j := rfl
@[simp] theorem State.withPending_obj (s : State) (q : List Instr) (j : Nat) : (s.withPending q).obj j = s.obj j := rfl
@[simp] theorem State.withPending_slice (s : State) (q : List Instr) (j : LineAddr) : (s.withPending q).slice j = s.slice j := rfl
@[simp] theorem State.withPending_hub (s : State) (q : List Instr) : (s.withPending q).hub = s.hub := rfl
@[simp] theorem State.withPending_mem (s : State) (q : List Instr) : (s.withPending q).mem = s.mem := rfl
@[simp] theorem State.withPending_halves (s : State) (q : List Instr) : (s.withPending q).halves = s.halves := rfl
@[simp] theorem State.withPending_upsets (s : State) (q : List Instr) : (s.withPending q).upsets = s.upsets := rfl
@[simp] theorem State.withPending_hostMem (s : State) (q : List Instr) : (s.withPending q).hostMem = s.hostMem := rfl
@[simp] theorem State.withPending_msgs (s : State) (q : List Instr) : (s.withPending q).msgs = s.msgs := rfl
@[simp] theorem State.withPending_signals (s : State) (q : List Instr) : (s.withPending q).signals = s.signals := rfl
@[simp] theorem State.withPending_freeCount (s : State) (q : List Instr) : (s.withPending q).freeCount = s.freeCount := rfl
@[simp] theorem State.withPending_tickets (s : State) (q : List Instr) : (s.withPending q).tickets = s.tickets := rfl
@[simp] theorem State.withPending_cores (s : State) (q : List Instr) : (s.withPending q).cores = s.cores := rfl
@[simp] theorem State.withPending_clusters (s : State) (q : List Instr) : (s.withPending q).clusters = s.clusters := rfl
@[simp] theorem State.withPending_chans (s : State) (q : List Instr) : (s.withPending q).chans = s.chans := rfl
@[simp] theorem State.withPending_fns (s : State) (q : List Instr) : (s.withPending q).fns = s.fns := rfl
@[simp] theorem State.withPending_ctxs (s : State) (q : List Instr) : (s.withPending q).ctxs = s.ctxs := rfl
@[simp] theorem State.withPending_launches (s : State) (q : List Instr) : (s.withPending q).launches = s.launches := rfl
@[simp] theorem State.withPending_objs (s : State) (q : List Instr) : (s.withPending q).objs = s.objs := rfl
@[simp] theorem State.withPending_lines (s : State) (q : List Instr) : (s.withPending q).lines = s.lines := rfl

/-! ## `send` -/

@[simp] theorem State.send_msgs (s : State) (m : Msg) : (s.send m).msgs = s.msgs ++ [m] := rfl
@[simp] theorem State.send_core (s : State) (m : Msg) (j : Nat) : (s.send m).core j = s.core j := rfl
@[simp] theorem State.send_cluster (s : State) (m : Msg) (j : Nat) : (s.send m).cluster j = s.cluster j := rfl
@[simp] theorem State.send_chan (s : State) (m : Msg) (j : Nat) : (s.send m).chan j = s.chan j := rfl
@[simp] theorem State.send_fnOf (s : State) (m : Msg) (j : Nat) : (s.send m).fnOf j = s.fnOf j := rfl
@[simp] theorem State.send_ctx (s : State) (m : Msg) (j : Nat) : (s.send m).ctx j = s.ctx j := rfl
@[simp] theorem State.send_launchOf (s : State) (m : Msg) (j : Nat) : (s.send m).launchOf j = s.launchOf j := rfl
@[simp] theorem State.send_obj (s : State) (m : Msg) (j : Nat) : (s.send m).obj j = s.obj j := rfl
@[simp] theorem State.send_slice (s : State) (m : Msg) (j : LineAddr) : (s.send m).slice j = s.slice j := rfl
@[simp] theorem State.send_pending (s : State) (m : Msg) : (s.send m).pending = s.pending := rfl
@[simp] theorem State.send_hub (s : State) (m : Msg) : (s.send m).hub = s.hub := rfl
@[simp] theorem State.send_mem (s : State) (m : Msg) : (s.send m).mem = s.mem := rfl
@[simp] theorem State.send_halves (s : State) (m : Msg) : (s.send m).halves = s.halves := rfl
@[simp] theorem State.send_upsets (s : State) (m : Msg) : (s.send m).upsets = s.upsets := rfl
@[simp] theorem State.send_hostMem (s : State) (m : Msg) : (s.send m).hostMem = s.hostMem := rfl
@[simp] theorem State.send_signals (s : State) (m : Msg) : (s.send m).signals = s.signals := rfl
@[simp] theorem State.send_freeCount (s : State) (m : Msg) : (s.send m).freeCount = s.freeCount := rfl
@[simp] theorem State.send_tickets (s : State) (m : Msg) : (s.send m).tickets = s.tickets := rfl
@[simp] theorem State.send_cores (s : State) (m : Msg) : (s.send m).cores = s.cores := rfl
@[simp] theorem State.send_clusters (s : State) (m : Msg) : (s.send m).clusters = s.clusters := rfl
@[simp] theorem State.send_chans (s : State) (m : Msg) : (s.send m).chans = s.chans := rfl
@[simp] theorem State.send_fns (s : State) (m : Msg) : (s.send m).fns = s.fns := rfl
@[simp] theorem State.send_ctxs (s : State) (m : Msg) : (s.send m).ctxs = s.ctxs := rfl
@[simp] theorem State.send_launches (s : State) (m : Msg) : (s.send m).launches = s.launches := rfl
@[simp] theorem State.send_objs (s : State) (m : Msg) : (s.send m).objs = s.objs := rfl
@[simp] theorem State.send_lines (s : State) (m : Msg) : (s.send m).lines = s.lines := rfl

/-! ## Free values and stamps -/

@[simp] theorem State.takeFree_freeCount (s : State) : s.takeFree.2.freeCount = s.freeCount + 1 := rfl
@[simp] theorem State.takeFree_core (s : State) (j : Nat) : s.takeFree.2.core j = s.core j := rfl
@[simp] theorem State.takeFree_cluster (s : State) (j : Nat) : s.takeFree.2.cluster j = s.cluster j := rfl
@[simp] theorem State.takeFree_chan (s : State) (j : Nat) : s.takeFree.2.chan j = s.chan j := rfl
@[simp] theorem State.takeFree_fnOf (s : State) (j : Nat) : s.takeFree.2.fnOf j = s.fnOf j := rfl
@[simp] theorem State.takeFree_ctx (s : State) (j : Nat) : s.takeFree.2.ctx j = s.ctx j := rfl
@[simp] theorem State.takeFree_launchOf (s : State) (j : Nat) : s.takeFree.2.launchOf j = s.launchOf j := rfl
@[simp] theorem State.takeFree_obj (s : State) (j : Nat) : s.takeFree.2.obj j = s.obj j := rfl
@[simp] theorem State.takeFree_slice (s : State) (j : LineAddr) : s.takeFree.2.slice j = s.slice j := rfl
@[simp] theorem State.takeFree_pending (s : State) : s.takeFree.2.pending = s.pending := rfl
@[simp] theorem State.takeFree_hub (s : State) : s.takeFree.2.hub = s.hub := rfl
@[simp] theorem State.takeFree_mem (s : State) : s.takeFree.2.mem = s.mem := rfl
@[simp] theorem State.takeFree_halves (s : State) : s.takeFree.2.halves = s.halves := rfl
@[simp] theorem State.takeFree_upsets (s : State) : s.takeFree.2.upsets = s.upsets := rfl
@[simp] theorem State.takeFree_hostMem (s : State) : s.takeFree.2.hostMem = s.hostMem := rfl
@[simp] theorem State.takeFree_msgs (s : State) : s.takeFree.2.msgs = s.msgs := rfl
@[simp] theorem State.takeFree_signals (s : State) : s.takeFree.2.signals = s.signals := rfl
@[simp] theorem State.takeFree_tickets (s : State) : s.takeFree.2.tickets = s.tickets := rfl
@[simp] theorem State.takeFree_cores (s : State) : s.takeFree.2.cores = s.cores := rfl
@[simp] theorem State.takeFree_clusters (s : State) : s.takeFree.2.clusters = s.clusters := rfl
@[simp] theorem State.takeFree_chans (s : State) : s.takeFree.2.chans = s.chans := rfl
@[simp] theorem State.takeFree_fns (s : State) : s.takeFree.2.fns = s.fns := rfl
@[simp] theorem State.takeFree_ctxs (s : State) : s.takeFree.2.ctxs = s.ctxs := rfl
@[simp] theorem State.takeFree_launches (s : State) : s.takeFree.2.launches = s.launches := rfl
@[simp] theorem State.takeFree_objs (s : State) : s.takeFree.2.objs = s.objs := rfl
@[simp] theorem State.takeFree_lines (s : State) : s.takeFree.2.lines = s.lines := rfl
@[simp] theorem State.stamp_tickets (s : State) : s.stamp.2.tickets = s.tickets + 1 := rfl
@[simp] theorem State.stamp_core (s : State) (j : Nat) : s.stamp.2.core j = s.core j := rfl
@[simp] theorem State.stamp_cluster (s : State) (j : Nat) : s.stamp.2.cluster j = s.cluster j := rfl
@[simp] theorem State.stamp_chan (s : State) (j : Nat) : s.stamp.2.chan j = s.chan j := rfl
@[simp] theorem State.stamp_fnOf (s : State) (j : Nat) : s.stamp.2.fnOf j = s.fnOf j := rfl
@[simp] theorem State.stamp_ctx (s : State) (j : Nat) : s.stamp.2.ctx j = s.ctx j := rfl
@[simp] theorem State.stamp_launchOf (s : State) (j : Nat) : s.stamp.2.launchOf j = s.launchOf j := rfl
@[simp] theorem State.stamp_obj (s : State) (j : Nat) : s.stamp.2.obj j = s.obj j := rfl
@[simp] theorem State.stamp_slice (s : State) (j : LineAddr) : s.stamp.2.slice j = s.slice j := rfl
@[simp] theorem State.stamp_pending (s : State) : s.stamp.2.pending = s.pending := rfl
@[simp] theorem State.stamp_hub (s : State) : s.stamp.2.hub = s.hub := rfl
@[simp] theorem State.stamp_mem (s : State) : s.stamp.2.mem = s.mem := rfl
@[simp] theorem State.stamp_halves (s : State) : s.stamp.2.halves = s.halves := rfl
@[simp] theorem State.stamp_upsets (s : State) : s.stamp.2.upsets = s.upsets := rfl
@[simp] theorem State.stamp_hostMem (s : State) : s.stamp.2.hostMem = s.hostMem := rfl
@[simp] theorem State.stamp_msgs (s : State) : s.stamp.2.msgs = s.msgs := rfl
@[simp] theorem State.stamp_signals (s : State) : s.stamp.2.signals = s.signals := rfl
@[simp] theorem State.stamp_freeCount (s : State) : s.stamp.2.freeCount = s.freeCount := rfl
@[simp] theorem State.stamp_cores (s : State) : s.stamp.2.cores = s.cores := rfl
@[simp] theorem State.stamp_clusters (s : State) : s.stamp.2.clusters = s.clusters := rfl
@[simp] theorem State.stamp_chans (s : State) : s.stamp.2.chans = s.chans := rfl
@[simp] theorem State.stamp_fns (s : State) : s.stamp.2.fns = s.fns := rfl
@[simp] theorem State.stamp_ctxs (s : State) : s.stamp.2.ctxs = s.ctxs := rfl
@[simp] theorem State.stamp_launches (s : State) : s.stamp.2.launches = s.launches := rfl
@[simp] theorem State.stamp_objs (s : State) : s.stamp.2.objs = s.objs := rfl
@[simp] theorem State.stamp_lines (s : State) : s.stamp.2.lines = s.lines := rfl

/-! ## Enabled steps and messages -/

/-- A step whose condition holds answers what it is to answer. -/
@[simp] theorem enabled_true (why : String) (o : Out) : enabled true why o = o := rfl

/-- A step whose condition does not hold is refused by name. -/
@[simp] theorem enabled_false (why : String) (o : Out) : enabled false why o = .refused (.notEnabled why) := rfl

/-- What `enabled` can do: it answers the step, and then the condition holds, or it refuses. -/
theorem enabled_next {b : Bool} {why : String} {o : Out} {t : State} (h : enabled b why o = .next t) : b = true ∧ o = .next t := by
  cases b
  · cases h
  · exact ⟨rfl, h⟩

/-- What taking a message can do: the message is from another node, or it is in flight; in both cases only the messages in flight
change. -/
theorem State.takeMsg_some {s t : State} {m : Msg} (h : s.takeMsg m = some t) : t = { s with msgs := s.msgs.erase m } := by
  unfold State.takeMsg at h
  split at h
  · exact (Option.some.inj h).symm
  · split at h
    · exact (Option.some.inj h).symm
    · cases h

/-- A message in flight is received. -/
theorem receive_of_mem {m : Msg} {s : State} (f : State → Out) (h : m ∈ s.msgs) :
    receive m s f = f { s with msgs := s.msgs.erase m } := by
  have e : s.takeMsg m = some { s with msgs := s.msgs.erase m } := by
    unfold State.takeMsg
    split <;> simp [h]
  simp [receive, e]

end Sys2Proof.Machine
end

