-- ==== Sys2Proof/Laws/Fetch.lean ====
section
/-! SUPPORT. What sending a message, a read of the stacks and an instruction fetch leave alone: every core. -/

namespace Sys2Proof.Machine

/-- A fold over states whose steps keep the cores keeps them. -/
theorem foldl_cores {γ : Type} (f : State → γ → State) (h : ∀ s x, (f s x).cores = s.cores) :
    ∀ (l : List γ) (s : State), (l.foldl f s).cores = s.cores
  | [], _ => rfl
  | x :: t, s => by rw [List.foldl_cons, foldl_cores f h t, h]

/-! ## Links -/

@[simp] theorem State.countChan_cores (s : State) (k code amt cls : Nat) : (s.countChan k code amt cls).cores = s.cores := by
  unfold State.countChan
  extract_lets c
  split
  · rfl
  · refine foldl_cores _ (fun s x => ?_) _ s
    extract_lets sel r a
    split
    · split <;> rfl
    · rfl

@[simp] theorem State.histogram_cores (s : State) (k n cls : Nat) : (s.histogram k n cls).cores = s.cores := by
  unfold State.histogram
  extract_lets c f
  split
  · rfl
  · refine (foldl_cores _ (fun s x => ?_) _ _).trans (State.takeFree_cores s)
    extract_lets h sh l bin v
    split <;> rfl

@[simp] theorem State.pickClass_cores (s : State) (ws : List (Fin 4)) : (s.pickClass ws).2.cores = s.cores := by
  unfold State.pickClass
  split <;> rfl

@[simp] theorem State.setPort_cores (s : State) (ch p : Nat) (x : Port) : (s.setPort ch p x).cores = s.cores := rfl
@[simp] theorem State.modPort_cores (s : State) (ch p : Nat) (f : Port → Port) : (s.modPort ch p f).cores = s.cores := rfl
@[simp] theorem State.setTx_cores (s : State) (ch key : Nat) (t : TxStream) : (s.setTx ch key t).cores = s.cores := rfl

@[simp] theorem State.freeBuffer_cores (s : State) (ch : Nat) (x : StreamMsg) : (s.freeBuffer ch x).cores = s.cores := by
  unfold State.freeBuffer
  repeat' split
  all_goals rfl

@[simp] theorem State.chooseMsg_cores (s : State) (ms : List StreamMsg) : (s.chooseMsg ms).2.cores = s.cores := by
  unfold State.chooseMsg
  split
  · rfl
  · exact State.pickClass_cores s _

@[simp] theorem State.sendOn_cores (s : State) (ch p : Nat) (m : StreamMsg) : (s.sendOn ch p m).cores = s.cores := by
  unfold State.sendOn
  exact State.freeBuffer_cores _ _ _

theorem State.pumpMsgs_cores (ch p : Nat) : ∀ (k : Nat) (s : State) (n : Nat), (State.pumpMsgs ch p k s n).2.cores = s.cores
  | 0, _, _ => rfl
  | k + 1, s, n => by
    unfold State.pumpMsgs
    extract_lets ms c
    split
    · rfl
    · split
      · exact State.chooseMsg_cores s ms
      · rw [State.pumpMsgs_cores ch p k, State.sendOn_cores]
        exact State.chooseMsg_cores s ms

@[simp] theorem State.pumpPort_cores (s : State) (ch p : Nat) : (s.pumpPort ch p).cores = s.cores := by
  unfold State.pumpPort
  extract_lets r
  have h : r.2.cores = s.cores := State.pumpMsgs_cores ch p _ s 0
  split
  · exact h
  · rw [State.countChan_cores, h]

@[simp] theorem State.transmit_cores (s : State) (ch : Nat) (x : StreamMsg) : (s.transmit ch x).cores = s.cores := by
  unfold State.transmit
  split
  · rfl
  · exact State.pumpPort_cores _ _ _

@[simp] theorem State.sendStream_cores (s : State) (ch : Nat) (n : Fin 512) (dch : Nat) (m : Msg) :
    (s.sendStream ch n dch m).cores = s.cores := by
  unfold State.sendStream
  exact State.transmit_cores _ _ _

theorem State.pumpStream_cores (ch : Nat) (n : Fin 512) (dch : Nat) : ∀ (k : Nat) (s : State), (State.pumpStream ch n dch k s).cores = s.cores
  | 0, _ => rfl
  | k + 1, s => by
    unfold State.pumpStream
    extract_lets st
    split
    · rfl
    · split
      · rfl
      · rw [State.pumpStream_cores ch n dch k, State.sendStream_cores]
        rfl

@[simp] theorem State.leatSend_cores (s : State) (ch : Nat) (n : Fin 512) (dch : Nat) (m : Msg) : (s.leatSend ch n dch m).cores = s.cores := by
  unfold State.leatSend
  extract_lets st t s1
  split
  · split <;> rfl
  · split
    · split
      · rfl
      · exact State.sendStream_cores _ _ _ _ _
    · rw [State.transmit_cores]
      show s1.cores = _
      unfold s1
      split <;> rfl

@[simp] theorem State.takeResponse_cores (s : State) (ch : Nat) (n : Fin 512) (sch : Nat) (txn : BitVec 16) (m given : Msg) :
    (s.takeResponse ch n sch txn m given).cores = s.cores := by
  unfold State.takeResponse
  split
  · rfl
  · extract_lets key st
    split
    · rfl
    · split
      · rfl
      · extract_lets rest s1 s2
        show (State.pumpStream _ _ _ _ s2).cores = _
        rw [State.pumpStream_cores]
        show (if _ then _ else s1 : State).cores = _
        split
        · exact State.histogram_cores _ _ _ _
        · rfl

/-- Sending a coherence message changes no core. -/
@[simp] theorem State.post_cores (s : State) (m : Msg) : (s.post m).cores = s.cores := by
  unfold State.post
  extract_lets a
  split
  · exact State.leatSend_cores _ _ _ _ _
  · extract_lets b
    split
    · exact State.leatSend_cores _ _ _ _ _
    · split
      · exact State.takeResponse_cores _ _ _ _ _ _ _
      · rfl

/-! ## Reads of the stacks -/

@[simp] theorem State.memLog_cores (s : State) (ch kind cls low : Nat) : (s.memLog ch kind cls low).cores = s.cores := rfl
@[simp] theorem State.outOfRange_cores (s : State) (l : LineAddr) : (s.outOfRange l).cores = s.cores := rfl
@[simp] theorem State.putAt_cores (s : State) (p h : Nat) (d : BitVec 512) (m : HalfMeta) : (s.putAt p h d m).cores = s.cores := rfl

@[simp] theorem State.putHalf_cores (s : State) (l : LineAddr) (h : Nat) (d : BitVec 512) (m : HalfMeta) : (s.putHalf l h d m).cores = s.cores := by
  unfold State.putHalf
  extract_lets s1
  show s1.cores = _
  unfold s1
  split <;> rfl

@[simp] theorem State.busEvent_cores (s : State) (kind ch : Byte) (d : DWord) : (s.busEvent kind ch d).cores = s.cores := by
  unfold State.busEvent
  repeat' split
  all_goals rfl

@[simp] theorem State.queueEvent_cores (s : State) (fn : Nat) (r : EventRec) : (s.queueEvent fn r).cores = s.cores := by
  unfold State.queueEvent
  extract_lets f
  split <;> rfl

@[simp] theorem State.notice_cores (s : State) (k c code : Byte) (d : DWord) : (s.notice k c code d).cores = s.cores := by
  unfold State.notice
  rw [State.busEvent_cores, State.queueEvent_cores]

@[simp] theorem State.startEvacuation_cores (s : State) (ch : Nat) : (s.startEvacuation ch).cores = s.cores := rfl

@[simp] theorem State.serveNomination_cores (s : State) (ch : Nat) : (s.serveNomination ch).cores = s.cores := by
  unfold State.serveNomination
  extract_lets c
  split
  · rfl
  · split
    · rfl
    · extract_lets s1
      have h : s1.cores = s.cores := State.notice_cores _ _ _ _ _
      split
      · exact h
      · exact h

@[simp] theorem State.nominate_cores (s : State) (ch : Nat) (d : Fin 64) : (s.nominate ch d).cores = s.cores := by
  unfold State.nominate
  extract_lets c s1
  split
  · rfl
  · split
    · rfl
    · exact State.serveNomination_cores _ _

@[simp] theorem State.codewordLost_cores (s : State) (l : LineAddr) (h kind cls : Nat) : (s.codewordLost l h kind cls).cores = s.cores := by
  unfold State.codewordLost
  extract_lets ch low pc s1 s2
  have e : s2.cores = s.cores := State.notice_cores _ _ _ _ _
  split
  · rw [State.nominate_cores, e]
  · exact e

@[simp] theorem State.readHalf_cores (s : State) (l : LineAddr) (h : Nat) : (s.readHalf l h).cores = s.cores := by
  unfold State.readHalf
  split
  · rfl
  · rfl
  · unfold State.rewriteLost
    rw [State.putHalf_cores, State.codewordLost_cores]

@[simp] theorem State.wakeRegistered_cores (s : State) (l : LineAddr) : (s.wakeRegistered l).cores = s.cores := by
  unfold State.wakeRegistered
  extract_lets e s1
  exact foldl_cores _ (fun s a => State.post_cores s _) _ _

/-- A read of a line from the stacks changes no core. -/
@[simp] theorem State.readMem_cores (s : State) (l : LineAddr) : (s.readMem l).cores = s.cores := by
  unfold State.readMem
  split
  · rfl
  · extract_lets s1
    have h : s1.cores = s.cores := by
      show ((s.readHalf l 0).readHalf l 1).cores = _
      rw [State.readHalf_cores, State.readHalf_cores]
    split
    · exact h
    · rw [State.wakeRegistered_cores, h]

/-! ## Instruction fetch -/

@[simp] theorem State.tlbTouch_cores (s : State) (cl ctx : Nat) (va : DWord) : (s.tlbTouch cl ctx va).cores = s.cores := by
  unfold State.tlbTouch
  split <;> rfl

@[simp] theorem State.fetchLine_cores (s : State) (l : LineAddr) : (s.fetchLine l).2.cores = s.cores := by
  unfold State.fetchLine
  repeat' split
  all_goals first
    | rfl
    | exact State.readMem_cores s l

@[simp] theorem State.fetch_cores (s : State) (cl ctx : Nat) (pc : DWord) (pa : Nat) : (s.fetch cl ctx pc pa).2.cores = s.cores := by
  unfold State.fetch
  extract_lets r
  show (State.fetchLine _ _).2.cores = _
  rw [State.fetchLine_cores, State.tlbTouch_cores]

/-- The fetch of an instruction changes no core. -/
@[simp] theorem State.afterFetch_cores (s : State) (i : Issued) : (s.afterFetch i).cores = s.cores := by
  unfold State.afterFetch
  split
  · rename_i r h
    obtain ⟨pa, _, rfl⟩ := Option.map_eq_some_iff.mp h
    exact State.fetch_cores _ _ _ _ _
  · rfl

@[simp] theorem State.afterFetch_core (s : State) (i : Issued) (k : Nat) : (s.afterFetch i).core k = s.core k := by
  unfold State.core
  rw [State.afterFetch_cores]

@[simp] theorem State.afterFetch_group (s : State) (i : Issued) (g : GRef) : (s.afterFetch i).group g = s.group g := by
  unfold State.group
  rw [State.afterFetch_core]

end Sys2Proof.Machine
end

