-- ==== Sys2Proof/Laws/Groups.lean ====
section
/-! SUPPORT. The registers of a group and the groups of a state: what a read gives after a write, what reconvergence and the
accounting of an issue leave alone, and what an instruction that nothing stops does. -/

namespace Sys2Proof.Machine

/-! ## Registers (R63 to R65) -/

@[simp] theorem Group.sword_setV (g : Group) (r l : Nat) (x : RegWord) (q : Nat) : (g.setV r l x).sword q = g.sword q := rfl
@[simp] theorem Group.pmask_setV (g : Group) (r l : Nat) (x : RegWord) (q : Nat) : (g.setV r l x).pmask q = g.pmask q := rfl
@[simp] theorem Group.vword_setS (g : Group) (r : Nat) (x : RegWord) (q l : Nat) : (g.setS r x).vword q l = g.vword q l := rfl
@[simp] theorem Group.pmask_setS (g : Group) (r : Nat) (x : RegWord) (q : Nat) : (g.setS r x).pmask q = g.pmask q := rfl
@[simp] theorem Group.vword_setP (g : Group) (p : Nat) (m : Mask) (q l : Nat) : (g.setP p m).vword q l = g.vword q l := rfl
@[simp] theorem Group.sword_setP (g : Group) (p : Nat) (m : Mask) (q : Nat) : (g.setP p m).sword q = g.sword q := rfl

@[simp] theorem Group.vword_setV_self (g : Group) (r l : Nat) (x : RegWord) : (g.setV r l x).vword r l = x :=
  tget_tset_self _ _ _ _

theorem Group.vword_setV_other (g : Group) {r l q k : Nat} (x : RegWord) (h : 16 * q + k ≠ 16 * r + l) :
    (g.setV r l x).vword q k = g.vword q k := tget_tset_other _ _ _ h

@[simp] theorem Group.sword_setS_self (g : Group) (r : Nat) (x : RegWord) : (g.setS r x).sword r = x := tget_tset_self _ _ _ _

theorem Group.sword_setS_other (g : Group) {r q : Nat} (x : RegWord) (h : q ≠ r) : (g.setS r x).sword q = g.sword q :=
  tget_tset_other _ _ _ h

@[simp] theorem Group.pmask_setP_self (g : Group) (p : Nat) (m : Mask) : (g.setP p m).pmask p = m := tget_tset_self _ _ _ _

theorem Group.pmask_setP_other (g : Group) {p q : Nat} (m : Mask) (h : q ≠ p) : (g.setP p m).pmask q = g.pmask q :=
  tget_tset_other _ _ _ h

/-- A lane of a list is written, any other word of the vector registers is as it was. -/
theorem Group.vword_foldl_setV (r : Nat) (f : Nat → RegWord) (q k : Nat) (hk : k < 16) :
    ∀ (ls : List Nat) (g : Group), (∀ l ∈ ls, l < 16) →
      (ls.foldl (fun acc i => acc.setV r i (f i)) g).vword q k = if q = r ∧ k ∈ ls then f k else g.vword q k
  | [], g, _ => by simp
  | l :: t, g, h => by
    have hl : l < 16 := h l (by simp)
    rw [List.foldl_cons, Group.vword_foldl_setV r f q k hk t _ (fun x hx => h x (by simp [hx]))]
    by_cases hq : q = r
    · subst hq
      by_cases ht : k ∈ t
      · simp [ht]
      · by_cases he : k = l
        · subst he
          simp [ht]
        · have hne : 16 * q + k ≠ 16 * q + l := by omega
          simp [ht, he, Group.vword_setV_other g (f l) hne]
    · have hne : 16 * q + k ≠ 16 * r + l := by omega
      simp [hq, Group.vword_setV_other g (f l) hne]

theorem mem_lanesOf {w : Nat} (m : BitVec w) (i : Nat) : i ∈ lanesOf m ↔ m.getLsbD i = true := by
  simp only [lanesOf, List.mem_filter, List.mem_range, and_iff_right_iff_imp]
  exact fun h => BitVec.lt_of_getLsbD h

/-- A vector register written in the lanes of a mask (R68). -/
theorem Group.vword_setLanes (g : Group) (r : Nat) (m : Mask) (f : Nat → RegWord) (q k : Nat) (hk : k < 16) :
    (g.setLanes r m f).vword q k = if q = r ∧ m.getLsbD k = true then f k else g.vword q k := by
  unfold Group.setLanes
  rw [Group.vword_foldl_setV r f q k hk (lanesOf m) g (fun l hl => BitVec.lt_of_getLsbD ((mem_lanesOf m l).mp hl))]
  simp [mem_lanesOf]

theorem Group.foldl_setV_keeps {β : Type} (obs : Group → β) (h : ∀ (g : Group) (r l : Nat) (x : RegWord), obs (g.setV r l x) = obs g)
    (r : Nat) (f : Nat → RegWord) : ∀ (ls : List Nat) (g : Group), obs (ls.foldl (fun acc i => acc.setV r i (f i)) g) = obs g
  | [], _ => rfl
  | l :: t, g => by rw [List.foldl_cons, Group.foldl_setV_keeps obs h r f t, h]

/-- A write of a vector register changes nothing but vector registers. -/
theorem Group.setLanes_keeps {β : Type} (obs : Group → β) (h : ∀ (g : Group) (r l : Nat) (x : RegWord), obs (g.setV r l x) = obs g)
    (g : Group) (r : Nat) (m : Mask) (f : Nat → RegWord) : obs (g.setLanes r m f) = obs g :=
  Group.foldl_setV_keeps obs h r f _ g

@[simp] theorem Group.sword_setLanes (g : Group) (r : Nat) (m : Mask) (f : Nat → RegWord) (q : Nat) :
    (g.setLanes r m f).sword q = g.sword q := Group.setLanes_keeps (fun x => x.sword q) (fun _ _ _ _ => rfl) g r m f

@[simp] theorem Group.pmask_setLanes (g : Group) (r : Nat) (m : Mask) (f : Nat → RegWord) (q : Nat) :
    (g.setLanes r m f).pmask q = g.pmask q := Group.setLanes_keeps (fun x => x.pmask q) (fun _ _ _ _ => rfl) g r m f

@[simp] theorem Group.flags_setLanes (g : Group) (r : Nat) (m : Mask) (f : Nat → RegWord) : (g.setLanes r m f).flags = g.flags :=
  Group.setLanes_keeps (fun x => x.flags) (fun _ _ _ _ => rfl) g r m f

/-! ## Reconvergence touches no register (R45) -/

/-- What `settleLoop` may change is the program address, the mask, the stack and what the group waits for. -/
theorem settleLoop_keeps {β : Type} (obs : Group → β)
    (h : ∀ (g : Group) (pc : DWord) (m : Mask) (st : List StackEntry) (wt : Waiting),
      obs { g with pc := pc, mask := m, stack := st, waiting := wt } = obs g) :
    ∀ (n : Nat) (g : Group), obs (settleLoop n g) = obs g
  | 0, _ => rfl
  | n + 1, g => by
    have hw : ∀ (x : Group) (wt : Waiting), obs { x with waiting := wt } = obs x := fun x wt => h x x.pc x.mask x.stack wt
    have hm : ∀ (x : Group) (m : Mask) (wt : Waiting), obs { x with mask := m, waiting := wt } = obs x :=
      fun x m wt => h x x.pc m x.stack wt
    have hs : ∀ (x : Group) (pc : DWord) (m : Mask) (st : List StackEntry), obs { x with pc := pc, mask := m, stack := st } = obs x :=
      fun x pc m st => h x pc m st x.waiting
    unfold settleLoop
    simp only
    repeat' split
    all_goals first
      | exact hw g _
      | exact hm g _ _
      | (rw [settleLoop_keeps obs h n]; exact hs g _ _ _)

theorem Group.settle_keeps {β : Type} (obs : Group → β)
    (h : ∀ (g : Group) (pc : DWord) (m : Mask) (st : List StackEntry) (wt : Waiting),
      obs { g with pc := pc, mask := m, stack := st, waiting := wt } = obs g) (g : Group) : obs g.settle = obs g :=
  settleLoop_keeps obs h 34 g

theorem Group.advance_keeps {β : Type} (obs : Group → β)
    (h : ∀ (g : Group) (pc : DWord) (m : Mask) (st : List StackEntry) (wt : Waiting),
      obs { g with pc := pc, mask := m, stack := st, waiting := wt } = obs g) (g : Group) : obs g.advance = obs g := by
  unfold Group.advance
  rw [Group.settle_keeps obs h]
  exact h g (g.pc + 8) g.mask g.stack g.waiting

@[simp] theorem Group.vword_advance (g : Group) (r l : Nat) : g.advance.vword r l = g.vword r l :=
  Group.advance_keeps (fun x => x.vword r l) (fun _ _ _ _ _ => rfl) g
@[simp] theorem Group.sword_advance (g : Group) (r : Nat) : g.advance.sword r = g.sword r :=
  Group.advance_keeps (fun x => x.sword r) (fun _ _ _ _ _ => rfl) g
@[simp] theorem Group.pmask_advance (g : Group) (p : Nat) : g.advance.pmask p = g.pmask p :=
  Group.advance_keeps (fun x => x.pmask p) (fun _ _ _ _ _ => rfl) g
@[simp] theorem Group.flags_advance (g : Group) : g.advance.flags = g.flags :=
  Group.advance_keeps (fun x => x.flags) (fun _ _ _ _ _ => rfl) g
@[simp] theorem Group.block_advance (g : Group) : g.advance.block = g.block :=
  Group.advance_keeps (fun x => x.block) (fun _ _ _ _ _ => rfl) g

/-! ## Groups of a state -/

@[simp] theorem Core.group_setGroup_self (c : Core) (i : Nat) (g : Group) : (c.setGroup i g).group i = g := tget_tset_self _ _ _ _
theorem Core.group_setGroup_other (c : Core) {i j : Nat} (g : Group) (h : j ≠ i) : (c.setGroup i g).group j = c.group j :=
  tget_tset_other _ _ _ h

@[simp] theorem State.group_setGroup (s : State) (g : GRef) (x : Group) : (s.setGroup g x).group g = x := by
  simp [State.setGroup, State.group]
@[simp] theorem State.group_modGroup (s : State) (g : GRef) (f : Group → Group) : (s.modGroup g f).group g = f (s.group g) := by
  simp [State.modGroup]

/-- A change of a group leaves everything that no core holds as it was. -/
theorem State.modGroup_keeps {β : Type} (obs : State → β) (h : ∀ (s : State) (k : Nat) (f : Core → Core), obs (s.modCore k f) = obs s)
    (s : State) (g : GRef) (f : Group → Group) : obs (s.modGroup g f) = obs s := by
  unfold State.modGroup State.setGroup
  exact h s _ _

/-! ## The accounting of an issue -/

/-- A fold whose steps leave an observation alone leaves it alone. -/
theorem foldl_keeps {σ β γ : Type} (obs : σ → β) (f : σ → γ → σ) (h : ∀ (s : σ) (x : γ), obs (f s x) = obs s) :
    ∀ (l : List γ) (s : σ), obs (l.foldl f s) = obs s
  | [], _ => rfl
  | x :: t, s => by rw [List.foldl_cons, foldl_keeps obs f h t, h]

/-- Counting at a core changes its counters and its channel's overflow and freeze bits only. -/
theorem State.countCore_keeps {β : Type} (obs : State → β)
    (hc : ∀ (s : State) (k : Nat) (t : Table DWord) (o : Byte), obs (s.modCore k fun c => { c with pmc := t, ovf := o }) = obs s)
    (hh : ∀ (s : State) (k n : Nat), obs (s.modChan k fun c => c.wrapped n) = obs s)
    (s : State) (k code amt ctx : Nat) : obs (s.countCore k code amt ctx) = obs s := by
  unfold State.countCore
  extract_lets c
  split
  · rfl
  · refine foldl_keeps obs _ (fun acc n => ?_) _ s
    extract_lets sel r acc2
    split
    · split
      · rw [hh]
        exact hc acc k _ _
      · exact hc acc k _ _
    · rfl

/-- The mark that a tagged instruction has ended is all that `tagDone` changes. -/
theorem State.tagDone_keeps {β : Type} (obs : State → β)
    (hc : ∀ (s : State) (k : Nat) (t : Option Tagged), obs (s.modCore k fun c => { c with tagged := t }) = obs s)
    (s : State) (k slot : Nat) : obs (s.tagDone k slot) = obs s := by
  have e : s.tagDone k slot = s.modCore k fun c => { c with tagged := match (s.core k).tagged with
      | some t => if t.slot.val = slot && t.fresh then some { t with done := true, fresh := false } else some t
      | none => none } := by
    have hf : ∀ c : Core, (match c.tagged with
        | some t => if t.slot.val = slot && t.fresh then { c with tagged := some { t with done := true, fresh := false } } else c
        | none => c) = { c with tagged := match c.tagged with
        | some t => if t.slot.val = slot && t.fresh then some { t with done := true, fresh := false } else some t
        | none => none } := by
      intro c
      cases c with
      | mk =>
        dsimp only
        split
        · split <;> rfl
        · rfl
    exact congrArg (s.setCore k) (hf (s.core k))
  rw [e]
  exact hc s k _

/-! ## What an instruction of one group leaves alone -/

theorem SameCore.refl (c : Core) : SameCore c c := ⟨c.pmc, c.ovf, c.hs, c.rotation, c.lastIssued, c.tagged, c.groups, rfl⟩

theorem SameCore.trans {a b c : Core} (h : SameCore a b) (k : SameCore b c) : SameCore a c := by
  obtain ⟨_, _, _, _, _, _, _, rfl⟩ := h
  obtain ⟨p, o, n, r, l, t, g, rfl⟩ := k
  exact ⟨p, o, n, r, l, t, g, rfl⟩

theorem SameChannel.refl (c : Channel) : SameChannel c c := ⟨c.refcnt, c.ovf, c.freeze, c.frozen, rfl⟩

theorem SameChannel.trans {a b c : Channel} (h : SameChannel a b) (k : SameChannel b c) : SameChannel a c := by
  obtain ⟨_, _, _, _, rfl⟩ := h
  obtain ⟨r, o, f, z, rfl⟩ := k
  exact ⟨r, o, f, z, rfl⟩

theorem OnlyGroup.refl (s : State) (c n : Nat) : OnlyGroup s s c n :=
  ⟨⟨rfl, rfl, rfl, rfl, rfl, rfl⟩, ⟨rfl, rfl, rfl, rfl⟩, ⟨rfl, rfl, rfl, rfl, rfl⟩, fun _ => SameCore.refl _, fun _ => SameChannel.refl _,
    fun _ _ _ => rfl⟩

theorem OnlyGroup.trans {s t u : State} {c n : Nat} (h : OnlyGroup s t c n) (k : OnlyGroup t u c n) : OnlyGroup s u c n := by
  obtain ⟨⟨a1, a2, a3, a4, a5, a6⟩, ⟨b1, b2, b3, b4⟩, ⟨c1, c2, c3, c4, c5⟩, hc, hk, hg⟩ := h
  obtain ⟨⟨d1, d2, d3, d4, d5, d6⟩, ⟨e1, e2, e3, e4⟩, ⟨f1, f2, f3, f4, f5⟩, kc, kk, kg⟩ := k
  exact ⟨⟨d1.trans a1, d2.trans a2, d3.trans a3, d4.trans a4, d5.trans a5, d6.trans a6⟩,
    ⟨e1.trans b1, e2.trans b2, e3.trans b3, e4.trans b4⟩,
    ⟨f1.trans c1, f2.trans c2, f3.trans c3, f4.trans c4, f5.trans c5⟩,
    fun j => (hc j).trans (kc j), fun j => (hk j).trans (kk j), fun j m hjm => (kg j m hjm).trans (hg j m hjm)⟩

/-- A change of one core that keeps all but its accounts and groups, and no group but one. -/
theorem OnlyGroup.modCore (s : State) (k c n : Nat) (f : Core → Core) (h : SameCore (s.core k) (f (s.core k)))
    (hg : ∀ m, k ≠ c ∨ m ≠ n → (f (s.core k)).group m = (s.core k).group m) : OnlyGroup s (s.modCore k f) c n := by
  refine ⟨⟨rfl, rfl, rfl, rfl, rfl, rfl⟩, ⟨rfl, rfl, rfl, rfl⟩, ⟨rfl, rfl, rfl, rfl, rfl⟩, fun j => ?_, fun _ => SameChannel.refl _,
    fun j m hjm => ?_⟩
  · by_cases hj : j = k
    · subst hj
      rw [State.modCore_core]
      exact h
    · rw [State.modCore_core_other _ _ hj]
      exact SameCore.refl _
  · by_cases hj : j = k
    · subst hj
      rw [State.modCore_core]
      exact hg m hjm
    · rw [State.modCore_core_other _ _ hj]

/-- A change of what a core counts. -/
theorem OnlyGroup.account (s : State) (k c n : Nat) (f : Core → Core)
    (h : ∃ pmc ovf hs rot last tg, f (s.core k)
      = { s.core k with pmc := pmc, ovf := ovf, hs := hs, rotation := rot, lastIssued := last, tagged := tg }) :
    OnlyGroup s (s.modCore k f) c n := by
  obtain ⟨p, o, x, r, l, t, e⟩ := h
  refine OnlyGroup.modCore s k c n f ?_ ?_
  · exact ⟨p, o, x, r, l, t, (s.core k).groups, by rw [e]⟩
  · intro m _
    rw [e]
    rfl

theorem OnlyGroup.modChan (s : State) (k c n : Nat) (f : Channel → Channel) (h : SameChannel (s.chan k) (f (s.chan k))) :
    OnlyGroup s (s.modChan k f) c n := by
  refine ⟨⟨rfl, rfl, rfl, rfl, rfl, rfl⟩, ⟨rfl, rfl, rfl, rfl⟩, ⟨rfl, rfl, rfl, rfl, rfl⟩, fun _ => SameCore.refl _, fun j => ?_,
    fun _ _ _ => rfl⟩
  by_cases hj : j = k
  · subst hj
    rw [State.modChan_chan]
    exact h
  · rw [State.modChan_chan_other _ _ hj]
    exact SameChannel.refl _

theorem OnlyGroup.takeFree (s : State) (c n : Nat) : OnlyGroup s s.takeFree.2 c n :=
  ⟨⟨rfl, rfl, rfl, rfl, rfl, rfl⟩, ⟨rfl, rfl, rfl, rfl⟩, ⟨rfl, rfl, rfl, rfl, rfl⟩, fun _ => SameCore.refl _, fun _ => SameChannel.refl _,
    fun _ _ _ => rfl⟩

theorem OnlyGroup.modGroup (s : State) (g : GRef) (f : Group → Group) :
    OnlyGroup s (s.modGroup g f) (coreId g.core) g.slot.val := by
  unfold State.modGroup State.setGroup
  refine OnlyGroup.modCore s _ _ _ _ ?_ ?_
  · exact ⟨_, _, _, _, _, _, _, rfl⟩
  · intro m h
    exact Core.group_setGroup_other _ _ (by simpa using h)

theorem OnlyGroup.countCore (s : State) (k code amt ctx c n : Nat) : OnlyGroup s (s.countCore k code amt ctx) c n := by
  unfold State.countCore
  extract_lets ch
  split
  · exact OnlyGroup.refl s c n
  · have key : ∀ (l : List Nat) (a : State), OnlyGroup s a c n → OnlyGroup s (l.foldl (fun acc n =>
        let sel := tget 0 ch.sels n
        if selOn sel code && (!selFilt sel || decide (selValue sel = ctx)) then
          let r := addCounter (acc.core k).pmc n amt
          let acc := acc.modCore k fun x =>
            { x with pmc := r.1, ovf := if r.2 then x.ovf ||| BitVec.ofNat 8 (2 ^ n) else x.ovf }
          if r.2 then acc.modChan (channelOfCore k) fun x => x.wrapped n else acc
        else acc) a) c n := by
      intro l
      induction l with
      | nil => exact fun a h => h
      | cons x t ih =>
        intro a h
        refine ih _ (h.trans ?_)
        dsimp only
        split
        · split
          · exact (OnlyGroup.account a k c n _ ⟨_, _, _, _, _, _, rfl⟩).trans
              (OnlyGroup.modChan _ _ c n _ ⟨_, _, _, _, rfl⟩)
          · exact OnlyGroup.account a k c n _ ⟨_, _, _, _, _, _, rfl⟩
        · exact OnlyGroup.refl a c n
    exact key _ s (OnlyGroup.refl s c n)

theorem OnlyGroup.elapse (s : State) (ch c n : Nat) : OnlyGroup s (s.elapse ch) c n := by
  unfold State.elapse
  extract_lets f x
  refine (OnlyGroup.takeFree s c n).trans ?_
  split
  · exact OnlyGroup.modChan _ _ c n _ ⟨_, _, _, _, rfl⟩
  · exact OnlyGroup.refl _ c n

theorem OnlyGroup.tagIssue (s : State) (i : Issued) (c n : Nat) : OnlyGroup s (s.tagIssue i) c n := by
  unfold State.tagIssue
  extract_lets ch f per s1 t
  split
  · split
    · exact ((OnlyGroup.takeFree s c n).trans (OnlyGroup.elapse _ _ c n)).trans
        (OnlyGroup.account _ _ c n _ ⟨_, _, _, _, _, _, rfl⟩)
    · exact OnlyGroup.takeFree s c n
  · exact OnlyGroup.refl s c n

/-- The accounting of an issue leaves all but the group alone. -/
theorem OnlyGroup.noteIssue (s : State) (i : Issued) : OnlyGroup s (s.noteIssue i) (coreId i.g.core) i.g.slot.val := by
  unfold State.noteIssue
  split
  · exact OnlyGroup.modGroup s i.g _
  · exact (((OnlyGroup.countCore s _ _ _ _ _ _).trans (OnlyGroup.account _ _ _ _ _ ⟨_, _, _, _, _, _, rfl⟩)).trans
      (OnlyGroup.modGroup _ i.g _)).trans (OnlyGroup.tagIssue _ i _ _)

theorem OnlyGroup.tagDone (s : State) (k slot c n : Nat) : OnlyGroup s (s.tagDone k slot) c n := by
  unfold State.tagDone
  refine OnlyGroup.account s k c n _ ?_
  dsimp only
  split
  · split
    · exact ⟨_, _, _, _, _, _, rfl⟩
    · exact ⟨_, _, _, _, _, _, rfl⟩
  · exact ⟨_, _, _, _, _, _, rfl⟩

/-! ## The group of an issue -/

/-- What keeps every core's groups keeps the group of an instruction. -/
theorem State.group_of_account (s : State) (k : Nat) (f : Core → Core) (g : GRef)
    (h : ∀ (c : Core) (m : Nat), (f c).group m = c.group m) : (s.modCore k f).group g = s.group g := by
  unfold State.group
  by_cases hk : coreId g.core = k
  · rw [hk, State.modCore_core, h]
  · rw [State.modCore_core_other _ _ hk]

@[simp] theorem State.group_tagDone (s : State) (k slot : Nat) (g : GRef) : (s.tagDone k slot).group g = s.group g := by
  unfold State.tagDone
  refine State.group_of_account s k _ g fun c m => ?_
  split
  · split <;> rfl
  · rfl

@[simp] theorem State.group_countCore (s : State) (k code amt ctx : Nat) (g : GRef) : (s.countCore k code amt ctx).group g = s.group g :=
  State.countCore_keeps (fun x => x.group g) (fun a j _ _ => State.group_of_account a j _ g fun _ _ => rfl) (fun _ _ _ => rfl) s k code amt ctx

@[simp] theorem State.group_elapse (s : State) (ch : Nat) (g : GRef) : (s.elapse ch).group g = s.group g := by
  unfold State.elapse
  extract_lets f x
  split <;> rfl

@[simp] theorem State.group_tagIssue (s : State) (i : Issued) (g : GRef) : (s.tagIssue i).group g = s.group g := by
  unfold State.tagIssue
  extract_lets ch f per s1 t
  split
  · split
    · rw [State.group_of_account s1 i.core (fun k => { k with tagged := some t }) g (fun _ _ => rfl)]
      show (State.elapse _ _).group g = _
      rw [State.group_elapse]
      rfl
    · rfl
  · rfl

/-- What an issue notes in its group: no translation is missed, and from the next handshake on the group has not issued. -/
def noted (i : Issued) (x : Group) : Group :=
  if x.missed then { x with missed := false } else { x with quietSince := (i.s.core i.core).hs + 1 }

@[simp] theorem noted_sword (i : Issued) (x : Group) (r : Nat) : (noted i x).sword r = x.sword r := by unfold noted; split <;> rfl
@[simp] theorem noted_vword (i : Issued) (x : Group) (r l : Nat) : (noted i x).vword r l = x.vword r l := by unfold noted; split <;> rfl
@[simp] theorem noted_pmask (i : Issued) (x : Group) (p : Nat) : (noted i x).pmask p = x.pmask p := by unfold noted; split <;> rfl
@[simp] theorem noted_flags (i : Issued) (x : Group) : (noted i x).flags = x.flags := by unfold noted; split <;> rfl

/-- The group of an instruction that issues, in a state with the same cores: as it was, but for what the issue notes. -/
theorem State.group_noteIssue (s t : State) (g : GRef) (w : DWord) (ht : t.cores = s.cores) :
    (t.noteIssue (s.issued g w)).group g = noted (s.issued g w) (s.group g) := by
  have e : t.group g = s.group g := by unfold State.group State.core; rw [ht]
  have hg : (s.issued g w).grp = s.group g := rfl
  unfold State.noteIssue noted
  rw [hg]
  split
  · exact (State.group_modGroup t g _).trans (by rw [e])
  · rw [State.group_tagIssue]
    refine (State.group_modGroup _ g _).trans ?_
    have h1 : ∀ u : State, (u.modCore (s.issued g w).core fun c =>
        { c with hs := c.hs + 1, rotation := c.rotation + 1, lastIssued := (s.issued g w).g.slot }).group g = u.group g :=
      fun u => State.group_of_account u _ _ g fun _ _ => rfl
    rw [h1, State.group_countCore, e]

/-! ## An instruction that nothing stops -/

/-- The checks of R91, when none of them stops the instruction. -/
theorem Form.checks_run (f : Form) (i : Issued) (run : Issued → Out) (hv : f.valid i.blk i.w = true)
    (hu : (f.uniform && decide (i.mask = 0)) = false) (he : i.g.ecc = .ok) (hp : i.grp.firstPoison (f.srcs i) = none)
    (hc : f.check i = none) : f.checks i run = run i := by
  unfold Form.checks
  rw [hu]
  simp [hv, he, hp, hc]

/-- An instruction that issues goes through the checks of R91. -/
theorem Form.issue_of_issues (f : Form) (g : GRef) (w : DWord) (s : State) (run : Issued → Out) (h : f.issues g w s = true) :
    f.issue g w s run = f.checks { s.issued g w with s := s.atIssue (s.issued g w) } run := by
  unfold Form.issues at h
  extract_lets i at h
  simp only [Bool.and_eq_true, Bool.not_eq_true', decide_eq_true_eq] at h
  obtain ⟨⟨⟨⟨⟨he, hm⟩, ht⟩, hb⟩, hr⟩, hf⟩ := h
  obtain ⟨r, hr1, hr2⟩ := Option.map_eq_some_iff.mp ht
  obtain ⟨pa, hpa, hp⟩ := Option.map_eq_some_iff.mp hr1
  have ha : s.atIssue i = r.2.noteIssue i := by
    unfold State.atIssue State.afterFetch
    rw [hr1]
  rw [ha]
  unfold Form.issue
  rw [if_neg (by simpa using he), hm]
  simp only [enabled, if_true]
  have hpa' : s.tlbHit (clusterOfCore (s.issued g w).core) (s.issued g w).blk.ctx.val (fetchAccess (s.issued g w).grp.pc) = some pa := hpa
  have hp' : s.fetch (clusterOfCore (s.issued g w).core) (s.issued g w).blk.ctx.val (s.issued g w).grp.pc pa = r := hp
  have hb' : f.blocked (s.issued g w) = false := hb
  have hr' : f.ready (s.issued g w) = true := hr
  have hf' : f.fenceOk (s.issued g w) = true := hf
  rw [hpa']
  simp only
  rw [hp', hr2, hb', hr', hf']
  simp only [Bool.not_false, Bool.and_self, if_true, Bool.false_eq_true, if_false]
  rfl

/-- The order of R91 ends in the effect when nothing before it stops the instruction. -/
theorem Form.issue_of_clear (f : Form) (g : GRef) (w : DWord) (s : State) (run : Issued → Out) (h : f.clear g w s = true) :
    f.issue g w s run = run { s.issued g w with s := s.atIssue (s.issued g w) } := by
  unfold Form.clear at h
  extract_lets i j at h
  simp only [Bool.and_eq_true, Bool.not_eq_true', decide_eq_true_eq, Option.isNone_iff_eq_none] at h
  obtain ⟨⟨⟨⟨⟨hi, hv⟩, hu⟩, hx⟩, hp⟩, hc⟩ := h
  rw [Form.issue_of_issues f g w s run hi]
  exact Form.checks_run f j run hv hu hx hp hc

end Sys2Proof.Machine
end

