-- ==== Sys2Proof/Laws/Alu.lean ====
section
/-! SUPPORT. What the write of an arithmetic result does to a group (R64, R65, R68, R69), and what an instruction that ends in it
answers. -/

namespace Sys2Proof.Machine

/-- A result as its destination holds it: a pair whole, a word zero-extended. -/
def clipped (t : Nat) (x : DWord) : DWord := if isWide t then x else (loWord x).setWidth 64

theorem typeWords_cases (t : Nat) : typeWords t = 1 ∧ isWide t = false ∨ typeWords t = 2 ∧ isWide t = true := by
  unfold isWide typeWords
  split <;> simp

theorem pair_eq (x : DWord) : (hiWord x ++ loWord x : BitVec 64) = x := by
  unfold hiWord loWord
  apply BitVec.eq_of_getLsbD_eq
  intro i hi
  simp only [BitVec.getLsbD_append, BitVec.getLsbD_extractLsb']
  by_cases h : i < 32
  · simp [h]
  · simp [h, show i - 32 < 32 by omega, show 32 + (i - 32) = i by omega]

theorem RegsKept.refl (x : Group) (sd vd : List Nat) (m : Mask) (pd : List Nat) : RegsKept x x sd vd m pd :=
  ⟨fun _ _ => rfl, fun _ _ _ _ => rfl, fun _ _ => rfl⟩

/-- The registers of two groups agree. -/
theorem RegsKept.of_eq {x y z : Group} {sd vd : List Nat} {m : Mask} {pd : List Nat} (h : RegsKept x y sd vd m pd)
    (hs : ∀ r, z.sword r = y.sword r) (hv : ∀ r l, z.vword r l = y.vword r l) (hp : ∀ p, z.pmask p = y.pmask p) :
    RegsKept x z sd vd m pd :=
  ⟨fun r hr => (hs r).trans (h.1 r hr), fun r l hl hr => (hv r l).trans (h.2.1 r l hl hr), fun p hq => (hp p).trans (h.2.2 p hq)⟩

theorem mem_destRegs (w : DWord) (r : Nat) : r ∈ destRegs w ↔ r = fD w ∨ (isWide (fType w) = true ∧ r = fD w + 1) := by
  unfold destRegs
  rcases typeWords_cases (fType w) with ⟨h, k⟩ | ⟨h, k⟩ <;> rw [h, k] <;> simp [List.range_succ]

/-- Scalar registers written by `putS`. -/
theorem Group.sword_putS (g : Group) (r : Nat) (wide : Bool) (x : DWord) (q : Nat) :
    (g.putS r wide x).sword q
      = if wide = true ∧ q = r + 1 then clean (hiWord x) else if q = r then clean (loWord x) else g.sword q := by
  unfold Group.putS
  cases wide
  · by_cases h : q = r
    · subst h; simp
    · simp [h, Group.sword_setS_other g _ h]
  · by_cases h : q = r + 1
    · subst h; simp
    · by_cases k : q = r
      · subst k
        simp [Group.sword_setS_other _ (r := q + 1) _ h]
      · simp [h, k, Group.sword_setS_other _ (r := r + 1) _ h, Group.sword_setS_other g _ k]

@[simp] theorem Group.vword_putS (g : Group) (r : Nat) (wide : Bool) (x : DWord) (q l : Nat) :
    (g.putS r wide x).vword q l = g.vword q l := by unfold Group.putS; cases wide <;> rfl
@[simp] theorem Group.pmask_putS (g : Group) (r : Nat) (wide : Bool) (x : DWord) (q : Nat) :
    (g.putS r wide x).pmask q = g.pmask q := by unfold Group.putS; cases wide <;> rfl
@[simp] theorem Group.flags_putS (g : Group) (r : Nat) (wide : Bool) (x : DWord) : (g.putS r wide x).flags = g.flags := by
  unfold Group.putS; cases wide <;> rfl

/-- Vector registers written by `putV`. -/
theorem Group.vword_putV (g : Group) (r : Nat) (wide : Bool) (m : Mask) (f : Nat → DWord) (q l : Nat) (hl : l < 16) :
    (g.putV r wide m f).vword q l
      = if (wide = true ∧ q = r + 1) ∧ m.getLsbD l = true then clean (hiWord (f l))
        else if q = r ∧ m.getLsbD l = true then clean (loWord (f l)) else g.vword q l := by
  unfold Group.putV
  cases wide
  · simp [Group.vword_setLanes _ _ _ _ _ _ hl]
  · simp [Group.vword_setLanes _ _ _ _ _ _ hl]

@[simp] theorem Group.sword_putV (g : Group) (r : Nat) (wide : Bool) (m : Mask) (f : Nat → DWord) (q : Nat) :
    (g.putV r wide m f).sword q = g.sword q := by unfold Group.putV; cases wide <;> simp
@[simp] theorem Group.pmask_putV (g : Group) (r : Nat) (wide : Bool) (m : Mask) (f : Nat → DWord) (q : Nat) :
    (g.putV r wide m f).pmask q = g.pmask q := by unfold Group.putV; cases wide <;> simp
@[simp] theorem Group.flags_putV (g : Group) (r : Nat) (wide : Bool) (m : Mask) (f : Nat → DWord) :
    (g.putV r wide m f).flags = g.flags := by unfold Group.putV; cases wide <;> simp

/-- The destination after the write of a result. -/
theorem Issued.write_dest (i : Issued) (f : Nat → DWord) (x : Group) (l : Nat) (hl : l < 16) (hm : i.mask.getLsbD l = true) :
    destVal (i.write f x) i.w l = clipped (fType i.w) (f (if fClass i.w = 1 then lowLane i.mask else l))
      ∧ destPoison (i.write f x) i.w l = false := by
  unfold destVal destPoison Issued.write clipped destRegs
  by_cases hc : fClass i.w = 1
  · rcases typeWords_cases (fType i.w) with ⟨h, k⟩ | ⟨h, k⟩
    · simp [hc, h, k, Group.opVal, Group.opWord, Group.sword_putS, clean]
    · simp [hc, h, k, Group.opVal, Group.opWord, Group.sword_putS, clean, pair_eq, List.range_succ]
  · rcases typeWords_cases (fType i.w) with ⟨h, k⟩ | ⟨h, k⟩
    · simp [hc, h, k, Group.opVal, Group.opWord, Group.vword_putV _ _ _ _ _ _ _ hl, hm, clean]
    · simp [hc, h, k, Group.opVal, Group.opWord, Group.vword_putV _ _ _ _ _ _ _ hl, hm, clean, pair_eq, List.range_succ]

@[simp] theorem Issued.write_flags (i : Issued) (f : Nat → DWord) (x : Group) : (i.write f x).flags = x.flags := by
  unfold Issued.write
  split <;> simp

/-- The registers that the write of a result keeps. -/
theorem Issued.write_kept (i : Issued) (f : Nat → DWord) (x : Group) :
    RegsKept x (i.write f x) (if fClass i.w = 1 then destRegs i.w else []) (if fClass i.w = 1 then [] else destRegs i.w)
      i.mask [] := by
  unfold Issued.write
  by_cases hc : fClass i.w = 1
  · simp only [hc, if_true]
    refine ⟨fun r hr => ?_, fun r l _ _ => by simp, fun p _ => by simp⟩
    rw [mem_destRegs, not_or, not_and] at hr
    rw [Group.sword_putS, if_neg (fun h => hr.2 h.1 h.2), if_neg hr.1]
  · simp only [hc, if_false]
    refine ⟨fun r _ => by simp, fun r l hl hr => ?_, fun p _ => by simp⟩
    rw [Group.vword_putV _ _ _ _ _ _ _ hl]
    rcases hr with hr | hr
    · rw [mem_destRegs, not_or, not_and] at hr
      rw [if_neg (fun h => hr.2 h.1.1 h.1.2), if_neg (fun h => hr.1 h.1)]
    · simp [hr]

/-- The destination is read from the scalar and vector registers alone. -/
theorem dest_of_eq {x y : Group} (hs : ∀ r, y.sword r = x.sword r) (hv : ∀ r l, y.vword r l = x.vword r l) (w : DWord) (l : Nat) :
    destVal y w l = destVal x w l ∧ destPoison y w l = destPoison x w l := by
  unfold destVal destPoison
  constructor
  · cases decide (fClass w = 1) <;> simp only [Group.opVal, Group.opWord, hs, hv]
  · simp only [hs, hv]

/-- The group after an instruction has had its effect: its registers as the effect left them. -/
theorem Issued.done_next (i : Issued) (s : State) (f : Group → Group) :
    ∃ t, i.done s f = .next t ∧ t.group i.g = (f (s.group i.g)).advance := by
  refine ⟨_, rfl, ?_⟩
  rw [State.group_tagDone, State.group_modGroup]

@[simp] theorem Group.orFlags_zero (x : Group) : x.orFlags 0 = x := by
  unfold Group.orFlags
  simp

/-- An instruction whose effect is the write of a result, and FLAGS, in a state that differs only by what issuing counts. -/
theorem writesReg_of (c : GRef → DWord → Instr) (f : DWord → Form) (val : Issued → Nat → DWord) (flags : Issued → BitVec 3)
    (v : Issued → Nat → DWord) (s1 : Issued → State) (fl : Issued → BitVec 3)
    (hc : ∀ g w s, (f w).clear g w s = true → exec (c g w) s = (f w).issue g w s fun i =>
      i.done (s1 i) fun x => (i.write (v i) x).orFlags (fl i))
    (hs : ∀ i, OnlyGroup i.s (s1 i) (coreId i.g.core) i.g.slot.val)
    (hg : ∀ i, (s1 i).group i.g = i.s.group i.g)
    (hf : ∀ g w s, (f w).clear g w s = true →
      fl { s.issued g w with s := s.atIssue (s.issued g w) } = flags (s.issued g w))
    (hv : ∀ g w s l, (f w).clear g w s = true → l < 16 → (s.issued g w).mask.getLsbD l = true →
      clipped (fType w) (v { s.issued g w with s := s.atIssue (s.issued g w) }
        (if fClass w = 1 then lowLane (s.issued g w).mask else l)) = val (s.issued g w) l) :
    WritesReg c f val flags := by
  intro g w s h
  obtain ⟨i, hi⟩ : ∃ i : Issued, i = { s.issued g w with s := s.atIssue (s.issued g w) } := ⟨_, rfl⟩
  have hf := hf g w s h
  have hv := hv g w s
  rw [← hi] at hf
  simp only [← hi] at hv
  have e : i.s.group g = noted (s.issued g w) (s.group g) := by
    rw [hi]
    exact State.group_noteIssue s _ g w (State.afterFetch_cores s _)
  have hgi : i.g = g := by rw [hi]; rfl
  have hwi : i.w = w := by rw [hi]; rfl
  have hmi : i.mask = (s.issued g w).mask := by rw [hi]
  have ho : OnlyGroup (s.afterFetch (s.issued g w)) (s1 i) (coreId g.core) g.slot.val := by
    have h1 := hs i
    rw [hgi] at h1
    refine OnlyGroup.trans ?_ h1
    rw [hi]
    exact OnlyGroup.noteIssue (s.afterFetch (s.issued g w)) (s.issued g w)
  have hgg : (s1 i).group g = noted (s.issued g w) (s.group g) := by
    rw [← e, ← hgi]
    exact hg i
  have ht : ((((s1 i).modGroup g fun x => ((i.write (v i) x).orFlags (fl i)).advance).tagDone i.core g.slot.val).group g)
      = ((i.write (v i) ((s1 i).group g)).orFlags (fl i)).advance := by
    rw [State.group_tagDone, State.group_modGroup]
  refine ⟨((s1 i).modGroup g fun x => ((i.write (v i) x).orFlags (fl i)).advance).tagDone i.core g.slot.val, ?_, ?_, ?_, ?_, ?_⟩
  · rw [hc g w s h, Form.issue_of_clear _ _ _ _ _ h, ← hi, ← hgi]
    rfl
  · intro l hl hm
    have hw := Issued.write_dest i (v i) ((s1 i).group g) l hl (by rw [hmi]; exact hm)
    have hd := dest_of_eq (x := i.write (v i) ((s1 i).group g))
      (y := ((i.write (v i) ((s1 i).group g)).orFlags (fl i)).advance)
      (fun r => Group.sword_advance _ r) (fun r l => Group.vword_advance _ r l) w l
    rw [hwi, hmi] at hw
    rw [ht, ← hv l h hl hm]
    exact ⟨hd.1.trans hw.1, hd.2.trans hw.2⟩
  · rw [ht, Group.flags_advance, ← hf]
    show (i.write (v i) ((s1 i).group g)).flags ||| fl i = _
    rw [Issued.write_flags, hgg, noted_flags]
  · rw [ht]
    refine RegsKept.of_eq ?_ (fun r => Group.sword_advance _ r) (fun r l => Group.vword_advance _ r l) (fun p => Group.pmask_advance _ p)
    have k := Issued.write_kept i (v i) ((s1 i).group g)
    rw [hwi, hmi, hgg] at k
    rw [hgg]
    exact ⟨fun r hr => (k.1 r hr).trans (noted_sword _ _ r), fun r l hl hr => (k.2.1 r l hl hr).trans (noted_vword _ _ r l),
      fun p hp => (k.2.2 p hp).trans (noted_pmask _ _ p)⟩
  · exact (ho.trans (OnlyGroup.modGroup (s1 i) g _)).trans (OnlyGroup.tagDone _ _ _ _ _)

end Sys2Proof.Machine
end

