-- ==== Sys2Proof/Laws/Ticks.lean ====
section
/-! SUPPORT. What time changes (R22, R421): the free values drawn, and the counters of cores, clusters and channels. -/

namespace Sys2Proof.Machine

/-- Whatever is observed of a state that drawing a free value, the counters of a core or of a cluster, and a channel's own fields do not
change, time leaves alone. -/
theorem tick_keeps {β : Type} (f : State → β) (hfree : ∀ s n, f { s with freeCount := n } = f s)
    (hcore : ∀ s k p b o, f (s.modCore k fun c => { c with pmc := p, condBefore := b, ovf := c.ovf ||| o }) = f s)
    (hcluster : ∀ s k p b o, f (s.modCluster k fun c => { c with pmc := p, condBefore := b, ovf := c.ovf ||| o }) = f s)
    (hchan : ∀ s ch g, f (s.modChan ch g) = f s) (s : State) : f s.tick = f s := by
  have wrap (t : State) (ch n : Nat) (l : List Nat) : f (t.wrapAll ch n l) = f t := foldl_keeps f _ (fun _ _ => hchan _ _ _) l t
  have core (t : State) (n k : Nat) : f (t.sampleCore n k) = f t := by rw [State.sampleCore, wrap]; exact hcore _ _ _ _ _
  have cluster (t : State) (n k : Nat) : f (t.sampleCluster n k) = f t := by rw [State.sampleCluster, wrap]; exact hcluster _ _ _ _ _
  have chan (t : State) (n ch : Nat) : f (t.sampleChan n ch) = f t := by rw [State.sampleChan, wrap]; exact hchan _ _ _
  have free (t : State) : f t.takeFree.2 = f t := hfree t _
  have cycles (t : State) (ch n : Nat) : f (t.passCycles ch n) = f t := by
    have a (u : State) : f ((List.range 128).foldl (fun acc i => acc.sampleCluster n (128 * ch + i)) u) = f u :=
      foldl_keeps f _ (fun _ _ => cluster _ _ _) _ u
    have b (u : State) : f ((List.range 32768).foldl (fun acc i => acc.sampleCore n (32768 * ch + i)) u) = f u :=
      foldl_keeps f _ (fun _ _ => core _ _ _) _ u
    unfold State.passCycles
    extract_lets c s1
    have h : f s1 = f t := by unfold s1; split <;> simp [a]
    split
    · rw [b, h]
    · exact h
  refine foldl_keeps f _ (fun t ch => ?_) _ s
  unfold State.pass
  split
  · rfl
  · extract_lets ticks rest c s1 s2
    have h1 : f s1 = f t := by unfold s1; split <;> simp [hchan, free, rest, ticks]
    split
    · exact h1
    · have h2 : f s2 = f t := by unfold s2; split <;> simp [chan, h1]
      split
      · exact h2
      · rw [cycles, h2]

end Sys2Proof.Machine
end

