-- ==== Sys2Proof/Tests/Slice0.lean ====
section
/-! SUPPORT. Tests: decoding of words written out from the spec, a term that each check of well-formedness refuses, and for the statements
states and operands that meet their hypotheses. -/

namespace Sys2Proof.Tests

set_option Elab.async false

open Sys2Proof.Machine

/-! ## A small device: one core with a block of one group of context 1, whose pages are their own addresses -/

/-- The group slot under test. -/
def g0 : GRef := ⟨⟨0, 0, 0⟩, 0, .ok, []⟩

/-- A word with PGN = 1 and PG = 0, so that every lane of the running mask executes (R66, R68). -/
def word (cls op ty d a as_ : Nat) (t : Tail) : DWord :=
  encodeDrarak ⟨BitVec.ofNat 4 cls, BitVec.ofNat 6 op, 1, 0, BitVec.ofNat 4 ty, BitVec.ofNat 6 d, BitVec.ofNat 6 a, BitVec.ofNat 1 as_⟩ t

/-- The low half of form R with the registers B and C. -/
def rr (b c : Nat) : Tail := .formR (BitVec.ofNat 6 b) (BitVec.ofNat 6 c) 0 0 0
/-- No operand in the low half. -/
def r0 : Tail := rr 0 0
/-- Form R, with X alone. -/
def rx (x : Nat) : Tail := .formR 0 0 0 0 (BitVec.ofNat 18 x)

/-- A block of context 1 that holds its core's Quern. -/
def blk0 : Block := { Block.absent with live := true, ctx := 1, launch := 1, groups := 1, regs := 32, lmSize := 4096, quern := true }

/-- A ready group at 0x1000 whose lanes 0 and 1 run. Lane 0 of v1 holds 3, of v2 holds 5. -/
def grp0 : Group :=
  { Group.absent with live := true, active := true, pc := 0x1000, mask := 3
                      v := [(16, ⟨3, false⟩), (32, ⟨5, false⟩)] }

/-- The device with that group in slot 0 of core 0. -/
def dev (x : Group) : State :=
  { State.reset with
      cores := [(0, { Core.idle with groups := [(0, x)], blocks := [(0, blk0)] })]
      clusters := [(0, { Cluster.idle with tlb := [(0, ⟨true, 1, 0, true, 0, true, true⟩)] })] }

/-- A command, the form of its row and its word. -/
structure Row where
  c : GRef → DWord → Instr
  f : Form
  w : DWord

/-- The command answers a next state. -/
def goes (c : Instr) (s : State) : Bool := match exec c s with | .next _ => true | _ => false

/-- The word decodes to the row, the row reaches its effect on the device, and it completes. -/
def Row.meets (r : Row) (s : State) : Bool :=
  (r.c g0 r.w).wellFormed && r.f.clear g0 r.w s && goes (r.c g0 r.w) s

/-- What a command leaves of a group's word of a vector register. -/
def after (c : Instr) (s : State) (obs : Group → Nat) : Option Nat := match exec c s with | .next t => some (obs (t.group g0)) | _ => none

/-! ## Decoding: words written out from the chapter's encodings (R66 and the class tables) -/

/-- Class 0x2, OP 1, PGN 1, TYPE u32, D = v4, A = v1, B = v2: ADD. -/
theorem test_decode_add : decodeDrarak g0 0x2060040408000000 = .add g0 0x2060040408000000 := by decide
/-- The chapter's FFMA. -/
theorem test_decode_ffma : decodeDrarak g0 0x310508080C800000 = .ffma g0 0x310508080C800000 := by decide
/-- The chapter's LD. -/
theorem test_decode_ld : decodeDrarak g0 0x6020040917420040 = .ld g0 0x6020040917420040 := by decide
/-- Class 0x0, OP 6: EXIT; OP 8 is undefined, as is the word 0. -/
theorem test_decode_exit : decodeDrarak g0 0x01A0000000000000 = .exit g0 0x01A0000000000000 := by decide
theorem test_decode_undefined : decodeDrarak g0 0x0220000000000000 = .illegal g0 0x0220000000000000 ∧ decodeDrarak g0 0 = .illegal g0 0 := by decide
/-- Class 0xD, OP 1, IMM = 0x10: GETSR64 of REFCNT. -/
theorem test_decode_getsr64 : decodeDrarak g0 0xD060040200000010 = .getsr64 g0 0xD060040200000010 0 := by decide

/-! ## Instructions of the integer and float classes (R74 to R77, R85) -/

/-- An operation of classes 0x1 and 0x2 in class 0x2 with each type it has, on v1 (v2 of a pair) and v2. -/
def alu (c : GRef → DWord → Instr) (op k : Nat) (ts : List Nat) (ty : Nat) : Row :=
  let w := word 2 op ty 4 2 0 (rr (if k < 2 then 0 else 2) (if k < 3 then 0 else 2))
  ⟨c, (aluForm op k ts 0).byClass w, w⟩

def intRows : List Row :=
  [alu .add 1 2 intTypes 0, alu .add 1 2 intTypes 3, alu .sub 2 2 intTypes 1, alu .mul 3 2 intTypes 0, alu .mulhi 4 2 [0, 1] 1,
   alu .mad 5 3 intTypes 2, alu .min 6 2 intTypes 1, alu .max 7 2 intTypes 3, alu .and 8 2 intTypes 0, alu .or 9 2 intTypes 0,
   alu .xor 10 2 intTypes 0, alu .shl 11 2 intTypes 2, alu .shr 12 2 intTypes 0, alu .sar 13 2 intTypes 1,
   alu .popc 15 1 [0, 2] 2, alu .clz 16 1 [0, 2] 0, alu .clz 16 1 [0, 2] 2,
   ⟨.add, (aluForm 1 2 intTypes 0).byClass (word 1 1 2 4 2 0 (rr 2 0)), word 1 1 2 4 2 0 (rr 2 0)⟩,
   ⟨.mov, movForm (word 2 0 0 4 1 0 r0), word 2 0 0 4 1 0 r0⟩, ⟨.mov, movForm (word 2 0 3 4 0 0 (.formI 0xFFFFFFFF)), word 2 0 3 4 0 0 (.formI 0xFFFFFFFF)⟩,
   ⟨.sel, selForm (word 2 14 4 4 1 0 (rr 2 0)), word 2 14 4 4 1 0 (rr 2 0)⟩]

theorem meets_IntegerArithmetic_LogicShiftsAndMoves : intRows.all (fun r => r.meets (dev grp0)) = true := by decide +kernel

/-- An operation of binary32 in each of its encodings. -/
def flt (c : GRef → DWord → Instr) (encs : List (Nat × Nat)) (k : Nat) : List Row :=
  encs.map fun e =>
    let w := word e.1 e.2 4 4 (if e.1 = 1 then 2 else 1) 0 (rr (if k < 2 then 0 else 2) (if k < 3 then 0 else 2))
    ⟨c, floatForm encs k w, w⟩

def floatRows : List Row :=
  flt .fadd [(1, 32), (3, 1)] 2 ++ flt .fsub [(3, 2)] 2 ++ flt .fmul [(1, 33), (3, 3)] 2 ++ flt .ffma [(1, 34), (3, 4)] 3
    ++ flt .fmin [(3, 5)] 2 ++ flt .fmax [(3, 6)] 2 ++ flt .frcp [(3, 7)] 1 ++ flt .frsq [(3, 8)] 1 ++ flt .fsqrt [(3, 9)] 1
    ++ flt .fexp2 [(3, 10)] 1 ++ flt .flog2 [(3, 11)] 1 ++ [⟨.hzadd, hzaddForm (word 3 12 13 4 2 0 (rr 2 0)), word 3 12 13 4 2 0 (rr 2 0)⟩]

theorem meets_FloatArithmetic_FloatFunctions : floatRows.all (fun r => r.meets (dev grp0)) = true := by decide +kernel

/-- binary32 to HOLLY16 into element 1, and binary32 to binary32. -/
def cvtRows : List Row :=
  [⟨.cvt, cvtForm, word 4 0 8 4 1 0 (rx (4 * 2 ^ 14 + 2 ^ 11 + 2 ^ 9))⟩, ⟨.cvt, cvtForm, word 4 0 4 4 1 0 (rx (4 * 2 ^ 14))⟩]

theorem meets_Conversion : cvtRows.all (fun r => r.meets (dev grp0) && (ElTy.ofCode (BitVec.ofNat 4 (fieldOf r.w 17 14))).isSome
    && (ElTy.ofCode (BitVec.ofNat 4 (fType r.w))).isSome) = true := by decide +kernel

def laneRows : List Row :=
  [⟨.cmp, cmpForm, word 5 0 0 7 1 0 (rr 2 0)⟩, ⟨.plop, plopForm, word 5 1 0 7 1 0 (rr 2 0)⟩, ⟨.ptos, ptosForm, word 5 2 0 15 7 0 r0⟩,
   ⟨.stop, stopForm, word 5 3 0 7 15 0 r0⟩, ⟨.pcnt, pcntForm, word 5 4 0 4 0 0 r0⟩, ⟨.shfl, shflForm, word 5 5 0 31 1 0 (rr 2 0)⟩,
   ⟨.rdlane, rdlaneForm, word 5 6 0 4 1 0 (.formI 15)⟩]

theorem meets_PredicatesAndLanes : laneRows.all (fun r => r.meets (dev grp0)) = true := by decide +kernel

/-- Lane 0 adds 3 and 5; a u32 sum wraps; MIN of i32 takes the negative number; CLZ of 0 is 32 and of a pair 64 (R74). -/
theorem test_add : after (.add g0 (alu .add 1 2 intTypes 0).w) (dev { grp0 with v := [(32, ⟨0xFFFFFFFF, false⟩)] }) (fun x => (x.vword 4 0).val.toNat)
    = some 0xFFFFFFFE := by decide +kernel
theorem test_min : after (.min g0 (alu .min 6 2 intTypes 1).w) (dev { grp0 with v := [(32, ⟨0x80000000, false⟩)] }) (fun x => (x.vword 4 0).val.toNat)
    = some 0x80000000 := by decide +kernel
theorem test_clz : after (.clz g0 (alu .clz 16 1 [0, 2] 0).w) (dev { grp0 with v := [] }) (fun x => (x.vword 4 0).val.toNat) = some 32
    ∧ after (.clz g0 (alu .clz 16 1 [0, 2] 2).w) (dev { grp0 with v := [] }) (fun x => (x.vword 4 0).val.toNat) = some 64 := by decide +kernel
/-- 1.0 + 1.0 = 2.0 in binary32. -/
theorem test_fadd : after (.fadd g0 (word 3 1 4 4 1 0 (rr 1 0))) (dev { grp0 with v := [(16, ⟨0x3F800000, false⟩)] }) (fun x => (x.vword 4 0).val.toNat)
    = some 0x40000000 := by decide +kernel
/-- With FLUSH, B = −2^−149 counts as +0 and −0 − (+0) = −0; −0 + (+0) = +0 (R135). -/
theorem test_fsub_flush : f32Sub true 0x80000000 0x80000001 = (0x80000000, flagFlushed) ∧ f32Add true 0x80000000 0x80000001 = (0, flagFlushed) := by decide +kernel
/-- A wrong row, and a message of another kind, are ill-formed; so are operands outside the ranges of their rows. -/
theorem test_ill_formed_word : (Instr.sub g0 (alu .add 1 2 intTypes 0).w).wellFormed = false := by decide
theorem test_ill_formed_lanes : (Instr.trainingComplete 0 2 4).wellFormed = false ∧ (Instr.retrainComplete 0 0 3 0).wellFormed = false
    ∧ (Instr.trainingComplete 0 1 4).wellFormed = true := by decide
set_option maxRecDepth 4000 in
theorem test_ill_formed_flit :
    (Instr.flitReceive 0 0 ⟨List.replicate 272 0, ⟨0, 0, false, .data, List.replicate 5 (0, 0), []⟩⟩).wellFormed = false
      ∧ (Instr.flitReceive 0 0 ⟨List.replicate 271 0, ⟨0, 0, false, .data, [], []⟩⟩).wellFormed = false := by decide
theorem test_ill_formed_offset : (Instr.registerWrite 0 false 2 false 0).wellFormed = false ∧ (Instr.registerWrite 0 false 4 true 0).wellFormed = false
    ∧ (Instr.registerWrite 1 false 0x10000 false 0).wellFormed = false ∧ (Instr.registerWrite 1 true 0 false 0).wellFormed = false
    ∧ (Instr.registerWrite 0 true 0x100000 false 0).wellFormed = false := by decide
theorem test_ill_formed_area : (Instr.areaEnable 0 (.ctxCq 0) 0).wellFormed = false := by decide

/-! ## Control flow (R44, R45, R73) -/

/-- A branch of form BR in the lanes where p1 is set. -/
def braP1 : DWord := encodeDrarak ⟨0, 2, 0, 1, 0, 0, 0, 0⟩ (.formBR 4 8)

def controlRows : List Row :=
  [⟨.nop, nopForm, word 0 1 0 0 0 0 r0⟩, ⟨.jmpl, jmplForm, word 0 4 0 14 0 0 (.formBR 0x8000 0)⟩, ⟨.jmpr, jmprForm, word 0 5 0 0 4 1 r0⟩,
   ⟨.bra, braForm, word 0 2 0 0 0 0 (.formBR 4 8)⟩, ⟨.bra, braForm, braP1⟩, ⟨.brx, brxForm, word 0 3 0 0 4 0 (.formBR 0 4)⟩]

/-- Lane 0 has p1 set: the branch above parts the group. Its pair v4, v5 names 0x2000 in lane 0 and 0x3000 in lane 1. -/
def grpP : Group := { grp0 with p := [(1, 1)], v := [(64, ⟨0x2000, false⟩), (65, ⟨0x3000, false⟩)] }

theorem meets_JumpsAndBranches : controlRows.all (fun r => r.meets (dev grp0) && r.meets (dev grpP)) = true
    ∧ execMask grp0 braP1 = 0 ∧ execMask grpP braP1 = 1 ∧ brTarget braP1 ≠ brJoin braP1 := by decide +kernel

/-- No join stands on an empty stack. -/
theorem meets_noJoin (a : DWord) : noJoinAt grp0 a ∧ noJoinAt grpP a := ⟨(fun _ h => by cases h), (fun _ h => by cases h)⟩

/-- Groups whose next address is their join, with a deferred entry above it and without. -/
def grpDefer : Group := { grp0 with stack := [⟨.deferred, 0x2000, 12⟩, ⟨.join, 0x1008, 15⟩] }
def grpJoin : Group := { grp0 with stack := [⟨.join, 0x1008, 15⟩] }

theorem meets_ReconvergenceAndExit :
    nopForm.clear g0 (word 0 1 0 0 0 0 r0) (dev grpDefer) = true ∧ nopForm.clear g0 (word 0 1 0 0 0 0 r0) (dev grpJoin) = true
      ∧ grpJoin.stack.head?.map (fun e => e.addr) = some (grpJoin.pc + 8)
      ∧ exitForm.clear g0 (word 0 6 0 0 0 0 r0) (dev grpJoin) = true ∧ grpJoin.lanesLeft &&& ~~~(3 : Mask) ≠ 0
      ∧ exitForm.clear g0 (word 0 6 0 0 0 0 r0) (dev grp0) = true ∧ grp0.lanesLeft &&& ~~~(3 : Mask) = 0
      ∧ exitForm.clear g0 (encodeDrarak ⟨0, 6, 0, 1, 0, 0, 0, 0⟩ r0) (dev grpP) = true ∧ grpP.mask &&& ~~~(1 : Mask) ≠ 0 := by decide +kernel

/-- The word 0, TRAP 0xFFFF, an ADD on a register that the block lacks, and one on a poisoned source. -/
theorem meets_TrapsAndFaults :
    (Form.plain [(0, 0)] (fun _ _ => false) false).issues g0 0 (dev grp0) = true
      ∧ trapForm.issues g0 (word 0 7 0 0 0 0 (.formI 0xFFFF)) (dev grp0) = true ∧ trapForm.valid blk0 (word 0 7 0 0 0 0 (.formI 0xFFFF)) = true
      ∧ goes (.trap g0 (word 0 7 0 0 0 0 (.formI 0xFFFF))) (dev grp0) = true ∧ goes (.illegal g0 0) (dev grp0) = true
      ∧ (let w := word 2 1 0 32 1 0 (rr 2 0); (aluForm 1 2 intTypes 0).issues g0 w (dev grp0) = true ∧ (aluForm 1 2 intTypes 0).valid blk0 w = false)
      ∧ (let w := (alu .add 1 2 intTypes 0).w; let f := aluForm 1 2 intTypes 0; let s := dev { grp0 with v := [(32, ⟨0, true⟩)] }
         f.issues g0 w s = true ∧ f.valid blk0 w = true
           ∧ (s.group g0).firstPoison (f.srcs { s.issued g0 w with s := s.atIssue (s.issued g0 w) }) = some 0x20001) := by decide +kernel

/-- The half of line 32 that holds the instruction is poisoned; and no translation of its page stands in the TLB. -/
theorem meets_TrapsAndFaults_fetch :
    (let s : State := { dev grp0 with halves := [(placeHalf ((dev grp0).place 32) 0, ⟨0, true, 0⟩)] }
     let w := (alu .add 1 2 intTypes 0).w
     s.mayIssue g0 = true ∧ (s.fetched (s.issued g0 w)).map Prod.fst = some true ∧ goes (.add g0 w) s = true) := by decide +kernel
theorem meets_IssuedInstructionsRun :
    (let s : State := { dev grp0 with clusters := [] }
     let w := (alu .add 1 2 intTypes 0).w
     s.mayIssue g0 = true ∧ s.fetched (s.issued g0 w) = none ∧ goes (.add g0 w) s = true)
      ∧ (intRows ++ floatRows ++ cvtRows ++ laneRows ++ controlRows).all (fun r => r.f.issues g0 r.w (dev grp0)) = true := by decide +kernel

/-! ## System registers, local and global memory (R78 to R85, R164 to R170) -/

/-- The group with s4 = 0x100 (s5 = 0), an address and a local offset; s8 = 0, the handle of object 0; s9 names core 0 as a signal's target;
s10, s11 hold 7, s12 holds 1. -/
def grp1 : Group := { grp0 with s := [(4, ⟨0x100, false⟩), (9, ⟨0x40000000, false⟩), (10, ⟨7, false⟩), (12, ⟨1, false⟩)] }

def systemRows : List Row :=
  [⟨.getsr, getsrForm, word 13 0 0 4 0 0 (.formI 0)⟩, ⟨.getsr, getsrForm, word 13 0 0 4 0 0 (.formI 6)⟩, ⟨.gettid, gettidForm, word 13 3 0 4 0 0 r0⟩,
   ⟨.clrflags, clrflagsForm, word 13 2 0 0 0 0 (.formI 7)⟩, ⟨fun g w => .getsr64 g w 4, getsr64Form, word 13 1 0 4 0 0 (.formI 0x10)⟩,
   ⟨fun g w => .getsr64 g w 0, getsr64Form, word 13 1 0 4 0 0 (.formI 0x27)⟩]

theorem meets_SystemRegisters : systemRows.all (fun r => r.meets (dev grp0)) = true := by decide +kernel

/-- Form M without an offset register, form A of 8 bytes. -/
def mm (sz : Nat) : Tail := .formM 0 0 0 (BitVec.ofNat 3 sz) 0 0 0 0
def aa (c opx : Nat) : Tail := .formA 0 (BitVec.ofNat 6 c) 0 0 1 (BitVec.ofNat 4 opx) 0

def ldl16 : DWord := word 7 0 0 4 4 1 (mm 4)

theorem meets_LocalMemory :
    [(⟨.ldl, ldlForm, ldl16⟩ : Row), ⟨.stl, stlForm, word 7 1 0 4 4 1 (mm 0)⟩].all (fun r => r.meets (dev grp1)) = true
      ∧ (let s := dev { grp1 with s := [(4, ⟨0x101, false⟩)] }; ldlForm.issues g0 ldl16 s = true ∧ (s.issued g0 ldl16).localOffset 0 % 16 ≠ 0 ∧ goes (.ldl g0 ldl16) s = true)
      ∧ (let s := dev { grp1 with s := [(4, ⟨0x1000, false⟩)] }; ldlForm.issues g0 ldl16 s = true ∧ (s.issued g0 ldl16).localOffset 0 % 16 = 0
         ∧ blk0.lmSize < (s.issued g0 ldl16).localOffset 0 + 16 ∧ goes (.ldl g0 ldl16) s = true) := by decide +kernel

def barBlock3 : DWord := word 12 3 0 0 0 0 (rx 0x30000)

/-- A second live group of the block, which has not arrived. -/
def dev2 : State :=
  { dev grp0 with cores := [(0, { Core.idle with groups := [(0, grp0), (1, { grp0 with index := 1, ident := 1 })], blocks := [(0, { blk0 with groups := 2 })] })] }

def fenceRows : List Row :=
  [⟨.fence, fenceForm, word 12 0 0 0 0 0 (rx 0x30000)⟩, ⟨.complete, completeForm, word 12 1 0 0 0 0 (rx 0x20000)⟩, ⟨.barGroup, barGroupForm, word 12 2 0 0 0 0 r0⟩,
   ⟨.waithint, waithintForm, word 12 4 0 0 0 0 r0⟩, ⟨.waithint, waithintForm, encodeDrarak ⟨12, 4, 0, 1, 0, 0, 0, 0⟩ r0⟩, ⟨.barBlock, barBlockForm, barBlock3⟩]

/-- An unacknowledged store of the group, which a COMPLETE.device awaits. -/
def storeB (x : Group) (e : StoreEntry) : State :=
  { dev x with cores := [(0, { Core.idle with groups := [(0, x)], blocks := [(0, blk0)], stores := [e] })], tickets := 1 }
def entry0 : StoreEntry :=
  { id := 0, stamp := 0, slot := 0, lanes := 0xFFFF, live := true, ended := 0, launch := 1, tagged := false, flush := false, cls := 3, ctx := 1, line := 2, va := 0x100,
    kind := .st 0, data := 9, mask := 1, poison := 0, issued := false, acked := false }

theorem meets_FencesAndBarriers :
    fenceRows.all (fun r => r.meets (dev grpP)) = true ∧ (dev grpP).completeMet 0 0 2 ((dev grpP).atIssue ((dev grpP).issued g0 (word 12 1 0 0 0 0 (rx 0x20000)))).tickets = true
      ∧ completeForm.clear g0 (word 12 1 0 0 0 0 (rx 0x20000)) (storeB grp0 entry0) = true ∧ (storeB grp0 entry0).completeMet 0 0 2 ((storeB grp0 entry0).atIssue ((storeB grp0 entry0).issued g0 (word 12 1 0 0 0 0 (rx 0x20000)))).tickets = false
      ∧ barBlockForm.clear g0 barBlock3 dev2 = true ∧ 0 + 1 < dev2.liveCount 0 0 ∧ goes (.barBlock g0 barBlock3) dev2 = true := by decide +kernel

def memRows : List Row :=
  [⟨.ld, ldForm, word 6 0 0 4 4 1 (mm 4)⟩, ⟨.st, stForm, word 6 1 0 4 4 1 (mm 0)⟩, ⟨.pref, prefForm, word 6 2 0 0 4 1 (mm 2)⟩,
   ⟨.atom, atomForm, word 8 0 0 4 4 1 (aa 8 12)⟩, ⟨.red, redForm, word 8 1 0 0 4 1 (aa 8 11)⟩, ⟨.ldfe, ldfeForm, word 9 0 0 4 4 1 (aa 7 0)⟩,
   ⟨.ldfe, ldfeForm, word 9 0 0 4 4 1 (aa 0 2)⟩, ⟨.stfe, stfeForm, word 9 1 0 4 4 1 (aa 0 0)⟩, ⟨.stfe, stfeForm, word 9 1 0 4 4 1 (aa 0 1)⟩,
   ⟨.waitfe, waitfeForm, word 9 2 0 0 4 1 (aa 0 1)⟩]

/-- The rows reach their effect; their addresses, all 0x100, are in the page that the TLB holds; the address 2^57 fails its check. -/
theorem meets_LoadsAndStores_AtomicsAndFullEmpty : memRows.all (fun r => r.meets (dev grp1)) = true
    ∧ (memRows.all fun r =>
        let i := (dev grp1).issued g0 r.w
        ((i.virtualPieces (if fClass r.w = 6 then i.globalVa else i.atomVa) 16).all fun p =>
          ((dev grp1).tlbHit 0 1 (accessOf p.va true false)).isSome && ((dev grp1).tlbHit 0 1 (accessOf p.va false true)).isSome)) = true
    ∧ (let s := dev { grp1 with s := [(5, ⟨0x2000000, false⟩)] }; let w := word 6 2 0 0 4 1 (mm 2)
       ((s.issued g0 w).addressCheck (s.issued g0 w).globalVa).isSome = true ∧ prefForm.clear g0 w s = true) := by decide +kernel

/-! ## Sluice (R83, R187, R188, R192, R194) -/

/-- Context 1 owns object 0. -/
def devObj (flag : Bool) : State := { dev grp1 with objs := [(0, { SyncObj.free with alloc := true, owner := 1, flag := flag })] }

def syncRows : List Row :=
  [⟨.syncSet, syncSetForm, word 10 0 0 0 8 1 (.formR 10 0 1 0 0x20000)⟩, ⟨.syncClear, syncClearForm, word 10 1 0 0 8 1 r0⟩,
   ⟨.syncWaitSet, syncWaitSetForm, word 10 2 0 14 8 1 r0⟩, ⟨.syncWaitClear, syncWaitClearForm, word 10 3 0 0 8 1 r0⟩,
   ⟨.syncPut, syncPutForm, word 10 4 0 0 8 1 (.formR 10 0 1 0 0)⟩, ⟨.syncTake, syncTakeForm, word 10 5 0 14 8 1 r0⟩,
   ⟨.syncTest, syncTestForm, word 10 6 0 14 8 1 r0⟩, ⟨.syncAdd, syncAddForm, word 10 7 0 14 8 1 (.formR 10 0 1 0 0)⟩]

theorem meets_SyncOperations : syncRows.all (fun r => r.meets (devObj true) && r.meets (devObj false)) = true
    ∧ ((devObj true).obj 0).accepts 1 0 = true ∧ ((devObj true).obj 0).waits = [] := by decide +kernel

/-- A take on a set object, queued behind a put, is satisfied and then the put; on a clear object the put goes first, then the take (R187, R188). -/
theorem test_passes :
    let o : SyncObj := { SyncObj.free with alloc := true, waits := [⟨0, 0, .put, 5, 0⟩, ⟨0, 1, .take, 0, 2⟩] }
    ((passAll 3 { o with flag := true }).2.waits, (passAll 3 { o with flag := true }).2.flag, (passAll 3 { o with flag := true }).2.payload) = ([], true, 5)
      ∧ ((passAll 3 o).2.waits, (passAll 3 o).2.flag, (passAll 3 o).2.payload) = ([], false, 5) := by decide +kernel

def sig1 : State := { dev { grp0 with waiting := .signal } with signals := [(1, 0x40000000)] }
def ramp (k : Option (Nat × Byte)) : State :=
  { dev { grp0 with waiting := .wake } with chans := [(0, { Channel.ready with wakes := [⟨0, [0], none, false, 0⟩], releaseStep := k })] }

theorem meets_SignalsAndWakes :
    [(⟨.signal, signalForm, word 10 8 0 0 9 1 r0⟩ : Row), ⟨.waitsig, waitsigForm, word 10 9 0 0 0 0 r0⟩].all (fun r => r.meets (dev grp1)
        && r.meets (dev { grp1 with latch := true })) = true
      ∧ sig1.signalTargets 1 0x40000000 = [(0, 0)] ∧ goes (.signalDelivery 1 0x40000000) sig1 = true
      ∧ goes (.signalDelivery 1 0x40000001) { sig1 with signals := [(1, 0x40000001)] } = true ∧ sig1.signalTargets 1 0x40000001 = []
      ∧ goes (.wakeRampRelease 0) (ramp none) = true ∧ goes (.rampStepEnd 0) (ramp (some (1, 0))) = true := by decide +kernel

/-! ## Quern and the move engine (R87, R93 to R106, R173, R262) -/

/-- The core's Quern with a loaded Privet8 set in both halves and some entries queued; a move descriptor of 64 bytes in local memory at 0x100. -/
def devQ (q : List QuernEntry) : State :=
  { dev grp1 with
      cores := [(0, { Core.idle with
        groups := [(0, grp1)]
        blocks := [(0, { blk0 with lm := [(0x101, 2), (0x109, 4), (0x110, 64), (0x114, 0xFF), (0x115, 0xFF), (0x116, 0xFF), (0x117, 0xFF)] })]
        quern := { Quern.idle with block := some 0, active := ⟨[], 10, 0, 0, true⟩, shadow := ⟨[], 10, 0, 0, true⟩, queue := q } })]
      ctxs := [(1, { Context.absent with state := .active, segs := [(0, ⟨true, true, 64, 0, 0⟩)] })] }

def quernRows : List Row :=
  [⟨.qload, qloadForm, word 11 0 0 0 4 1 (rx (10 * 2 ^ 14))⟩, ⟨.qload, qloadForm, word 11 0 0 0 4 0 (rx (10 * 2 ^ 14))⟩, ⟨.qswap, qswapForm, word 11 1 0 0 0 0 r0⟩,
   ⟨.qstream, qstreamForm, word 11 2 0 0 4 1 (.formR 12 0 1 0 (BitVec.ofNat 18 (10 * 2 ^ 14)))⟩, ⟨.qdrain, qdrainForm, word 11 3 0 4 0 0 (rx (4 * 2 ^ 14))⟩,
   ⟨.qzero, qzeroForm, word 11 4 0 0 0 0 (rx 0x2000)⟩]

def qe (started : Bool) (op : QuernOp) : QuernEntry :=
  { id := 7, slot := 0, ident := 0, seq := 0, tag := 0, live := true, pc := 0x1000, mask := 3, ctx := 1, flush := false, satNaR := false, started := started, op := op }

/-- The operations that start at once, and those that end. -/
def startOps : List QuernOp := [.swap, .zero true]
def endOps : List QuernOp := [.load false false 0 [0, 0] 10 0 0, .drain 4 4 false 0 true (List.replicate 32 0x80000000) 0xFFFFFFFF]

theorem meets_QuernQueue : quernRows.all (fun r => r.meets (devQ [])) = true
    ∧ (startOps.all fun o => (devQ [qe false o]).quernReady 0 (qe false o) && goes (.quernQueueStart ⟨0, 0, 0⟩ 7 []) (devQ [qe false o])) = true
    ∧ (endOps.all fun o => goes (.quernInstructionComplete ⟨0, 0, 0⟩ 7) (devQ [qe true o])) = true := by decide +kernel

/-- A descriptor of 64 bytes, not begun, and one whose lines are all copied. -/
def desc0 : Desc :=
  { id := 3, launch := 1, ctx := 1, cls := 3, core := 0, slot := 0, waitStores := [], src := 0x200, dst := 0x400, length := 64, sync := 0, stash := none, fe := false,
    srcPages := [(0, 2 ^ 31, 0)], dstPages := [(0, 2 ^ 31, 0)], todo := [], started := false, next := 0, lines := [], lost := false, poisoned := false, bad := none }
def devDesc (d : Desc) : State := { devObj false with clusters := [(0, { Cluster.idle with queue := [d] })] }

theorem meets_MoveEngine : (⟨.moveq, moveqForm, word 14 0 0 0 4 1 r0⟩ : Row).meets (devQ []) = true ∧ ((devQ []).cluster 0).forming = []
    ∧ (devDesc desc0).descReady desc0 = true ∧ goes (.moveDescriptorStart 0 0) (devDesc desc0) = true
    ∧ ((devDesc desc0).obj 0).accepts 1 desc0.sync = true ∧ handleKind desc0.sync = 0
    ∧ goes (.moveEngineCompletion 0 0 3) (devDesc { desc0 with started := true, next := 64 }) = true := by decide +kernel
theorem meets_noLostNode : ∀ l, (devDesc desc0).lostNode l = false := by intro l; simp [State.lostNode, devDesc, devObj, dev, State.reset, Hub.reset]

/-! ## Scheduling (R32 to R35, R40 to R43, R49, R51 to R62, R202) -/

/-- Five groups: four active, of which group 0 waits, and a pending one that is ready. -/
def dev5 (first : Group) (n : Nat) : State :=
  { dev grp0 with cores := [(0, { Core.idle with
      groups := (0, first) :: (((List.range n).map fun i => (i + 1, { grp0 with index := i + 1, ident := i + 1 })) ++ [(n + 1, { grp0 with active := false, index := n + 1 })])
      blocks := [(0, { blk0 with groups := n + 2 })] })] }
def grpBack : Group := { grp0 with mask := 0, waiting := .backoff, stack := [⟨.yielded, 0x2000, 3⟩] }

theorem meets_Scheduling :
    (let s := dev5 { grp0 with waiting := .signal } 3
     s.standing 0 0 = .waiting ∧ s.pendingReady 0 ≠ [] ∧ (s.core 0).activeFull = true ∧ goes (.groupDemote g0) s = true)
      ∧ grpBack.stack.find? (fun e => e.kind.isYielded) = some ⟨.yielded, 0x2000, 3⟩ ∧ goes (.waithintBackoff g0) (dev grpBack) = true
      ∧ (let s := dev5 grp0 2
         (s.core 0).activeFull = false ∧ (leastBy (fun g => g.2.readySince.getD 0) (s.pendingReady 0)).isSome = true ∧ goes (.groupPromote g0.core) s = true
           ∧ goes (.rotationCheck g0.core) s = true)
      ∧ (let s : State := { dev { grp0 with waiting := .barrier 3 } with cores := [(0, { Core.idle with
           groups := [(0, { grp0 with waiting := .barrier 3 })], blocks := [(0, { blk0 with bars := [(3, ⟨[0], 0, false, 0x4000⟩)] })] })] }
         (tget Barrier.fresh ((s.core 0).block 0).bars 3).arrived.getLast? = some 0 ∧ goes (.barrierStall g0.core 0 3) s = true)
      ∧ (let s : State := { dev { grp0 with waiting := .sync 0, stallLimit := 1 } with objs := [(0, { SyncObj.free with alloc := true, owner := 1, watch := true })] }
         (s.group g0).waiting = .sync 0 ∧ (s.obj 0).watch = true ∧ (s.group g0).stall = 0 ∧ goes (.syncWaitStall g0) s = true) := by decide +kernel

def launch0 : Launch := { Launch.none with live := true, ctx := 1, grid := 8, chset := 1, groups := 1, regs := 32, next := [(0, 0, 8)] }
def ctxA : Context := { Context.absent with state := .active, chset := 1, ceiling := 4, save := 0x1000 }
/-- Core 0 drains, with a block that waits for nothing. -/
def devDrain (live : Bool) : State :=
  { dev grp0 with
      cores := [(0, { Core.idle with groups := if live then [(0, grp0)] else [], blocks := if live then [(0, blk0)] else [], draining := true })]
      ctxs := [(1, ctxA)] }
def saved0 : SavedBlock := { core := 0, block := { blk0 with quern := false }, groups := [(0, grp0)], quern := none, faults := [none] }
def devSaved : State := { State.reset with ctxs := [(1, { ctxA with saved := [saved0] })], launches := [(1, launch0)] }

theorem meets_BlocksPlacedAndSaved :
    (devDrain true).gangCores 0 = [0] ∧ ((devDrain true).core 0).liveBlocks ≠ [] ∧ (devDrain true).mustSave 0 = true ∧ ((devDrain true).core 0).drained = true
      ∧ goes (.coreSave g0.core []) (devDrain true) = true
      ∧ ((devSaved.savedBlocks.map Prod.snd).filter fun b => devSaved.mayRestore 0 b)[0]? = some saved0 ∧ goes (.coreRestore g0.core 0) devSaved = true
      ∧ State.reset.up 0 = true ∧ State.reset.available 0 = true ∧ State.reset.drains 0 = false ∧ goes (.idleSelfTest g0.core true) State.reset = true
      ∧ goes (.idleSelfTest g0.core false) State.reset = true
      ∧ ((devDrain false).core 0).drained = true ∧ ((devDrain false).cluster 0).sparesLeft.head? = some 256 ∧ goes (.spareCoreSwap g0.core [true]) (devDrain false) = true
      ∧ goes (.spareCoreSwap g0.core []) { devDrain false with clusters := [(0, { Cluster.idle with spares := some [] })] } = true := by decide +kernel


/-- One launch of eight blocks; every core of channel 0 could take one. -/
def devPlace : State := { State.reset with ctxs := [(1, ctxA)], launches := [(1, launch0)] }

/-- The core with the most free slots exists wherever some core qualifies. -/
theorem chooseCore_isSome (s : State) (l : Launch) (ch k : Nat) (h : k < 32768) (q : s.qualifies l (32768 * ch + k) = true) :
    ∃ j, s.chooseCore l ch = some j := by
  have hf : ∀ (f : Nat → Option Nat → Option Nat), (∀ x b, (f x b).isSome = true) → ∀ (xs : List Nat) (b : Option Nat),
      (b.isSome = true ∨ xs ≠ []) → ∃ j, xs.foldl (fun b x => f x b) b = some j := by
    intro f hs xs
    induction xs with
    | nil => intro b hb; exact Option.isSome_iff_exists.mp (by simpa using hb)
    | cons x t ih => intro b _; exact ih _ (.inl (hs x b))
  refine hf (fun k best => match best with | none => some k | some b => if (s.core b).freeSlots < (s.core k).freeSlots then some k else some b) ?_ _ _ (.inr ?_)
  · intro x b
    cases b with
    | none => rfl
    | some b => dsimp only; split <;> rfl
  · exact List.ne_nil_of_mem (List.mem_filter.mpr ⟨List.mem_map.mpr ⟨k, List.mem_range.mpr h, rfl⟩, q⟩)

theorem meets_BlockPlace : devPlace.up 0 = true ∧ devPlace.chosen 1 0 = true ∧ launch0.gang = false ∧ (∃ k, devPlace.chooseCore launch0 0 = some k)
    ∧ ∀ k, devPlace.poolTurn launch0 k 0 = true := by
  have q : ∃ k, devPlace.chooseCore launch0 0 = some k := chooseCore_isSome _ _ 0 0 (by omega) (by decide +kernel)
  have p : devPlace.hasPlace 1 0 = true := by
    obtain ⟨k, hk⟩ := q
    have e : devPlace.launchOf 1 = launch0 := rfl
    simp only [State.hasPlace, e, hk]
    rfl
  have o : devPlace.offered 1 0 = true := by decide +kernel
  refine ⟨by decide +kernel, ?_, rfl, q, fun k => ?_⟩
  · simp only [State.chosen, p, o]
    simp [devPlace]
  · simp [State.poolTurn, devPlace, launch0]

/-! ## Coherence (R212 to R230) -/

/-- Messages about line 2, homed on this device's channel 0. -/
def msg (k : MsgKind) (src dst : Agent) : Msg := Msg.blank k 2 src dst
def home0 : Agent := .slice 0
def cl (k : Fin 4096) : Agent := .cluster k

/-- The slices with one entry for line 2, and messages on their way. -/
def devSl (e : SliceLine) (ms : List Msg) : State := { State.reset with lines := [(2, e)], msgs := ms }
def held0 : SliceLine := { SliceLine.absent with present := true, data := 7, cls := 1 }
def busy0 (x : SliceTxn) : SliceLine := { held0 with busy := some x }
def txn0 (a : List Agent) : SliceTxn :=
  { req := msg .readU (cl 3) home0, awaiting := a, snooped := none, answer := .waiting, wb := false, passed := false, noData := false, spoil := false, evict := false }

def requests : List (MsgKind × (Msg → Instr)) :=
  [(.readS, fun m => .readS m noErrors), (.readU, fun m => .readU m noErrors), (.own, fun m => .own m noErrors), (.rdSnap, fun m => .rdSnap m noErrors),
   (.wrMerge, fun m => .wrMerge m noErrors), (.atomic, fun m => .atomic m noErrors), (.feOp, fun m => .feOp m noErrors)]

/-- A line no slice holds, one in a transaction, one beyond the memory of channel 0, one that cluster 4 owns, one that clusters 4 and 5 share. -/
theorem meets_SliceRequestsAndSnoops : (requests.all fun r =>
    let m := msg r.1 (cl 3) home0
    let far : Msg := { m with line := 0x20000000 }
    let at_ (s : State) (m : Msg) : Bool := !s.behindC0 m && !s.setLost m.line && s.answers 0 m
    decide (lineChan 2 = 0 ∧ lineChan far.line = 0) && at_ State.reset m && at_ State.reset far && at_ (devSl (busy0 (txn0 [cl 4])) [m]) m
      && goes (r.2 m) { State.reset with msgs := [m] } && goes (r.2 m) (devSl (busy0 (txn0 [cl 4])) [m])
      && !State.reset.inMemory far.line && goes (r.2 far) { State.reset with msgs := [far] }
      && goes (r.2 m) (devSl { held0 with dstate := .owned, owner := some (cl 4) } [m])
      && goes (r.2 m) (devSl { held0 with dstate := .shared, sharers := [4, 5] } [m])) = true := by decide +kernel

theorem meets_SliceGrantsAndWriteBacks :
    held0.alone = held0 ∧ (requests.all fun r => let m := msg r.1 (cl 3) home0; goes (r.2 m) (devSl held0 [m])) = true
      ∧ (let m := msg .wb (cl 4) home0
         goes (.wb m .ok) (devSl { held0 with dstate := .owned, owner := some (cl 4) } [m]) = true ∧ m.requester = m.src ∧ goes (.wb m .ok) (devSl (busy0 (txn0 [cl 4])) [m]) = true) := by
  decide +kernel

def snoops : List (MsgKind × (Msg → Instr)) :=
  [(.snpFwd, fun m => .snpFwd m .ok), (.snpFwdU, fun m => .snpFwdU m .ok), (.snpInv, fun m => .snpInv m .ok), (.snpPeek, fun m => .snpPeek m .ok),
   (.snpRecall, fun m => .snpRecall m .ok)]
def devCl (w : WayState) (ms : List Msg) : State :=
  { State.reset with clusters := [(4, { Cluster.idle with lines := [(2, { CacheLine.absent with state := w, data := 5 })] })], msgs := ms }

/-- The command is a protocol fault. -/
def faults (c : Instr) (s : State) : Bool := match exec c s with | .fault .protocol => true | _ => false

/-- Every snoop in every state of the way: a next state, or a protocol fault where the table says Not sent. -/
theorem meets_Snoops : (snoops.all fun p => [WayState.m, .o, .e, .s, .i, .wb].all fun w =>
      let m := msg p.1 home0 (cl 4)
      goes (p.2 m) (devCl w [m]) || faults (p.2 m) (devCl w [m])) = true
    ∧ (let m := msg .snpInv home0 (cl 4)
       let s : State := { State.reset with msgs := [m], clusters := [(4, { Cluster.idle with txns := [⟨2, .readS, false, some (0, 0), .none, false, none, [], 1, 0, none⟩] })] }
       s.awaitsFill 4 2 = true ∧ goes (.snpInv m .ok) s = true) := by decide +kernel

/-- A load entry of core 0 that has been sent. -/
def load0 (k : LoadKind) : LoadEntry :=
  { id := 0, stamp := 0, slot := 0, live := true, ended := 0, launch := 1, tagged := false, flush := false, cls := 3, ctx := 1, line := 2, kind := k,
    lanes := [⟨0, 4, 0x100, 0x100, 4, 0, 4⟩], dst := 4, pc := 0x1000, sent := true, missed := false, ready := false, data := 0, poison := 0, results := [],
    flushed := false, lost := false }
def devLd (e : LoadEntry) (t : List CacheTxn) (ms : List Msg) : State :=
  { dev grp0 with
      cores := [(0, { Core.idle with groups := [(0, grp0)], blocks := [(0, blk0)], loads := [e] })]
      clusters := [(0, { Cluster.idle with txns := t })], msgs := ms }
def txnS (d : Option (Line × BitVec 2)) : CacheTxn := ⟨2, .readS, false, d, .none, false, none, [], 1, 0, none⟩

theorem meets_AnswersAtCoresAndClusters :
    ([(MsgKind.data, fun m => Instr.data m .ok), (.result, .result), (.lost, .lost)].all fun p =>
      let m := msg p.1 home0 (.core 0); goes (p.2 m) (devLd (load0 (.ld false 2)) [] [m])) = true
      ∧ (let m := msg .ack home0 (.core 0); goes (.ack m) { storeB grp0 { entry0 with issued := true, kind := .st 2 } with msgs := [m] } = true)
      ∧ (let m := msg .feWake home0 (.core 0); goes (.feWake m) { dev grp0 with msgs := [m] } = true)
      ∧ (let m := { msg .data home0 (cl 0) with grant := .shared }; let s := devLd (load0 (.ld false 0)) [txnS none] [m]
         (s.cluster 0).txn 2 = some (txnS none) ∧ (s.cluster 0).freeWay (clusterSet 2) ≠ none ∧ goes (.data m .ok) s = true)
      ∧ (let m := { msg .grant home0 (cl 0) with grant := .exclusive }; goes (.grant m .ok) (devLd (load0 (.ld false 0)) [txnS (some (9, 0))] [m]) = true)
      ∧ (let m := { msg .grant home0 (cl 0) with grant := .modified }
         goes (.grant m .ok) { devLd (load0 (.ld false 0)) [] [m] with clusters := [(0, { Cluster.idle with
           lines := [(2, { CacheLine.absent with state := .o, data := 5 })], txns := [txnS none] })] } = true)
      ∧ (let m := msg .wbAck home0 (cl 4); goes (.wbAck m) (devCl .wb [m]) = true)
      ∧ (let m := msg .lost home0 (cl 0); goes (.lost m) (devLd (load0 (.ld false 0)) [txnS none] [m]) = true) := by decide +kernel

theorem meets_AnswersAtSlices :
    ([(MsgKind.ack, Instr.ack), (.none, .none), (.poisoned, .poisoned), (.inFlight, .inFlight)].all fun p =>
      let m := msg p.1 (cl 4) home0; goes (p.2 m) (devSl (busy0 (txn0 [cl 4, cl 5])) [m])) = true
      ∧ (let m := msg .ack (cl 4) home0; goes (.ack m) (devSl (busy0 (txn0 [cl 4])) [m])) = true := by decide +kernel

/-- An acknowledged store, a load that came, a parked entry that may retry, and the cluster's own M copy of a store's line. -/
theorem meets_EntriesEnd :
    (let s : State := { storeB grp0 entry0 with clusters := [(0, { Cluster.idle with lines := [(2, { CacheLine.absent with state := .m })] })] }
     (s.core 0).mayIssueStore entry0 = true ∧ (s.copyOf 0 2).state.writable = true ∧ goes (.storeBufferIssue g0.core .ok) s = true)
      ∧ goes (.storeAck g0.core 0) (storeB grp0 { entry0 with issued := true, acked := true }) = true
      ∧ goes (.loadReturn g0.core 0) (devLd { load0 (.ld false 0) with ready := true, data := 0x11223344 } [] []) = true
      ∧ goes (.unregisteredRetry g0) (dev { grp0 with mask := 0, waiting := .parked, stack := [⟨.parked [⟨2, 0, 0⟩] false false, 0x1000, 3⟩] }) = true := by decide +kernel

/-! ## Memory, translation, Leat (R237 to R300) -/

/-- The device at rest with channel 0 changed. -/
def devCh (f : Channel → Channel) : State := { State.reset with chans := [(0, f Channel.ready)] }
def ask0 : Ask := { req := msg .readS (cl 3) home0, data := none, fe := 0, grant := .none, dataDue := false, refetch := false }
/-- An error in symbol 7, and errors in symbols 0, 1 and 2, which the code does not correct (R238). -/
def oneSym : SymErrors := 0x5A <<< 56
def threeSyms : SymErrors := 0x030201
def devAsk : State := { devSl { SliceLine.absent with ask := some ask0 } [] with mem := [(0x100, 0x5A)] }

theorem meets_MemoryAndEvacuation :
    devAsk.isLocal 2 = true ∧ devAsk.inMemory 2 = true ∧ devAsk.sliceWay 2 ≠ none
      ∧ ([(0 : SymErrors), oneSym, threeSyms].all fun e => goes (.memoryReadComplete 2 e 0) devAsk) = true
      ∧ (let at_ (e : SymErrors) := (devAsk.upset 0 [(placeHalf (devAsk.place 2) 0, e), (placeHalf (devAsk.place 2) 1, 0)]).findAt (devAsk.place 2) 0
         at_ 0 = .clean ∧ (match at_ oneSym with | .corrected d _ pins => decide (d = 0x5A) && decide (pins = [7]) | _ => false) = true
           ∧ (match at_ threeSyms with | .lost _ => true | _ => false) = true)
      ∧ goes (.memoryWriteAck 2) (devSl { held0 with writing := true } []) = true
      ∧ goes (.memoryWriteAck 0x20000000) { State.reset with lines := [(0x20000000, { held0 with writing := true })] } = true
      ∧ State.reset.scrubs 0 = true ∧ goes (.targetedScrub 0) (devCh fun c => { c with targeted := [(2, 0)] }) = true
      ∧ goes (.patrolScrub 0 []) (devCh fun c => { c with scrubPos := 2 ^ 29 - 1 }) = true ∧ goes (.patrolScrub 0 [(0, threeSyms)]) State.reset = true
      ∧ goes (.evacuationBatch 0 []) (devCh fun c => { c with evacState := 2, evacTotal := 1 }) = true
      ∧ goes (.evacuationCommit 0) (devCh fun c => { c with evacState := 2, evacPc := 63, evacTotal := 1, evacDone := 1 }) = true
      ∧ goes (.mapStoreCommit 0) (devCh fun c => { c with evacState := 3, evacPc := 63, mapOrder := [63] }) = true := by decide +kernel

/-- A walk for the page 0 of context 1; the page table's first entry, at 0x1000, is valid and writable. -/
def devWalk (segs : Table Segment) (m : List Host.Cell) (fl : Bool) : State :=
  { dev { grp0 with waiting := .walk } with
      mem := m, ctxs := [(1, { ctxA with segs := segs })], clusters := []
      chans := [(0, { Channel.ready with walks := [⟨⟨1, 0, false⟩, 0, fl, [⟨0, 0, ⟨0x100, true, false, false, false⟩⟩]⟩] })] }

def rec0 : FaultRec := ⟨1, 0, 1, false, ⟨0x100, true, false, false, false⟩, 0, 1, 0⟩
def area0 : Area FaultRec := { (Area.off : Area FaultRec) with enabled := true, held := [rec0] }

theorem meets_Walks :
    (let s := devWalk [] [] false; (s.chan 0).waitingWalks ≠ [] ∧ goes (.tlbWalkStart 0) s = true)
      ∧ (let s := devWalk [(0, ⟨true, false, 1, 0, 0x1000⟩)] [(0x1000, 3)] true
         (s.ctx 1).segmentOf 0 = some ⟨true, false, 1, 0, 0x1000⟩ ∧ (s.walk 1 0).1 = (3, none) ∧ accessCause 3 ⟨0x100, true, false, false, false⟩ = none
           ∧ goes (.walkComplete 0 ⟨1, 0, false⟩) s = true)
      ∧ goes (.walkComplete 0 ⟨1, 0, false⟩) (devWalk [] [] true) = true
      ∧ area0.open true = true ∧ goes (.faultRecordPost 0) { State.reset with fns := [(0, { Func.reset with busMaster := true, fault := area0 })] } = true := by
  decide +kernel

/-- Port 0 of channel 0 in a state, with other fields. -/
def devPort (x : Port) : State := devCh fun c => { c with ports := [(0, x)] }
def port0 (p : PortState) : Port := { Port.down with state := p }
def wide (p : PortState) : Port := { port0 p with width := 4 }
def smsg (t : BitVec 16) : StreamMsg := ⟨9, 0, 0, 0, t, 0, 1, true, .coherence (msg .readS (.node 9) home0), false, none, none, false⟩
def flit0 (q : BitVec 12) (k : FlitKind) (ms : List StreamMsg) : Flit := ⟨q, 0xFFF, false, k, [(1, 3)], ms.map fun m => ⟨m, 0, m.slots⟩⟩
/-- The block in which a flit comes on four lanes. -/
def blockOf (f : Flit) : RxBlock := ⟨fecBlock 4 (flitBytes f), f⟩
def empty0 : Flit := flit0 0 .data []
def idle0 : Flit := flit0 0 .idle []
def read0 : Flit := flit0 0 .data [smsg 511]
def devRx (a : List (BitVec 16)) : State :=
  { State.reset with chans := [(0, { Channel.ready with ports := [(0, wide .coherent)], rxStreams := [(288, { RxStream.fresh with known := true, inc := some 1, accepted := a })] })] }

/-- Four wrong symbols of a word with eight check symbols are corrected, five are not (R276). -/
theorem test_rs :
    let w := rsEncode 8 [1, 2, 3, 4, 5, 6, 7, 8, 9, 10, 11, 12]
    let wrong (n : Nat) : List Nat := w.mapIdx fun i a => if i < n then a ^^^ (i + 0xA5) else a
    rsDecode 8 (wrong 4) [] = some w ∧ rsDecode 8 (wrong 5) [] = none := by decide +kernel

/-- A port of four lanes takes the blocks of these flits; a block of zeros is a codeword, but its CRC is wrong (R276, R277). -/
theorem test_received : received 4 (blockOf empty0).bytes empty0 = .good 0 ∧ received 4 (blockOf idle0).bytes idle0 = .good 0
    ∧ received 4 (blockOf read0).bytes read0 = .good 0 ∧ received 4 (List.replicate 272 0) empty0 = .bad := by decide +kernel

/-- A block that is received good, on an external port, answers a next state. -/
theorem goes_receive {x : Port} {f : Flit} {b : RxBlock} {s : State} (h : received 4 b.bytes f = .good 0) (hb : b.flit = f) (hx : s.port 0 0 = x)
    (hl : x.live = true) (hw : x.width = 4) (ho : (decide (f.kind = .idle) || decide (f.seq ≠ x.rxAck + 1) || partsOk x.part f.parts) = true) :
    goes (.flitReceive 0 0 b) s = true := by
  have hn : s.nextFlit 0 0 b = some f := by simp [State.nextFlit, hb]
  have hr : received x.width.val b.bytes f = .good 0 := by rw [hw]; exact h
  have hi : ∃ t, execFlitReceive 0 0 b s = .next t := by
    simp only [execFlitReceive, enabled, Fin.val_zero, hx, hl, hn, hr, ho, if_true]
    exact ⟨_, rfl⟩
  obtain ⟨t, ht⟩ := hi
  simp only [goes, exec, ht]

theorem meets_Flits :
    streamKey 9 0 = 288 ∧ (wide .ident).live = true ∧ (devPort (wide .ident)).nextFlit 0 0 ⟨List.replicate 272 0, empty0⟩ = some empty0
      ∧ ((wide .coherent).rxAck + 1 = empty0.seq ∧ goes (.flitReceive 0 0 (blockOf empty0)) (devPort (wide .coherent)) = true)
      ∧ goes (.flitReceive 0 0 (blockOf empty0)) (devPort { wide .quarantine with rxAck := 0 }) = true
      ∧ goes (.flitReceive 0 0 (blockOf empty0)) (devPort { wide .coherent with rxAck := 0xFFE }) = true
      ∧ goes (.flitReceive 0 0 (blockOf idle0)) (devPort (wide .coherent)) = true
      ∧ (RxStream.fresh.inWindow 511 = true ∧ (smsg 511).slots = 1 ∧ goes (.flitReceive 0 0 (blockOf read0)) (devRx []) = true)
      ∧ goes (.flitReceive 0 0 (blockOf read0)) (devRx [511]) = true
      ∧ goes (.nakRepeat 0 0) (devPort { wide .coherent with gap := true }) = true ∧ goes (.keepalive 0 0) (devPort (wide .coherent)) = true
      ∧ goes (.diag 0 0) (devPort (wide .coherent)) = true := by
  obtain ⟨h0, h1, h2, -⟩ := test_received
  refine ⟨by decide, by decide, by decide, ⟨by decide, ?_⟩, ?_, ?_, ?_, ⟨by decide, by decide, ?_⟩, ?_, by decide +kernel, by decide +kernel, by decide +kernel⟩
  · exact goes_receive h0 rfl (x := wide .coherent) rfl rfl rfl (by decide +kernel)
  · exact goes_receive h0 rfl (x := { wide .quarantine with rxAck := 0 }) rfl rfl rfl (by decide +kernel)
  · exact goes_receive h0 rfl (x := { wide .coherent with rxAck := 0xFFE }) rfl rfl rfl (by decide +kernel)
  · exact goes_receive h1 rfl (x := wide .coherent) rfl rfl rfl (by decide +kernel)
  · exact goes_receive h2 rfl (x := wide .coherent) rfl rfl rfl (by decide +kernel)
  · exact goes_receive h2 rfl (x := wide .coherent) rfl rfl rfl (by decide +kernel)

/-- An IDENT that agrees on an external port once node 9 is in the table, and one that differs in its protocol. -/
def ident0 (major : Byte) : IdentRec := ⟨9, 0, 0, 5, 0, major, 0, (devPort (port0 .ident)).hub.digest, 0, 1⟩
theorem meets_Identified : ((devPort (port0 .ident)).port 0 0).live = true ∧ (ident0 2).digest = (devPort (port0 .ident)).hub.digest
    ∧ (ident0 2).epoch = (devPort (port0 .ident)).hub.dict.epoch ∧ (ident0 1).protoMajor ≠ 2 := ⟨rfl, rfl, rfl, by decide⟩

theorem meets_PortStates :
    ([1, 2, 4].all fun n => goes (.trainingComplete 0 0 n) (devPort (port0 .training))) = true ∧ goes (.trainingTimeout 0 0) (devPort (port0 .training)) = true
      ∧ Channel.ready.refOk = true ∧ Channel.ready.portEn.getLsbD 0 = true ∧ goes (.trainingRetry 0 0) (devPort (port0 .down)) = true
      ∧ ([PortState.coherent, .quarantine, .retrain].all fun p => goes (.freshStartPattern 0 0) (devPort (port0 p)) && goes (.linkDeadTimeout 0 0) (devPort (port0 p))) = true
      ∧ (port0 .quarantine).established = true ∧ goes (.autoRetrainTrigger 0 0) (devPort (port0 .quarantine)) = true
      ∧ goes (.portRetrainRequest 0 0) (devPort (port0 .coherent)) = true ∧ goes (.portRetrainRequest 0 0) (devPort (port0 .ident)) = true
      ∧ goes (.retrainComplete 0 0 4 0) (devPort { port0 .retrain with beforeRetrain := .coherent }) = true
      ∧ goes (.portDisable 0 0) (devPort (port0 .coherent)) = true ∧ goes (.portEnable 0 0) (devPort (port0 .down)) = true := by decide +kernel

/-- Node 9 with one request outstanding to it; node 9 unreachable; and with a path to it. -/
def devNode : State := devCh fun c => { c with txStreams := [(288, ⟨1, [⟨0, msg .readS (cl 3) (.slice 0), []⟩], []⟩)] }
def devGone : State := { State.reset with hub := { Hub.reset with unreachable := [9] } }
def devPath : State := { devPort (port0 .coherent) with hub := { Hub.reset with unreachable := [9], dict := { Dict.defaults with routes := [(9, 0x80)] } } }

theorem meets_Nodes :
    devNode.awaitsNode 9 = true ∧ goes (.requestSilenceTimeout 9) devNode = true ∧ devNode.hasPath 9 = false ∧ goes (.noPathTimeout 9) devNode = true
      ∧ goes (.nodeLost 511 0 0) State.reset = true ∧ goes (.nodeRejoin 9) devGone = true ∧ goes (.nodeRejoin 9) State.reset = true
      ∧ devPath.hasPath 9 = true ∧ goes (.nodeLostTimer 9) devPath = true
      ∧ goes (.channelReset 9 0 0) devNode = true ∧ goes (.streamRestart 9 31 0 0xFFFF) State.reset = true := by decide +kernel

/-! ## Pace, the Governor, resets (R17 to R26, R298, R343 to R353, R385 to R403, R443 to R450) -/

/-- The device at rest with the hub changed. -/
def devHub (f : Hub → Hub) : State := { State.reset with hub := f Hub.reset }
def masked (h : Hub) : Hub := { h with inForce := { Dict.defaults with peerMask := 512 } }

theorem meets_Pace :
    goes (.paceReport 9 0x800 5) State.reset = true ∧ goes (.paceReport 9 0x800 5) (devHub fun h => { h with peers := [(9, ⟨true, true, 0x900, 5⟩)] }) = true
      ∧ goes (.pacePeerStale 9) (devHub fun h => { masked h with peers := [(9, ⟨true, true, 0x900, 5⟩)] }) = true
      ∧ goes .paceReportTimer (devHub masked) = true ∧ State.reset.upChans ≠ []
      ∧ goes .inputUndervoltage State.reset = true ∧ goes .undervoltageEnd (devHub fun h => { h with undervolt := true }) = true
      ∧ ([(0, 0), (6500000, 60000), (7000000, 60000), (6400000, 60000)].all fun p => goes (.powerInterval p.1 p.2) State.reset) = true
      ∧ goes (.powerInterval 0 0) (devHub fun h => { h with dict := { Dict.defaults with paceTarget := 0 } }) = true
      ∧ goes (.energyInterval 1999 [(31, none, 7)]) State.reset = true := by decide +kernel

theorem meets_Governor :
    goes (.pacemonWindow 0 0 0xFFFF) State.reset = true
      ∧ ([(0x0000 : BitVec 16), 0x0800, 0xFFFF].all fun low => goes (.governorEpoch 0 low 800 700) State.reset
          && goes (.governorEpoch 31 low 0 0) { devHub (fun h => { h with coolant := true }) with chans := [(31, { Channel.ready with railMilliVolts := 750 })] }
          && goes (.governorEpoch 0 low 0 0) (devCh fun c => { c with handoff := true, curve := [0xFFFF] })
          && goes (.governorEpoch 0 low 0 0) (devCh fun c => { c with curve := [0xFFFF] })) = true
      ∧ goes (.curveRefitTimer 0) (devCh fun c => { c with points := [(400, 0, 0x800)] }) = true
      ∧ goes (.thermalTrip 0 880 0) State.reset = true ∧ goes (.thermalTrip 0 0 800) State.reset = true
      ∧ goes (.tripRecovery 0 800 720) (devCh fun c => { c with tripped := true }) = true
      ∧ goes .coolantFail State.reset = true ∧ goes .coolantFailDeassert (devHub fun h => { h with pin := true, coolant := true }) = true
      ∧ goes .coolantFailDeassert (devHub fun h => { h with pin := true }) = true := by decide +kernel

def devBring (m : Bool) : State := devCh fun c => { c with state := 1, memInit := m }
def bring (t i p : Bool) : Sys2Proof.BringUp := ⟨t, [], [], [], i, p, [1800, 2400, 3000, 3600, 4200, 4700, 5200, 5700], 0⟩

theorem meets_ResetsAndBringUp :
    goes (.supplyFault 0) State.reset = true ∧ goes (.leatReferenceLoss 0) State.reset = true ∧ goes (.controllerWatchdog 0) State.reset = true
      ∧ goes (.channelIsolationTimeout 0) State.reset = true ∧ goes (.leatReferenceQualified 0) (devCh fun c => { c with refOk := false }) = true
      ∧ (let s (n : Nat) := devCh fun c => { c with state := 1, resetCause := some 0, isolations := n }
         goes (.channelResetSequence 0 [] [] []) (s 2) = true ∧ goes (.channelResetSequence 0 [] [] []) (s 3) = true)
      ∧ goes .hubReset State.reset = true ∧ goes .hubWatchdog State.reset = true
      ∧ goes .perstNRise (devHub fun h => { h with perstN := false, inReset := true }) = true
      ∧ goes .perstNRise (devHub fun h => { h with perstN := false, inReset := true, refLost := true }) = true
      ∧ goes .hubReferenceLoss State.reset = true ∧ goes .hubReferenceStable (devHub fun h => { h with refLost := true }) = true
      ∧ goes .inputOutOfRange State.reset = true ∧ goes .devicePowerOn (devHub fun h => { h with powered := false }) = true
      ∧ goes (.hubReady false) State.reset = true ∧ goes (.hubReady true) (devBring false) = true
      ∧ goes (.channelBringUp 0 (bring false true true)) (devBring true) = true ∧ goes (.channelBringUp 0 (bring true false true)) (devBring true) = true
      ∧ goes (.channelBringUp 0 (bring true true true)) { devBring true with mem := [(0, 1)] } = true := by decide +kernel

/-! ## Host commands (R304 to R340) -/

/-- A record with fields at byte offsets, and a command of it at the head of its stream. -/
def rcd (l : List (Nat × Nat)) : BitVec 512 := BitVec.ofNat 512 (l.foldl (fun a p => a + p.2 * 2 ^ (8 * p.1)) 0)
def cmd (op : Byte) (st : CmdStage) (l : List (Nat × Nat)) : Cmd :=
  { seq := 1, tag := 1, order := false, eff := 3, opcode := op, record := rcd l, stage := st, stamp := 0, status := 0, result := 0, demoted := false, joined := false,
    launchId := none, range := none, lines := [], pages := [], snapshot := [] }
def str (x : Cmd) : Stream := ⟨false, 1, [1], [], [x]⟩
/-- Commands of context 1 and of the function stream set of function 0. -/
def cc : CmdRef := ⟨0, some 1, 0, 1⟩
def cf : CmdRef := ⟨0, none, 0, 1⟩

/-- Context 1 of function 0 with the first 32 MiB mapped one to one through the table at 0x1000, a channel set, and its command. -/
def ctxT (x : Cmd) : Context := { ctxA with segs := [(0, ⟨true, false, 1, 0, 0x1000⟩)], streams := [(0, str x)] }
def onCtx (x : Cmd) (f : State → State) : State :=
  f { State.reset with ctxs := [(1, ctxT x)], mem := [(0x1000, 3)], fns := [(0, { Func.reset with busMaster := true })], tickets := 1 }
def onFn (x : Cmd) (f : State → State) : State :=
  f { State.reset with ctxs := [(1, ctxA)], fns := [(0, { Func.reset with busMaster := true, streams := [(0, str x)] })], tickets := 1 }
/-- The same without segments. -/
def bare (s : State) : State := { s with ctxs := s.ctxs.map fun c => (c.1, { c.2 with segs := [] }) }

/-- The premise of a host command, and that it completes. -/
def starts (c : CmdRef) (x : Cmd) (s : State) : Bool :=
  decide (s.cmdOf c (fun y => decide (y.opcode = x.opcode) && decide (y.stage = .accepted)) = some x) && s.mayStart c x
theorem mayStart_of_starts {c : CmdRef} {x : Cmd} {s : State} (h : starts c x s = true) : MayStart c x.opcode x s := by
  simpa [starts, MayStart] using h
def runs (c : CmdRef) (i : CmdRef → Instr) (op : Byte) (l : List (Nat × Nat)) (s : Cmd → State) : Bool :=
  let x := cmd op .accepted l
  starts c x (s x) && goes (i c) (s x)

theorem meets_HostTransfers :
    runs cc .nopCommand 0x00 [] (onCtx · id) = true ∧ runs cc .streamFence 0x0F [] (onCtx · id) = true
      ∧ (let l := [(12, 32), (16, 0x1FFFFF0), (32, 5)]
         runs cc .write 0x02 [(12, 32), (16, 0x100), (32, 5)] (onCtx · id) = true
           ∧ ((onCtx (cmd 0x02 .accepted []) id).pinRange 1 0x100 32 true).1 = ([(0, 2 ^ 25, 0)], none)
           ∧ runs cc .write 0x02 l (onCtx · id) = true ∧ ((onCtx (cmd 0x02 .accepted l) id).pinRange 1 0x1FFFFF0 32 true).1.2.isSome = true)
      ∧ runs cc (.copy · [1, 2]) 0x03 [(24, 0x100), (32, 2)] (onCtx · id) = true ∧ runs cc (.copy · [1, 2]) 0x03 [(24, 0x100), (32, 2)] (onCtx · bare) = true
      ∧ (let l := [(12, 1), (16, 0x9000), (24, 0x100), (32, 2)]; let s := onCtx (cmd 0x03 .accepted l) id
         runs cc (.copy · []) 0x03 l (onCtx · id) = true
           ∧ ((s.pinRange 1 0x100 2 false).2.readRange [(0, 2 ^ 25, 0)] 0x100 2).1 = ([0, 0], none, none)) := by decide +kernel
theorem meets_RangeAtRest : RangeAtRest (onCtx (cmd 0x02 .accepted []) id) [(0, 2 ^ 25, 0)] 0x100 2 := by
  intro i hi
  refine ⟨0x100 + i, ?_⟩
  have : i = 0 ∨ i = 1 := by omega
  rcases this with rfl | rfl <;> decide +kernel

/-- Segment number 1 is free: the 2 MiB from 4 GiB are added; one that overlaps segment 0 is bad; number 0 is replaced, and made invalid. -/
def segA : List (Nat × Nat) := [(12, 1), (16, 2 ^ 63 + 2 ^ 26 + 2), (24, 0x2000)]
theorem meets_TranslationCommands :
    runs cc .segment 0x04 segA (onCtx · id) = true ∧ (descSegment (rcd segA)).valid = true
      ∧ State.segmentBad State.reset (ctxT (cmd 0x04 .accepted segA)) 0 1 (rcd segA) = none
      ∧ (let l := [(12, 1), (16, 2 ^ 63 + 2 ^ 26), (24, 0x2000)]
         runs cc .segment 0x04 l (onCtx · id) = true ∧ State.segmentBad State.reset (ctxT (cmd 0x04 .accepted l)) 0 1 (rcd l) = some stInvalidArgument)
      ∧ runs cc .segment 0x04 [(12, 0), (16, 2 ^ 63 + 2 ^ 26 + 2), (24, 0x2000)] (onCtx · id) = true ∧ runs cc .segment 0x04 [(12, 0)] (onCtx · id) = true
      ∧ runs cc .invalidate 0x05 [] (onCtx · id) = true ∧ runs cc .invalidate 0x05 [(16, 0x100), (24, 0x100)] (onCtx · id) = true
      ∧ runs cc .resolve 0x06 [(16, 0x100)] (onCtx · id) = true := by decide +kernel

def own0 (s : State) : State := { s with objs := [(0, { SyncObj.free with alloc := true, owner := 1 })] }
theorem meets_ObjectCommands :
    starts cc (cmd 0x07 .accepted [(13, 0xFF)]) (onCtx (cmd 0x07 .accepted [(13, 0xFF)]) id) = true
      ∧ (ctxT (cmd 0x07 .accepted [])).chset.getLsbD 0 = true ∧ (State.reset.obj 0).alloc = false
      ∧ runs cc .syncAlloc 0x07 [(13, 0xFF)] (onCtx · fun s => { s with ctxs := s.ctxs.map fun c => (c.1, { c.2 with chset := 0 }) }) = true
      ∧ runs cc .syncAlloc 0x07 [(13, 31)] (onCtx · id) = true
      ∧ runs cc .syncFree 0x08 [] (onCtx · own0) = true ∧ runs cc .syncFree 0x08 [] (onCtx · id) = true
      ∧ (own0 State.reset).objStatus 1 0 true = none ∧ State.reset.objStatus 1 0 true = some stInvalidArgument
      ∧ ([(0, Instr.syncOpSet), (1, .syncOpClear), (2, .syncOpTest), (3, .syncOpAdd), (4, .syncOpSetPayload)].all fun p =>
          runs cc p.2 0x09 [(16, p.1)] (onCtx · own0) && runs cc p.2 0x09 [(16, p.1)] (onCtx · id)) = true := by decide +kernel

/-- Group 0 of core 0, whose thread identifiers start at 0, is stopped. -/
def stopped (s : State) : State :=
  { s with cores := [(0, { Core.idle with groups := [(0, { grp0 with waiting := .stopped ⟨0x0A, 0x1000, 3, 0⟩ })], blocks := [(0, blk0)] })], launches := [(1, launch0)] }
/-- Another command of the context is outstanding in stream 1. -/
def nowPlane (s : State) : State :=
  { s with ctxs := s.ctxs.map fun c => (c.1, { c.2 with streams := c.2.streams ++ [(1, str { cmd 0x00 .accepted [] with stamp := 1 })] }) }

theorem meets_SettingsAndExceptions :
    runs cc .monitorArea 0x0A [(16, 0x4000), (24, 4)] (onCtx · id) = true ∧ runs cc .monitorArea 0x0A [(16, 0x4000), (24, 4)] (onCtx · bare) = true
      ∧ runs cc .ctxMode 0x0B [(12, 0x83)] (onCtx · id) = true ∧ runs cc .ctxMode 0x0B [(12, 4)] (onCtx · nowPlane) = true
      ∧ (onCtx (cmd 0x0B .accepted []) nowPlane).busyWith 1 (some 0) = true
      ∧ runs cf .cqSet 0x0C [(13, 31), (14, 10), (16, 0x8000), (24, 1)] (onFn · id) = true ∧ runs cf .cqSet 0x0C [(13, 0), (14, 10), (16, 0x8000), (24, 2)] (onFn · id) = true
      ∧ State.namesContext (onFn (cmd 0x0C .accepted []) id) 0 1 = none ∧ State.namesContext (onFn (cmd 0x0C .accepted []) id) 0 2 ≠ none
      ∧ ([(0, Instr.excActionResume), (1, .excActionEnd), (2, .excActionAbort)].all fun p =>
          runs cc p.2 0x0D [(12, p.1)] (onCtx · stopped) && runs cc p.2 0x0D [(12, p.1)] (onCtx · id)) = true
      ∧ ((onCtx (cmd 0x0D .accepted []) stopped).findStopped 1 0).isSome = true ∧ ((stopped State.reset).core 0).draining110 0 = false := by decide +kernel

/-- Launch records at 0x100: zeros, which fail, and one of a grid of 8 blocks of one group with 32 registers on channel 0. -/
def lrecMem (s : State) : State := { s with mem := [(0x110, 8), (0x114, 1), (0x118, 0x10)] ++ (List.range 6).map (fun i => (0x11C + i, 0xFF)) ++ s.mem }
theorem meets_Launches :
    let x := cmd 0x01 .accepted [(16, 0x100)]
    let read (s : State) := (s.pinRange 1 0x100 128 false).2.readRange [(0, 2 ^ 25, 0)] 0x100 128
    runs cc .launch 0x01 [(16, 0x100)] (onCtx · id) = true ∧ runs cc .launch 0x01 [(16, 0x100)] (onCtx · lrecMem) = true
      ∧ ((onCtx x id).pinRange 1 0x100 128 false).1 = ([(0, 2 ^ 25, 0)], none) ∧ (read (onCtx x lrecMem)).1.2 = (none, none)
      ∧ lrecOk (ctxT x) (read (onCtx x lrecMem)).1.1 = true ∧ lrecOk (ctxT x) (read (onCtx x id)).1.1 = false
      ∧ shares 8 [0, 31] = [(0, 0, 4), (31, 4, 8)] ∧ shares 7 [0, 31] = [(0, 0, 4), (31, 4, 7)] := by decide +kernel

/-- A record of the function stream set, or of context 1: sequence number, tag and opcode, with F in bit 63 of its first 8 bytes. -/
def ready (s : State) : State := { s with hub := { s.hub with ready := true } }
/-- The streams' areas are open: of function 0, and of context 1. -/
def areaOn {α : Type} : Area α := { (Area.off : Area α) with base := 0x10000, enabled := true }
def opened (en : Bool) (s : State) : State :=
  { ready s with fns := s.fns.map fun f => (f.1, { f.2 with storeEn := true, busMaster := en, cq := areaOn }), ctxs := s.ctxs.map fun c => (c.1, { c.2 with cq := areaOn }) }
/-- Context 1's record with a sequence number, a tag and an opcode; the function stream set's with bit 79. -/
def sub (seq tag op : Nat) : BitVec 512 := rcd [(0, seq), (4, tag), (6, op), (8, 1), (24, if op = 0x0E then 448 else 0)]
def subF (seq tag op : Nat) : BitVec 512 := sub seq tag op ||| BitVec.ofNat 512 (2 ^ 79)
def submits (o : BitVec 20) (n : Nat) (e : Bool) (r : BitVec 512) (s : State) : Bool := goes (.commandSubmit 0 o n e r) s

theorem meets_HostPort :
    let s := onCtx (cmd 0x00 .accepted []) (opened true)
    let x := s.stream 0 (some 1) 0
    let t := onFn (cmd 0x00 .accepted []) (opened false)
    -- not formed; queued at the function; at its limit
    (submits 0 63 true (sub 2 2 0) s && submits 32 64 true (sub 2 2 0) s && submits 0x10000 64 true (sub 2 2 0) s && submits 0 64 false (sub 2 2 0) s) = true
      ∧ recFn (subF 2 2 0) = true ∧ submits 0 64 true (subF 2 2 0) t = true
      ∧ submits 0 64 true (subF 2 2 0) { t with fns := t.fns.map fun f => (f.1, { f.2 with queued := List.replicate 64 (0, 0) }) } = true
      -- no context; running, stale, completed and new numbers; a tag in use
      ∧ submits 0 64 true (sub 2 2 0) (ready State.reset) = true
      ∧ x.check 1 = .running ∧ submits 0 64 true (sub 1 1 0) s = true
      ∧ { x with h := 600 }.check 1 = .stale
      ∧ submits 0 64 true (sub 1 2 0) { s with ctxs := [(1, { s.ctx 1 with streams := [(0, { x with h := 600 })] })] } = true
      ∧ (let y := { x with cmds := [], completed := [(1, ⟨false, 1, 1, 0, false, 0, 0, 0⟩)] }
         submits 0 64 true (sub 1 2 0) { s with ctxs := [(1, { s.ctx 1 with streams := [(0, y)] })] } = true)
      ∧ x.check 2 = .fresh 2 ∧ s.tagFree 0 (some 1) (sub 2 1 0) = false ∧ submits 0 64 true (sub 2 1 0) s = true
      ∧ s.tagFree 0 (some 1) (sub 2 2 0) = true ∧ s.rejects 0 (some 1) (sub 2 2 0) = none ∧ submits 0 64 true (sub 2 2 0) s = true
      ∧ s.rejects 0 (some 1) (sub 2 2 0x3F) = some stUnknownOpcode ∧ submits 0 64 true (sub 2 2 0x3F) s = true
      -- SUMMARY of a context and of a function
      ∧ recOp (sub 2 2 0x0E) = 0x0E ∧ s.rejects 0 (some 1) (sub 2 2 0x0E) = none ∧ submits 0 64 true (sub 2 2 0x0E) s = true
      ∧ goes (.commandCompletionPost cc) (onCtx (cmd 0x00 .done []) (opened true)) = true
      ∧ goes (.summary cf) (onFn { cmd 0x0E .started [(12, 1)] with snapshot := [1, 2] } (opened true)) = true
      ∧ goes (.summary cf) (onFn { cmd 0x0E .started [(16, 0x7000)] with snapshot := [1, 2] } (opened true)) = true := by decide +kernel

/-- A vector with a message posted, one masked and pending. -/
def devVec (v : Vec) : State := { State.reset with fns := [(3, { Func.reset with vecs := [(31, v)] })] }
theorem meets_HostAreas :
    goes (.msixTimer 3 31) (devVec { Vec.reset with posted := 1, time := 5 }) = true ∧ goes (.msixUnmask 3 31) (devVec { Vec.reset with masked := true, pending := true }) = true
      ∧ ([AreaRef.fnCq, .fault, .event, .ctxCq 1].all fun a => goes (.areaHeadWrite 0 a 0) (onCtx (cmd 0 .accepted []) (opened true))
          && goes (.areaHeadWrite 0 a 1) (onCtx (cmd 0 .accepted []) (opened true)) && goes (.areaHeadWrite 256 a 0) State.reset) = true
      ∧ ([AreaRef.fnCq, .fault, .event].all fun a => goes (.areaEnable 256 a 0x11F0A) State.reset) = true
      ∧ goes (.fnStoreEnable 256 0xFFFF001) State.reset = true ∧ goes (.fnStoreEnable 0 0) (onFn (cmd 0 .accepted []) (opened true)) = true
      ∧ goes (.busMasterEnable 0) (onFn (cmd 0 .accepted []) (opened false)) = true ∧ goes .pcieLinkDown State.reset = true
      ∧ goes .tokenRefill (onCtx (cmd 0 .accepted []) (opened true)) = true := by decide +kernel

/-! ## Contexts and resets by command (R330 to R353) -/

/-- CTX_CREATE on channels with a segment of 64 MiB from 0 whose table is at an address, a save area in it and a ceiling of 1. -/
def create (chset table : Nat) : List (Nat × Nat) := [(12, chset), (16, 2 ^ 63 + 2 * 2 ^ 26), (24, table), (32, 0x100000), (40, 1)]
def mapped (s : State) : State := { s with mem := [(0x1000, 3), (0x1008, 3), (0x100B, 2)] }
def asFn3 (l : List (Nat × Nat)) (f : Func → Func) : State :=
  { State.reset with fns := [(3, f { Func.reset with streams := [(0, str (cmd 0x10 .accepted l))] })] }
def c3 : CmdRef := ⟨3, none, 0, 1⟩

theorem meets_CtxCreate :
    -- refused: a retired channel, a table that is misplaced, a save area outside; BUSY; not permitted; no room; no translation; created
    runs cf .ctxCreate 0x10 (create 1 0x1000) (onFn · fun s => { s with chans := [(0, { Channel.ready with state := 4 })] }) = true
      ∧ State.segmentBad State.reset (contextFrom 0 (rcd (create 1 0x1040))) 0 0 (rcd (create 1 0x1040)) = some stInvalidArgument
      ∧ runs cf .ctxCreate 0x10 (create 1 0x1040) (onFn · mapped) = true
      ∧ (contextFrom 0 (rcd [(12, 1), (16, 2 ^ 63 + 2 ^ 26), (24, 0x1000), (32, 0x1FFF000), (40, 1)])).saveInside = false
      ∧ runs cf .ctxCreate 0x10 (create 1 0x1000) (onFn · fun s => { s with fns := s.fns.map fun f => (f.1, { f.2 with cleaning := true }) }) = true
      ∧ State.segmentBad (asFn3 (create 1 0x1000) id) (contextFrom 3 (rcd (create 1 0x1000))) 3 0 (rcd (create 1 0x1000)) = some stNotPermitted
      ∧ goes (.ctxCreate c3) (asFn3 (create 1 0x1000) id) = true
      ∧ goes (.ctxCreate c3) (asFn3 (create 1 0x1000) fun f => { f with grants := [(0, some (0, 2 ^ 30))], maxCtx := 0 }) = true
      ∧ runs cf .ctxCreate 0x10 (create 1 0x1000) (onFn · id) = true
      ∧ runs cf .ctxCreate 0x10 (create 1 0x1000) (onFn · mapped) = true ∧ (onFn (cmd 0x10 .accepted []) mapped).freeCtx = some 0
      ∧ State.segmentBad State.reset (contextFrom 0 (rcd (create 1 0x1000))) 0 0 (rcd (create 1 0x1000)) = none
      ∧ (contextFrom 0 (rcd (create 1 0x1000))).saveInside = true
      ∧ (let s := onFn (cmd 0x10 .accepted []) mapped; let new := contextFrom 0 (rcd (create 1 0x1000))
         ((s.setCtx 0 new).pinRange 0 new.save.toNat new.saveBytes true).1.2 = none) := by decide +kernel

theorem meets_ContextsMade :
    -- a number that names no context; a reservation outside C0; more than the channel's cores; a good one of each class
    runs cf .ctxClass 0x13 [(12, 2)] (onFn · id) = true ∧ (onFn (cmd 0x13 .accepted []) id).namesContext 0 2 ≠ none
      ∧ runs cf .ctxClass 0x13 [(12, 1), (14, 3), (15, 1), (16, 1)] (onFn · id) = true ∧ runs cf .ctxClass 0x13 [(12, 1), (14, 0), (15, 1), (16, 8193)] (onFn · id) = true
      ∧ runs cf .ctxClass 0x13 [(12, 1), (14, 0), (15, 255), (16, 8192), (20, 7), (24, 9)] (onFn · id) = true
      ∧ runs cf .ctxClass 0x13 [(12, 1), (14, 3), (15, 1)] (onFn · id) = true
      ∧ runs cf .fnQuota 0x14 [(12, 256), (14, 3), (16, 64), (18, 5)] (onFn · id) = true
      ∧ runs cf .fnGrant 0x15 [(12, 256), (14, 15), (15, 1), (16, 2 ^ 30), (24, 2 ^ 30)] (onFn · id) = true
      ∧ runs cf .fnGrant 0x15 [(12, 3), (14, 0)] (onFn · fun s => { s with fns := s.fns ++ [(3, { Func.reset with grants := [(0, some (0, 2 ^ 30))] })] }) = true := by decide +kernel

def inState (st : CtxState) (s : State) : State := { s with ctxs := s.ctxs.map fun c => (c.1, { c.2 with state := st }) }
theorem meets_ContextsEnded :
    ([((0x12 : Byte), Instr.ctxReset), (0x11, .ctxDestroy)].all fun p =>
        runs cf p.2 p.1 [(12, 1)] (onFn · id) && runs cf p.2 p.1 [(12, 2)] (onFn · id) && runs cf p.2 p.1 [(12, 1)] (onFn · (inState .resetting))
          && runs cf p.2 p.1 [(12, 1)] (onFn · (inState .destroying))) = true
      ∧ (onFn (cmd 0x12 .started [(12, 1)]) (inState .resetting)).workEnded 1 = true
      ∧ goes (.contextCleanupEnd 1) (onFn (cmd 0x12 .started [(12, 1)]) (inState .resetting)) = true
      ∧ goes (.contextCleanupEnd 1) (onFn (cmd 0x11 .started [(12, 1)]) (inState .destroying)) = true
      ∧ goes (.functionLevelReset 0) (onFn (cmd 0x00 .accepted []) (opened true)) = true
      ∧ (let at_ (n : Fin 5) (s : State) : State := { s with chans := [(31, { Channel.ready with state := n })] }
         ([0, 1, 2, 3, 4].all fun n => runs cf .chanReset 0x16 [(12, 31)] (onFn · (at_ n))
           && runs cf (fun c => .clusterReset 31 127 (some c)) 0x17 [(12, 31), (13, 127)] (onFn · (at_ n))) = true)
      ∧ (let s := onFn (cmd 0x17 .started [(12, 0), (13, 4)]) fun s =>
           { s with lines := [(2, { held0 with dstate := .owned, owner := some (cl 4) })]
                    clusters := [(4, { Cluster.idle with resetPending := true, lines := [(2, { CacheLine.absent with state := .m, data := 5 })] })] }
         s.clusterEmpty 4 = true ∧ goes (.clusterReset 0 4 none) s = true) := by decide +kernel

/-! ## Counters and registers (R418 to R436) -/

/-- A snapshot area in the first megabytes of channel 0 holds a record whole, and no line of it is in any transaction. -/
theorem still_low (f : Channel → Channel) (hs : (f Channel.ready).mapOrder = []) (hu : (f Channel.ready).state = 2)
    (ht : (devCh f).travelling = []) (l : LineAddr) (h : l.toNat < 2 ^ 20) :
    (devCh f).isLocal l = true ∧ (devCh f).inMemory l = true ∧ (devCh f).defersWrite l = false ∧ ((devCh f).slice l).regs = [] := by
  have h1 : lineNode l = 0 := by simp [lineNode, Nat.shiftRight_eq_div_pow]; omega
  have h2 : lineChan l = 0 := by simp [lineChan, Nat.shiftRight_eq_div_pow]; omega
  have h3 : lineOff l < 2 ^ 20 := by simp [lineOff]; omega
  have hc : ((devCh f).chan 0) = f Channel.ready := rfl
  have hl : (devCh f).isLocal l = true := by simp [State.isLocal, h1]; rfl
  have hm : (devCh f).inMemory l = true := by
    simp [State.inMemory, h2, hc, Channel.capacity, Channel.capacityGiB, Channel.mappedOut, hs, hu]; omega
  refine ⟨hl, hm, ?_, rfl⟩
  have hq : (devCh f).quiet l = true := by simp only [State.quiet, ht]; rfl
  simp only [State.defersWrite, hl, hm, hq]; rfl
theorem meets_CountersAndLogs :
    let busy : Channel → Channel := fun c => { c with snapBusy := true, chLatched := some ([], 0, [], 0) }
    let t : Tagged := ⟨0, 1, 0x1000, 0, 1, 1, 0, 0, 0, false, false, true⟩
    let tags (base : DWord) : State := { devCh (fun c => { c with tagCfg := 0x80000000, tagBase := base }) with cores := [(0, { Core.idle with tagged := some t })] }
    ([0, 8, 12].all fun n => goes (.pmcSelWrite 0 n 0xFFFFFFFF) (dev grp0)) = true
      ∧ State.reset.up 0 = true ∧ goes (.pmcSnap 0) (devCh busy) = true
      ∧ (devCh fun c => { c with snapAddr := 0x1000000000 }).wholeIn 0x1000000000 2627792 = false ∧ goes (.pmcSnap 0) (devCh fun c => { c with snapAddr := 0x1000000000 }) = true
      ∧ State.reset.wholeIn 0 2627792 = true ∧ goes (.pmcSnap 0) State.reset = true
      ∧ (∀ i, i < 2627792 → let l := lineOfPa (((devCh busy).chan 0).snapAddr.toNat + i)
          (devCh busy).isLocal l = true ∧ (devCh busy).inMemory l = true ∧ (devCh busy).defersWrite l = false ∧ ((devCh busy).slice l).regs = [])
      ∧ (tags 0).taggedCore 0 = some (0, t) ∧ ([0, 0x1FFFFFFFF000000].all fun b => goes (.tagRecordWrite 0) (tags b)) = true
      ∧ ([(RcReg.sluEcc 0), .sluDrop 0, .sluMeDrop 0, .ccCorr 0, .ccUncorr 0, .ccLost 0, .memCorr 0, .memUncorr 0, .xltWalks 0, .xltFaults 0, .ltFec 0, .ltLinkErr 0,
          .ltDup 0, .tagLost 0, .fnCounts 256].all fun r => goes (.rcCounterRead r) State.reset) = true := by
  refine ⟨by decide +kernel, by decide +kernel, by decide +kernel, by decide +kernel, by decide +kernel, by decide +kernel, by decide +kernel, fun i hi => ?_,
    by decide +kernel, by decide +kernel, by decide +kernel⟩
  refine still_low _ rfl rfl rfl _ ?_
  have h0 : ((devCh fun c => { c with snapBusy := true, chLatched := some ([], 0, [], 0) }).chan 0).snapAddr.toNat = 0 := rfl
  have h1 : i >>> 7 = i / 128 := by simp [Nat.shiftRight_eq_div_pow]
  simp only [lineOfPa, h0, Nat.zero_add, BitVec.toNat_ofNat, h1]
  omega

theorem meets_RegisterWrites :
    let wr (fn : Fin 257) (bar4 : Bool) (o : BitVec 22) (v : DWord) (s : State) : Bool := goes (.registerWrite fn bar4 o false v) s
    let box (go : Bool) : State := devHub fun h => { h with ready := true, mailboxes := [(3, { Mailbox.reset with ctrl := if go then 0x80000000 else 0, key := 0x02000000 })] }
    (ready State.reset).hub.ready = true ∧ ([0x08, 0x10, 0x14, 0x20, 0x24, 0x30, 0x34, 0x3FFC, 0x801C, 0x17C].all fun o => wr 256 false o 0x11F0A (ready State.reset)) = true
      ∧ goes (.registerWrite 1 false 0x48 true 0xFFFF001) (ready State.reset) = true
      ∧ wr 1 true 0x1004 1 (ready State.reset) = true ∧ wr 256 false 0x10000 1 (ready State.reset) = true
      ∧ ([0x10, 0x100, 0x200, 0x204, 0x300, 0x400, 0x700, 0x704, 0x76C, 0x7C0, 0x7C4, 0x7EC].all fun o => wr 0 false (0x2F0000 + o) 0x24 (ready State.reset)) = true
      ∧ ([true, false].all fun b => (tget Mailbox.reset (box b).hub.mailboxes 3).go == b
          && ([0, 4, 8, 12, 16, 0x800, 0xFDC].all fun o => wr 0 true (0x3000 + o) 0x80000000 (box b))) = true
      ∧ svcDefined ((tget Mailbox.reset (box false).hub.mailboxes 3).key.toNat / 2 ^ 24) = true := by decide +kernel

/-! ## The management field bus (R359 to R383) -/

/-- Node 5 of the field bus; session 1 of node 9 is proved with an empty key, and session 2 bound. -/
def devEb (f : State → State) : State :=
  f (devHub fun h => { h with address := 5, busState := 1, ownerKey := some [], sessions := [(1, { Session.free with source := some (.bus 9), proved := true }), (2, { Session.free with source := some (.bus 9) })] })
/-- A request of node 9 in one part, outside a session and in session 1 with a number of transaction. -/
def req (svc : Byte) (idx : BitVec 16) (sub : Byte) (len : BitVec 16) (v : List Byte) : EbReq := ⟨.bus 9, svc, false, false, true, idx, sub, len, 1, 0, 0, v, 0⟩
def inSession (n : Byte) (txn : Word) (r : EbReq) : EbReq := { r with auth := true, session := n, txn := txn }
/-- A write in session 1. -/
def put (idx : BitVec 16) (sub : Byte) (v : List Byte) : EbReq := inSession 1 1 (req 0x02 idx sub (BitVec.ofNat 16 v.length) v)
/-- The tag that session 1 wants, and another. -/
def signed (r : EbReq) : EbReq := { r with tag := pduTag [] (reqBytes r) }
def missigned (r : EbReq) : EbReq := { r with tag := pduTag [] (reqBytes r) + 1 }

theorem tag_signed (r : EbReq) (s : State) (h : (s.session r.session.toNat).key = []) : TagHolds (signed r) s := by
  show pduTag (s.session r.session.toNat).key (reqBytes r) = _
  rw [h]; rfl
theorem tag_missigned (r : EbReq) (s : State) (h : (s.session r.session.toNat).key = []) : ¬ TagHolds (missigned r) s := by
  show ¬ pduTag (s.session r.session.toNat).key (reqBytes r) = pduTag [] (reqBytes r) + 1
  rw [h]; generalize pduTag [] (reqBytes r) = x; bv_omega

/-- What the clauses of a new write ask of a request and a state, but for its tag. -/
def writable (r : EbReq) (s : State) : Bool :=
  let x := s.session 1
  s.asks r 0x02 && r.auth && decide (r.session = 1) && decide (x.key = []) && decide (x.source = some r.src) && x.proved && decide (1 ≤ (r.txn - x.h).toInt) && decide (r.offset = 0) && r.last
theorem writesNow_of {r : EbReq} {s : State} (hb : r.src = .bus 9) (h : writable r s = true) : WritesNow (signed r) s := by
  simp only [writable, Bool.and_eq_true, decide_eq_true_eq] at h
  obtain ⟨⟨⟨⟨⟨⟨⟨⟨h1, h2⟩, h3⟩, h4⟩, h5⟩, h6⟩, h7⟩, h8⟩, h9⟩ := h
  have h3' : r.session.toNat = 1 := by rw [h3]; rfl
  refine ⟨by simpa [State.asks, signed, hb] using h1, h2, ⟨?_, ?_, ?_, ?_⟩, tag_signed r s (by rw [h3']; exact h4), ?_, h8, h9⟩
  · show 1 ≤ r.session.toNat; omega
  · show r.session.toNat ≤ 8; omega
  · show (s.session r.session.toNat).source = _; rw [h3']; exact h5
  · show (s.session r.session.toNat).proved = _; rw [h3']; exact h6
  · show 1 ≤ (r.txn - (s.session r.session.toNat).h).toInt; rw [h3']; exact h7
/-- A session that holds, with its right tag and a wrong one. -/
theorem session_one (r : EbReq) (h : r.session = 1) (hb : r.src = .bus 9) :
    SessionHolds (signed r) (devEb id) ∧ TagHolds (signed r) (devEb id) ∧ SessionHolds (missigned r) (devEb id) ∧ ¬ TagHolds (missigned r) (devEb id) := by
  have hs : (devEb id).session r.session.toNat = { Session.free with source := some (.bus 9), proved := true } := by rw [h]; rfl
  have hold : SessionHolds r (devEb id) := by rw [SessionHolds, hs, hb, h]; decide
  exact ⟨hold, tag_signed r _ (by rw [hs]; rfl), hold, tag_missigned r _ (by rw [hs]; rfl)⟩

/-- The code of the entry's access, or the failure of the lookup. -/
def access (idx sub : Nat) : Byte ⊕ EntryAccess := match lookup idx sub with | .ok e => .inr e.access | .error b => .inl b

theorem meets_EbfoldReads :
    let s := devEb id
    let r (svc : Byte) (idx : BitVec 16) (sub : Byte) (len : BitVec 16) := req svc idx sub len []
    let resetting := devEb fun s => { s with chans := [(31, { Channel.ready with state := 1 })] }
    -- no object, no subindex, write-only, not ready, and values
    ([((0x0001 : BitVec 16), (0 : Byte), (4 : BitVec 16)), (0x1008, 1, 4), (0x4003, 1, 1), (0x1008, 0, 8), (0x7010, 0, 4), (0x4001, 1, 1)].all fun p =>
        s.asks (r 1 p.1 p.2.1 p.2.2) 1 && goes (.read (r 1 p.1 p.2.1 p.2.2)) s) = true
      ∧ access 1 0 = .inl ebNoObject ∧ access 0x1008 1 = .inl ebNoSubindex ∧ access 0x4003 1 = .inr .wo ∧ access 0x7010 0 = .inr .rwa
      ∧ access 0x47C1 1 = .inr .ro ∧ resetting.notReady 0x47C1 = true ∧ resetting.asks (r 1 0x47C1 1 1) 1 = true ∧ s.notReady 0x7010 = false
      ∧ s.asks (r 3 0x7010 0 0) 3 = true ∧ s.asks (r 4 0 0 0) 4 = true
      ∧ s.asks (inSession 7 1 (r 1 0x7010 0 4)) 1 = true ∧ (s.session 7).source = none ∧ goes (.read (inSession 7 1 (r 1 0x7010 0 4))) s = true
      ∧ s.asks (missigned (inSession 1 1 (r 1 0x7010 0 4))) 1 = true := by decide +kernel

/-- The parts of a proof in session 2. -/
def proofPart (off : BitVec 16) (last : Bool) (n : Nat) : EbReq := { req 0x12 0 0 (BitVec.ofNat 16 n) (List.replicate n 0) with session := 2, offset := off, last := last }

theorem meets_Sessions :
    let s := devEb id
    let openR (n : Nat) := req 0x10 0 0 (BitVec.ofNat 16 n) (List.replicate n 7)
    let close := req 0x14 0 0 0 []
    let full := devEb fun s => { s with hub := { s.hub with sessions := (List.range 4).map fun n => (n + 1, { Session.free with source := some (.bus 8) }) } }
    let staged := devEb fun s => { s with hub := { s.hub with sessions := [(2, { Session.free with source := some (.bus 9), staging := some (0, 0, List.replicate 400 0) })] } }
    let kept := devEb fun s => { s with hub := { s.hub with keptEvents := [⟨0, 0, 0⟩], event := some ⟨0, 0, 0⟩ } }
    let off := devEb fun s => { s with hub := { s.hub with busState := 3 } }
    -- SESSION_OPEN: no owner key, a wrong length, no free number, a free number
    (s.asks (openR 32) 0x10 = true ∧ s.hub.ownerKey ≠ none ∧ goes (.sessionOpen (openR 32) 5) s = true ∧ s.asks (openR 31) 0x10 = true ∧ goes (.sessionOpen (openR 31) 5) s = true
      ∧ (s.session 3).source = none ∧ full.asks (openR 32) 0x10 = true ∧ ((sessionNumbers (.bus 9)).all fun n => (full.session n).source != none) = true
      ∧ goes (.sessionOpen (openR 32) 5) (devEb fun s => { s with hub := { s.hub with ownerKey := none } }) = true)
    -- SESSION_PROVE: not bound, the first part, a part out of place, a wrong length, the whole in one part and in two
    ∧ (s.asks { proofPart 0 true 768 with session := 3 } 0x12 = true ∧ s.asks (proofPart 0 false 400) 0x12 = true ∧ goes (.sessionProve (proofPart 0 false 400)) s = true
      ∧ s.asks (proofPart 8 true 400) 0x12 = true ∧ (s.session 2).staging = none ∧ goes (.sessionProve (proofPart 8 true 400)) s = true
      ∧ s.asks (proofPart 0 true 767) 0x12 = true ∧ goes (.sessionProve (proofPart 0 true 767)) s = true ∧ s.asks (proofPart 0 true 768) 0x12 = true
      ∧ staged.asks (proofPart 400 true 368) 0x12 = true ∧ (staged.session 2).proved = false ∧ (staged.session 2).source = some (.bus 9))
    -- SESSION_CLOSE, the timers, the events and the bus
    ∧ (s.asks close 0x14 = true ∧ goes (.sessionClose close) s = true ∧ s.asks (inSession 7 1 close) 0x14 = true ∧ s.asks (signed (inSession 1 1 close)) 0x14 = true
      ∧ s.asks (missigned (inSession 1 1 close)) 0x14 = true)
    ∧ (s.session 1).source ≠ none ∧ (s.session 1).proved = true ∧ (s.session 2).proved = false ∧ goes (.sessionIdleTimeout 1) s = true ∧ goes (.sessionProveTimeout 2) s = true
    ∧ s.hub.onBus = true ∧ kept.hub.onBus = true ∧ kept.hub.dict.eventEn = 1 ∧ goes .event kept = true ∧ goes .busOff s = true
    -- a frame of no profile; marked ones: for another address, from the own address, with a bad header; a good one that finds the queue full
    ∧ (let xl (src dst : Nat) (d : List Byte) : BusFrame := .xl (BitVec.ofNat 11 (s.hub.dict.prioBase.toNat + 256 + src)) s.hub.dict.sdt (some s.hub.dict.vcid) (BitVec.ofNat 32 dst) false d
       let pdu : List Byte := pduHeader 0x01 0 0x1008 0 0 0 1 0 0 0
       ([BusFrame.other, xl 9 6 pdu, xl 5 5 pdu, xl 9 5 []].all fun f => !s.hub.processes f && goes (.malformed f false) s) = true
         ∧ s.hub.marked (xl 9 6 pdu) = true ∧ s.hub.sender (xl 5 5 pdu) = 5 ∧ frameHeader (xl 9 5 []) = false
         ∧ s.hub.processes (xl 9 5 pdu) = true ∧ goes (.malformed (xl 9 5 pdu) true) s = true)
    ∧ off.hub.powered = true ∧ off.hub.inReset = false ∧ off.hub.refLost = false ∧ off.hub.address = 5 ∧ goes .busOffRecovery off = true := by decide +kernel

/-- What a proof that verifies asks of the signature and the key is a hypothesis on the free constants: with it, session 2 is proved. -/
theorem meets_Sessions_proof (b secret owner : List Byte) (hb : b.length = 768)
    (hv : pssVerify owner (transcript ((devEb id).session 2) 2 (.bus 9) (b.take 384)) (b.drop 384) = true) (hd : Config.identityDecrypt (b.take 384) = some secret) :
    let r : EbReq := { req 0x12 0 0 768 b with session := 2 }
    let s : State := devEb fun s => { s with hub := { s.hub with ownerKey := some owner } }
    s.asks r 0x12 = true ∧ r.value.length = 768 ∧ s.hub.ownerKey = some owner
      ∧ pssVerify owner (transcript (s.session 2) 2 r.src (r.value.take 384)) (r.value.drop 384) = true ∧ Config.identityDecrypt (r.value.take 384) = some secret := by
  refine ⟨?_, hb, rfl, hv, hd⟩
  have h1 : (devEb fun s => { s with hub := { s.hub with ownerKey := some owner } }).hub.onBus = true := by rfl
  have h2 : (devEb fun s => { s with hub := { s.hub with ownerKey := some owner } }).hub.address = 5 := rfl
  have h3 : carriesValue 18#8 = true := by decide
  simp [State.asks, req, h1, h2, h3, hb]

/-- Mailbox 3 with a request: its service, index and bytes. -/
def devBox (svc idx : Nat) (v : List Byte) : State :=
  let x : Mailbox := { Mailbox.reset with ctrl := 0xC0000000, key := BitVec.ofNat 32 (svc * 2 ^ 24 + idx), len := BitVec.ofNat _ v.length, data := v.mapIdx fun i b => (i, b) }
  devEb fun s => { s with hub := { s.hub with mailboxes := [(3, x)] } }
def boxReq (svc idx : Nat) (v : List Byte) : EbReq := (tget Mailbox.reset (devBox svc idx v).hub.mailboxes 3).request 3

/-- The table of writes: READ_ONLY, no object, LENGTH, RANGE, and a good value. -/
def writes : List (BitVec 16 × Byte × List Byte) := [(0x1008, 0, bytesLe 8 1), (0x0001, 0, [1]), (0x7010, 0, [1]), (0x7010, 0, bytesLe 4 0), (0x7010, 0, bytesLe 4 6000)]
theorem meets_EbfoldWrites :
    let s := devEb id
    let w := put 0x7010 0 (bytesLe 4 6000)
    let late := devEb fun s => { s with hub := { s.hub with sessions := [(1, { Session.free with source := some (.bus 9), proved := true, h := 20, responses := [(19, 0, 0)] })] } }
    (writes.all fun p => s.asks (req 2 p.1 p.2.1 (BitVec.ofNat 16 p.2.2.length) p.2.2) 2 && writable (put p.1 p.2.1 p.2.2) s) = true
      ∧ goes (.ebfoldWrite (req 2 0x7010 0 4 (bytesLe 4 6000))) s = true
      ∧ s.asks { w with session := 7 } 2 = true ∧ goes (.ebfoldWrite { w with session := 7 }) s = true ∧ s.asks (missigned w) 2 = true
      ∧ ([(1 : Word), 4, 5, 19, 20].all fun n => late.asks { w with txn := n } 2 && decide ((n - (late.session 1).h).toInt < 1)) = true
      ∧ (late.session 1).responses.find? (fun y => decide (y.1 = (19 : Word))) = some (19, 0, 0) ∧ (late.session 1).responses.find? (fun y => decide (y.1 = (18 : Word))) = none
      ∧ (let r := devEb fun s => { s with chans := [(0, { Channel.ready with state := 1 })] }; r.notReady 0x4012 = true ∧ writable (put 0x4012 0 [1]) r = true)
      ∧ s.hub.dict.write 0x7010 0 0 = none ∧ (s.hub.dict.write 0x7010 0 6000).isSome = true ∧ s.notReady 0x7010 = false ∧ chanIndex 0x7010 = none
      ∧ access 0x7010 0 = .inr .rwa ∧ access 0x1F03 0 = .inr .rw
      ∧ (devBox 2 0x7010 (bytesLe 4 6000)).asks (boxReq 2 0x7010 (bytesLe 4 6000)) 2 = true ∧ goes (.ebfoldWrite (boxReq 2 0x7010 (bytesLe 4 6000))) (devBox 2 0x7010 (bytesLe 4 6000)) = true
      ∧ (devBox 2 0x1F03 [0]).asks (boxReq 2 0x1F03 [0]) 2 = true ∧ goes (.ebfoldWrite (boxReq 2 0x1F03 [0])) (devBox 2 0x1F03 [0]) = true := by decide +kernel

theorem meets_NoWriteWithoutATag :
    let s := devEb id
    let w := req 2 0x7010 0 4 (bytesLe 4 6000)
    s.asks w 2 = true ∧ w.auth = false ∧ goes (.ebfoldWrite w) s = true ∧ s.asks (missigned (inSession 1 1 w)) 2 = true
      ∧ ([((1 : Byte), Instr.read), (3, .describe), (4, .identify)].all fun p => s.asks (req p.1 0x1008 0 0 []) p.1 && goes (p.2 (req p.1 0x1008 0 0 [])) s) = true := by decide +kernel

/-- The writes of the entries that act, each in a state where it is new in session 1; `onZero` changes channel 0 (whose entries are at 0x4000). -/
def onZero (f : Channel → Channel) : State := devEb fun s => { s with chans := [(0, f Channel.ready)] }
def actRows : List (BitVec 16 × Byte × List Byte) :=
  [(0x1011, 0, [1]), (0x1011, 0, [2]), (0x2001, 0, bytesLe 4 7), (0x2003, 0, bytesLe 64 9), (0x2004, 0, bytesLe 4 60000), (0x2004, 0, bytesLe 4 60001), (0x7030, 1, [0]),
   (0x4003, 1, [63]), (0x4003, 2, [1]), (0x4003, 2, [0]), (0x4012, 0, [1]), (0x4012, 0, [2]), (0x4014, 0, [1]), (0x4014, 0, [0]), (0x4004, 0, [1]), (0x4004, 0, [0])]
theorem meets_DictionaryRows :
    let s := devEb id
    (actRows.all fun p => writable (put p.1 p.2.1 p.2.2) s) = true
      -- the states in which each clause speaks: the coolant pin, a grant due and begun, eight channels out, a context's set, the only channel, a retirement
      ∧ s.hub.pin = false ∧ writable (put 0x7030 1 [0]) (devEb fun s => { s with hub := { s.hub with pin := true } }) = true
      ∧ ([0, 1, 2, 3].all fun (n : Fin 4) => [[1], [0]].all fun v => writable (put 0x4003 2 v) (onZero fun c => { c with evacState := n })) = true
      ∧ ([[], [63], [0, 1, 2, 3, 4, 5, 6, 7]].all fun (l : List (Fin 64)) => writable (put 0x4003 1 [63]) (onZero fun c => { c with nominations := l })) = true
      ∧ (let c1 := devEb fun s => { s with ctxs := [(1, ctxA)] }
         writable (put 0x4014 0 [1]) c1 = true ∧ c1.contextsOn 0 ≠ 0 ∧ s.contextsOn 0 = 0)
      ∧ (let c1 := devEb fun s => { s with ctxs := [(1, { ctxA with chset := 1 })] }; writable (put 0x4004 0 [1]) c1 = true ∧ c1.onlyChannel 0 = true)
      ∧ s.onlyChannel 0 = false ∧ (s.chan 0).retireAsked = false
      ∧ (let d := onZero fun c => { c with retireAsked := true }
         writable (put 0x4004 0 [0]) d = true ∧ (d.chan 0).state = 2 ∧ d.workLeft 0 = false ∧ d.lines = [] ∧ (d.cluster 0).lines = [] ∧ goes (.channelRetirement 0) d = true) := by
  decide +kernel
theorem meets_DictionaryRows_now : ∀ p ∈ actRows, WritesNow (signed (put p.1 p.2.1 p.2.2)) (devEb id) := by
  intro p hp
  refine writesNow_of rfl ?_
  have := meets_DictionaryRows.1
  rw [List.all_eq_true] at this
  exact this p hp

/-! ## Firmware (R406 to R416) -/

/-- The encoded message of 384 bytes for a salt of zeros (RFC 8017); under the exponent 1 it is the signature. -/
def pssEncoded (m : List Byte) : List Byte :=
  let salt := List.replicate 32 (0 : Byte)
  let h := sha256Bytes (List.replicate 8 0 ++ sha256Bytes m ++ salt)
  let masked := xorBytes (List.replicate 318 0 ++ [1] ++ salt) (mgf1 h 351)
  ((masked.headD 0) &&& 0x7F) :: masked.drop 1 ++ h ++ [0xBC]
/-- An image without a body, signed under the exponent 1; that its key is the fused one is a hypothesis on the free constant. -/
def imageHead : List Byte :=
  bytesLe 4 0x5746534B ++ bytesLe 4 1 ++ bytesLe 4 5 ++ bytesLe 4 9 ++ bytesLe 4 0 ++ sha256Bytes [] ++ List.replicate 12 0 ++ List.replicate 384 0xFF
    ++ [0, 0, 0, 1] ++ List.replicate 60 0
def image : List Byte := imageHead ++ pssEncoded imageHead ++ List.replicate 128 0
theorem meets_Images (h1 : sha256 ((image.drop 64).take 388) = Config.fusedKeyHash) : imageFails image 1 9 = none := by
  have hf : (decide (1024 ≤ image.length) && decide (partNat image 0 4 = 0x5746534B) && decide (partNat image 4 1 = 1)
      && decide (partNat image 16 4 ≤ (if 1 = 1 then 8 else 4) * 2 ^ 20) && decide (image.length = 1024 + partNat image 16 4)
      && partZero image 5 3 && partZero image 52 12 && partZero image 452 60 && partZero image 896 128) = true := by decide +kernel
  have h2 : pssVerify ((image.drop 64).take 388) (image.take 512) ((image.drop 512).take 384) = true := by rw [pssVerify_eq]; decide +kernel
  have h3 : sha256 (image.drop 1024) = BitVec.ofNat 256 (partNat image 20 32) := by rw [sha256_eq]; decide +kernel
  have hs : ¬ partNat image 12 4 < 9 := by decide +kernel
  simp only [Bool.and_eq_true, decide_eq_true_eq] at hf
  simp [imageFails, h1, h2, h3, hs]
  simpa using hf

/-- SHA-256 of "abc" (FIPS 180-4) and HMAC-SHA-256 of RFC 4231, case 2. -/
theorem test_sha256 : beNat (sha256Bytes (ascii [97, 98, 99])) = 0xBA7816BF8F01CFEA414140DE5DAE2223B00361A396177A9CB410FF61F20015AD := by decide +kernel
theorem test_hmac : beNat (hmacBytes (ascii [74, 101, 102, 101])
    (ascii [119, 104, 97, 116, 32, 100, 111, 32, 121, 97, 32, 119, 97, 110, 116, 32, 102, 111, 114, 32, 110, 111, 116, 104, 105, 110, 103, 63]))
    = 0x5BDCC146BF60754E6A042426089575C75A003F089D2739839DEC58B964EC3843 := by decide +kernel

/-- A device whose staged slots are full. -/
def fwHub (h : Hub) : Hub := { h with stagedHub := some true, hubB := .factory, stagedChan := some true, chanB := .factory }
def fwDev (s : State) : State := { s with hub := fwHub s.hub }
def updating (l : List (Fin 32)) : State :=
  onFn (cmd 0x21 .started []) fun s => { fwDev s with hub := { (fwDev s).hub with fwUpdate := some (cf, l, 0) } }
theorem meets_FirmwareCommands :
    -- FW_STAGE: outside the node, no slot that is free of images in use, a first check that fails
    (let l := [(12, 1), (16, 2 ^ 48), (24, 1024)]; runs cf (.fwStage · true) 0x20 l (onFn · id) = true ∧ (onFn (cmd 0x20 .accepted l) id).atNode (2 ^ 48) 1024 = false)
    ∧ (let half (s : State) : State := { s with chans := [(0, { Channel.ready with fwSlotB := true })] }
       let l := [(12, 2), (16, 0x100), (24, 1024)]
       runs cf (.fwStage · true) 0x20 l (onFn · half) = true ∧ (half State.reset).stageTarget 2 = none)
    ∧ (let l := [(12, 1), (16, 0x1000), (24, 1024)]; let s := onFn (cmd 0x20 .accepted l) id
       runs cf (.fwStage · true) 0x20 l (onFn · id) = true ∧ s.atNode 0x1000 1024 = true ∧ s.stageTarget 1 = some true
         ∧ imageFails (s.readPhys 0x1000 1024).1.1 1 (s.hub.floor 1) = some 1)
    -- FW_ACTIVATE of the hub and of channels, with and without a staged slot, with channels that have the image and that have not
    ∧ runs cf .fwActivate 0x21 [(12, 1)] (onFn · fwDev) = true ∧ runs cf .fwActivate 0x21 [(12, 1)] (onFn · id) = true ∧ runs cf .fwActivate 0x21 [(12, 2)] (onFn · id) = true
    ∧ runs cf .fwActivate 0x21 [(12, 2), (16, 5)] (onFn · fwDev) = true ∧ runs cf .fwActivate 0x21 [(12, 2), (16, 0)] (onFn · fwDev) = true
    ∧ (fwDev State.reset).hub.fwUpdate = none ∧ ((fwDev State.reset).chan 0).fwSlotB = false ∧ ((fwDev State.reset).hub.chanSlot true).full = true
    -- FW_FLOOR: not above, above an image in use, above none
    ∧ runs cf .fwFloor 0x22 [(12, 1)] (onFn · id) = true ∧ runs cf .fwFloor 0x22 [(12, 1), (16, 3)] (onFn · id) = true ∧ State.reset.namedBelow 1 3 = true
    ∧ (let high (s : State) : State := { s with hub := { s.hub with hubA := { FwSlot.factory with svn := 9 } } }
       runs cf .fwFloor 0x22 [(12, 1), (16, 9)] (onFn · high) = true ∧ (high State.reset).namedBelow 1 9 = false ∧ (high State.reset).hub.logRoom = true)
    -- OWNER_KEY: outside the node, the first key, a count that does not rise under a key
    ∧ runs cf .ownerKey 0x23 [(16, 2 ^ 48)] (onFn · id) = true ∧ runs cf .ownerKey 0x23 [(16, 0x1000)] (onFn · id) = true
    ∧ State.reset.hub.ownerKey = none ∧ State.reset.atNode 0x1000 776 = true
    -- QUOTE: too little room, and room
    ∧ runs cf .quote 0x24 [(16, 0x1000), (24, 100)] (onFn · id) = true ∧ runs cf .quote 0x24 [(16, 0x1000), (24, 0x100000)] (onFn · id) = true
    ∧ 128 + 64 * State.reset.hub.log.length + 384 ≤ 0x100000
    -- the update of a channel: one that cannot be updated, a wrong hash, no answer, an answer with channels left and with none
    ∧ (let s := updating [0]
       (s.cmdOf cf (fun y => decide (y.opcode = 0x21) && decide (y.stage = .started))).isSome = true ∧ s.updateBusy 0 = false ∧ (s.chan 0).handoff = false
         ∧ goes (.channelFirmwareUpdate 0 5 true) s = true ∧ goes (.channelFirmwareUpdate 0 0 false) s = true ∧ goes (.channelFirmwareUpdate 0 0 true) s = true)
    ∧ goes (.channelFirmwareUpdate 0 0 true) (updating [0, 31]) = true
    ∧ (let s := { updating [0] with chans := [(0, { Channel.ready with rest := true })] }; s.updateBusy 0 = true ∧ goes (.channelFirmwareUpdate 0 0 true) s = true)
    ∧ (let s := { updating [0] with chans := [(0, { Channel.ready with handoff := true })] }; (s.chan 0).handoff = true ∧ goes (.handoffTimeout 0) s = true) := by decide +kernel
/-- With an owner key, a block whose COUNT does not rise is not accepted. -/
theorem meets_FirmwareCommands_key : ({ Hub.reset with ownerKey := some [] }).acceptsKey [] = false := by
  have : (decide (({ Hub.reset with ownerKey := some [] } : Hub).ownerCount.toNat < partNat [] 388 4)) = false := by decide +kernel
  simp only [Hub.acceptsKey, this, Bool.and_false]

/-! ## The queue, the memory, and the functions of numbers -/

/-- A queue with a command in front, an empty one, and a step whose memory is canonical. -/
theorem meets_StepRunsTheFront : ({ dev grp0 with pending := [.coolantFail] }).pending = [.coolantFail] ∧ State.reset.pending = [] := by decide +kernel
theorem meets_MemoryStaysCanonical : Canonical { devCh id with mem := [(0x1000, 3)], pending := [.coolantFail] } := by unfold Canonical; decide +kernel
/-- NaNs, infinities and sums for the statements about them. -/
theorem meets_CanonicalNaN : isNaN32 (f32Add false 0x7FC00001 0).1 = true ∧ isNaN32 (f32Sub false 0x7F800000 0x7F800000).1 = true ∧ isNaN32 (f32Mul false 0x7F800000 0).1 = true ∧ isNaN32 (f32Fma true 0x7F800001 0 0).1 = true
    ∧ isNaN32 (f32MinMax true false 0xFFC00000 0x7FC00000).1 = true ∧ isNaN32 (f32Rcp true 0 0x7FC00001).1 = true ∧ isNaN32 (f32Rsq true 0 0xBF800000).1 = true
    ∧ isNaN32 (f32Sqrt true 0 0xBF800000).1 = true ∧ isNaN32 (f32Exp2 true 0 0x7FC00001).1 = true ∧ isNaN32 (f32Log2 true 0 0xBF800000).1 = true := by decide +kernel
theorem meets_QuernAccumulates : isNaN32 0x7FC00001 = true ∧ (∃ t ∈ [((.num false 1 0 : Exact), false)], ∃ n m e, t.1 = Exact.num n m e) ∧ isNaN32 0x3F800000 = false := by
  refine ⟨by decide, ⟨_, List.mem_singleton.2 rfl, _, _, _, rfl⟩, by decide⟩

end Sys2Proof.Tests
end

section
/-! PROOFS. What reset leaves (R9, R445): what each table and the hub read as in the state after reset. -/

namespace Sys2Proof.Machine

/-! ## Reading the state after reset: its tables are empty, so every key reads as the table's default -/

@[simp] theorem State.reset_core (k : Nat) : State.reset.core k = .idle := rfl
@[simp] theorem State.reset_cluster (k : Nat) : State.reset.cluster k = .idle := rfl
@[simp] theorem State.reset_chan (k : Nat) : State.reset.chan k = .ready := rfl
@[simp] theorem State.reset_fnOf (k : Nat) : State.reset.fnOf k = .reset := rfl
@[simp] theorem State.reset_ctx (k : Nat) : State.reset.ctx k = .absent := rfl
@[simp] theorem State.reset_obj (k : Nat) : State.reset.obj k = .free := rfl
@[simp] theorem State.reset_slice (l : LineAddr) : State.reset.slice l = .absent := rfl
@[simp] theorem State.reset_readByte (a : Nat) : readByte State.reset.mem a = 0 := rfl
@[simp] theorem State.reset_hub : State.reset.hub = .reset := rfl
@[simp] theorem Hub.reset_dict : Hub.reset.dict = .defaults := rfl

@[simp] theorem Channel.ready_state : Channel.ready.state = 2 := rfl
@[simp] theorem Channel.ready_memMap : Channel.ready.memMap = 0 := rfl
@[simp] theorem Channel.ready_mappedOut : Channel.ready.mappedOut = 0 := rfl

/-- No cluster holds a line. -/
@[simp] theorem State.reset_copyOf (k : Nat) (l : LineAddr) : State.reset.copyOf k l = .absent := rfl

/-- Memory that lists no byte is in its canonical form. -/
theorem canonical_reset : Canonical State.reset := rfl

/-- Settles O57, for the reset state of log entry 1: every table of the state after reset is empty, so each read gives the table's default, and the defaults are the values
that the spec states. -/
theorem resetLeaves : Obligations.ResetLeaves := by
  have hcores : ∀ k, State.reset.core k = .idle ∧ (State.reset.core k).liveBlocks = [] := fun k => by
    rw [State.reset_core]
    exact ⟨rfl, rfl⟩
  refine ⟨canonical_reset, State.reset_readByte, rfl, hcores, ?ctxs, ?objs, ?slices, ?copies, rfl, rfl, ?fns, ?chans, ?dict,
    rfl, rfl, rfl, rfl, rfl, rfl⟩
  case ctxs => simp [Context.absent]
  case objs => simp [SyncObj.free]
  case slices => simp [SliceLine.absent]
  case copies => simp [CacheLine.absent]
  case fns => simp [Func.reset, Area.off]
  case chans => simp
  case dict => simp [Dict.defaults]

end Sys2Proof.Machine
end

section
/-! PROOFS. Ebfold's answers (R364 to R366, R370, R373, R374, R383): what a response leaves in the transmit queue or the mailbox, and how a request
that only reads is served with a session and without. -/

namespace Sys2Proof.Machine

/-! ## Bytes -/

@[simp] theorem length_bytesLe (n x : Nat) : (bytesLe n x).length = n := by simp [bytesLe]

theorem bytesLe_one (x : Nat) : bytesLe 1 x = [BitVec.ofNat 8 x] := by simp [bytesLe, byteOf]

/-- Writing the entries `0` to `n - 1` of a table in turn leaves at each the value written there. -/
theorem tget_foldl_tset_range {α : Type} [DecidableEq α] (d : α) (f : Nat → α) (t : Table α) {n i : Nat} (h : i < n) :
    tget d ((List.range n).foldl (fun u j => tset d u j (f j)) t) i = f i := by
  induction n with
  | zero => omega
  | succ n ih =>
    rw [List.range_succ, List.foldl_append, List.foldl_cons, List.foldl_nil, tget_tset]
    split
    · next e => rw [e]
    · next e => exact ih (by omega)

/-- The value bytes that a PDU has room for. -/
theorem Hub.room_bounds (h : Hub) (src : EbSource) (auth : Bool) : 40 ≤ h.room src auth ∧ h.room src auth ≤ 2024 := by
  unfold Hub.room
  cases src with
  | mailbox m => exact ⟨show 40 ≤ 2024 by decide, Nat.le_refl 2024⟩
  | bus a =>
    dsimp only
    constructor <;> split <;> split <;> omega

/-! ## What a response changes (R362, R363, R383) -/

/-- A response changes the transmit queue and the mailboxes alone. -/
theorem State.respond_eq_setHub (s : State) (r : EbReq) (a : Answer) (key : Option (List Byte)) :
    ∃ q boxes, s.respond r a key = s.setHub fun h => { h with transmit := q, mailboxes := boxes } := by
  unfold State.respond
  split <;> exact ⟨_, _, rfl⟩

section
variable (s : State) (r : EbReq) (a : Answer) (key : Option (List Byte))

@[simp] theorem State.respond_dict : (s.respond r a key).hub.dict = s.hub.dict := by
  obtain ⟨q, boxes, h⟩ := s.respond_eq_setHub r a key
  rw [h, State.setHub_hub]

@[simp] theorem State.respond_sessions : (s.respond r a key).hub.sessions = s.hub.sessions := by
  obtain ⟨q, boxes, h⟩ := s.respond_eq_setHub r a key
  rw [h, State.setHub_hub]

@[simp] theorem State.respond_failedTags : (s.respond r a key).hub.failedTags = s.hub.failedTags := by
  obtain ⟨q, boxes, h⟩ := s.respond_eq_setHub r a key
  rw [h, State.setHub_hub]

@[simp] theorem State.respond_chans : (s.respond r a key).chans = s.chans := by
  obtain ⟨q, boxes, h⟩ := s.respond_eq_setHub r a key
  rw [h, State.setHub_chans]

@[simp] theorem State.respond_ctxs : (s.respond r a key).ctxs = s.ctxs := by
  obtain ⟨q, boxes, h⟩ := s.respond_eq_setHub r a key
  rw [h, State.setHub_ctxs]

@[simp] theorem State.respond_fns : (s.respond r a key).fns = s.fns := by
  obtain ⟨q, boxes, h⟩ := s.respond_eq_setHub r a key
  rw [h, State.setHub_fns]

@[simp] theorem State.respond_mem : (s.respond r a key).mem = s.mem := by
  obtain ⟨q, boxes, h⟩ := s.respond_eq_setHub r a key
  rw [h, State.setHub_mem]

end

/-! ## The answer that a response leaves -/

/-- CTRL after an answer: GO, its bit 31, is 0. -/
theorem ctrl_answered_go (c : Word) (session : Byte) : ((c &&& 0x7FFFFF00) ||| session.setWidth 32).getLsbD 31 = false := by
  simp

/-- STATUS after an answer holds the status in its low byte. -/
theorem status_answered_low (ver st : Byte) : ((ver ++ st).setWidth 32 : Word).toNat % 256 = st.toNat := by
  rw [BitVec.toNat_setWidth, BitVec.toNat_append, Nat.shiftLeft_eq, Nat.mul_comm, ← Nat.two_pow_add_eq_or_of_lt st.isLt]
  omega

theorem answered_respond {s s1 : State} (hq : s1.hub.transmit = s.hub.transmit) (r : EbReq) (a : Answer) (key : Option (List Byte))
    (hlen : a.value.length < 2 ^ 32) : Answered s (s1.respond r a key) r key.isSome a.status a.value := by
  cases hsrc : r.src with
  | bus dst =>
    simp only [Answered, State.respond, hsrc, State.setHub_hub, hq]
    exact ⟨a, _, _, rfl, by simp, rfl, rfl⟩
  | mailbox m =>
    simp only [Answered, State.respond, hsrc, State.setHub_hub, tget_tmod_self]
    refine ⟨ctrl_answered_go _ _, status_answered_low _ _, Nat.mod_eq_of_lt hlen, fun i b hb => ?_, hq⟩
    obtain ⟨hi, hv⟩ := List.getElem?_eq_some_iff.1 hb
    rw [tget_foldl_tset_range 0 _ _ hi]
    simp [List.getD_eq_getElem?_getD, hb]

/-! ## Sessions (R373, R374) -/

/-- The condition under which a request with AUTH is answered NO_SESSION. -/
theorem not_sessionHolds_iff {r : EbReq} {s : State} :
    ¬ SessionHolds r s ↔ r.session.toNat = 0 ∨ 8 < r.session.toNat ∨ (s.session r.session.toNat).source ≠ some r.src
      ∨ (s.session r.session.toNat).proved = false := by
  simp only [SessionHolds, Classical.not_and_iff_not_or_not, Bool.not_eq_true, Nat.not_le, Nat.lt_one_iff, ne_eq]

section
variable {s : State} {r : EbReq}

theorem State.authenticate_noSession (h : ¬ SessionHolds r s) : s.authenticate r = .error (ebNoSession, s) :=
  if_pos (not_sessionHolds_iff.1 h)

theorem State.authenticate_badTag (h : SessionHolds r s) (ht : ¬ TagHolds r s) :
    s.authenticate r = .error (ebAuthFailed, s.failTag r.session.toNat) :=
  (if_neg fun hn => not_sessionHolds_iff.2 hn h).trans (if_pos ht)

theorem State.authenticate_ok (h : SessionHolds r s) (ht : TagHolds r s) : s.authenticate r = .ok (s.session r.session.toNat) :=
  (if_neg fun hn => not_sessionHolds_iff.2 hn h).trans (if_neg (Classical.not_not.2 ht))

end

section
variable (s : State) (n : Nat)

@[simp] theorem State.failTag_failedTags : (s.failTag n).hub.failedTags = satAdd s.hub.failedTags 1 := rfl
@[simp] theorem State.failTag_transmit : (s.failTag n).hub.transmit = s.hub.transmit := rfl
@[simp] theorem State.failTag_dict : (s.failTag n).hub.dict = s.hub.dict := rfl
@[simp] theorem State.failTag_chans : (s.failTag n).chans = s.chans := rfl

end

/-! ## Requests that need no session (R370) -/

/-- Without AUTH, or in a session with its tag, a request is answered with what it asks for, and with a tag where it carries one. -/
theorem State.serveRead_answers {s : State} {r : EbReq} (A : Bool → Answer) (h : r.auth = false ∨ (SessionHolds r s ∧ TagHolds r s)) :
    ∃ key : Option (List Byte), key.isSome = r.auth ∧ s.serveRead r (A false) (fun _ => A true) = s.respond r (A r.auth) key := by
  cases ha : r.auth with
  | false => exact ⟨none, rfl, by simp [State.serveRead, ha]⟩
  | true =>
    obtain ⟨hs, ht⟩ := h.resolve_left (by simp [ha])
    exact ⟨some (s.session r.session.toNat).key, rfl, by simp [State.serveRead, ha, State.authenticate_ok hs ht]⟩

theorem State.serveRead_noSession {s : State} {r : EbReq} (f : Answer) (k : List Byte → Answer) (ha : r.auth = true) (h : ¬ SessionHolds r s) :
    s.serveRead r f k = s.respond r (.status_ ebNoSession 0) none := by
  simp [State.serveRead, ha, State.authenticate_noSession h]

theorem State.serveRead_badTag {s : State} {r : EbReq} (f : Answer) (k : List Byte → Answer) (ha : r.auth = true) (h : SessionHolds r s)
    (ht : ¬ TagHolds r s) : s.serveRead r f k = (s.failTag r.session.toNat).respond r (.status_ ebAuthFailed 0) none := by
  simp [State.serveRead, ha, State.authenticate_badTag h ht]

/-- The state with the supply of free values moved on: the command has drawn some (notes/assumptions/2.md). -/
def State.drawnTo (s : State) (n : Nat) : State := { s with freeCount := n }

@[simp] theorem State.drawnTo_hub (s : State) (n : Nat) : (s.drawnTo n).hub = s.hub := rfl
@[simp] theorem State.drawnTo_chans (s : State) (n : Nat) : (s.drawnTo n).chans = s.chans := rfl
@[simp] theorem State.drawnTo_ctxs (s : State) (n : Nat) : (s.drawnTo n).ctxs = s.ctxs := rfl
@[simp] theorem State.drawnTo_fns (s : State) (n : Nat) : (s.drawnTo n).fns = s.fns := rfl
@[simp] theorem State.drawnTo_mem (s : State) (n : Nat) : (s.drawnTo n).mem = s.mem := rfl

/-- What a request that only reads leaves as it was. -/
def ReadKeeps (s t : State) : Prop :=
  t.hub.dict = s.hub.dict ∧ t.hub.sessions = s.hub.sessions ∧ t.chans = s.chans ∧ t.ctxs = s.ctxs ∧ t.fns = s.fns ∧ t.mem = s.mem

theorem readKeeps_respond (s : State) (n : Nat) (r : EbReq) (a : Answer) (key : Option (List Byte)) :
    ReadKeeps s ((s.drawnTo n).respond r a key) := by
  simp [ReadKeeps]

/-- The command serves the request `r` as one that needs no session, and answers `A true` in a session and `A false` outside one. -/
def ServesRead (c : Instr) (r : EbReq) (s : State) (A : Bool → Answer) : Prop :=
  ∃ n, exec c s = .next ((s.drawnTo n).serveRead r (A false) fun _ => A true)

/-- Where the request carries no tag or the right one, the command answers it with the status `st` and a value that meets `p`, and changes nothing
but the answer. -/
def Gives (c : Instr) (r : EbReq) (s : State) (st : Byte) (p : List Byte → Prop) : Prop :=
  (r.auth = false ∨ (SessionHolds r s ∧ TagHolds r s)) → Completes c s fun t => ReadKeeps s t ∧ ∃ v, Answered s t r r.auth st v ∧ p v

section
variable {c : Instr} {r : EbReq} {s : State} {A : Bool → Answer}

theorem ServesRead.gives (h : ServesRead c r s A) {st : Byte} {p : List Byte → Prop} (hst : (A r.auth).status = st)
    (hlen : (A r.auth).value.length < 2 ^ 32) (hp : p (A r.auth).value) : Gives c r s st p := by
  intro hopen
  obtain ⟨n, hexec⟩ := h
  obtain ⟨key, hkey, hserve⟩ := State.serveRead_answers (s := s.drawnTo n) A hopen
  rw [hserve] at hexec
  refine ⟨_, hexec, readKeeps_respond s n r _ key, _, ?_, hp⟩
  have hans := answered_respond (s := s) (s1 := s.drawnTo n) rfl r _ key hlen
  rwa [hkey, hst] at hans

theorem ServesRead.gives_status (h : ServesRead c r s A) {st ver : Byte} (hans : A r.auth = .status_ st ver) :
    Gives c r s st fun v => v = [] :=
  h.gives (by rw [hans]; rfl) (by rw [hans]; exact Nat.two_pow_pos 32) (by rw [hans]; rfl)

theorem ServesRead.noSession (h : ServesRead c r s A) (ha : r.auth = true) (hs : ¬ SessionHolds r s) :
    Completes c s fun t => ReadKeeps s t ∧ Answered s t r false ebNoSession [] := by
  obtain ⟨n, hexec⟩ := h
  rw [State.serveRead_noSession (s := s.drawnTo n) _ _ ha hs] at hexec
  exact ⟨_, hexec, readKeeps_respond s n r _ none, answered_respond rfl r (.status_ ebNoSession 0) none (by decide)⟩

/-- A wrong tag is counted and answered without a tag (notes/assumptions/41.md). -/
theorem ServesRead.badTag (h : ServesRead c r s A) (ha : r.auth = true) (hs : SessionHolds r s) (ht : ¬ TagHolds r s) :
    Completes c s fun t => Answered s t r false ebAuthFailed [] ∧ t.hub.failedTags = satAdd s.hub.failedTags 1
      ∧ t.hub.dict = s.hub.dict ∧ t.chans = s.chans := by
  obtain ⟨n, hexec⟩ := h
  rw [State.serveRead_badTag (s := s.drawnTo n) _ _ ha hs ht] at hexec
  exact ⟨_, hexec, answered_respond (by simp) r (.status_ ebAuthFailed 0) none (by decide), by simp, by simp, by simp⟩

end

end Sys2Proof.Machine
end

section
/-! PROOFS. READ, DESCRIBE and IDENTIFY (R365, R366, R370, R375, R376): what each answers, case by case of the lookup. -/

namespace Sys2Proof.Machine

/-! ## The commands are served as reads -/

theorem read_serves {r : EbReq} {s : State} (h : s.asks r 0x01 = true) :
    ∃ free ver, ServesRead (.read r) r s fun auth => s.readAnswer r auth free ver := by
  refine ⟨(Config.free s.freeCount).toNat, (Config.free (s.freeCount + 1)).toNat, s.freeCount + 2, ?_⟩
  show execRead r s = _
  rw [execRead, h, enabled_true]
  rfl

theorem describe_serves {r : EbReq} {s : State} (h : s.asks r 0x03 = true) :
    ∃ free ver, ServesRead (.describe r) r s fun auth => s.describeAnswer r auth free ver := by
  refine ⟨fun i => Config.free (s.freeCount + 1 + i), (Config.free s.freeCount).toNat, s.freeCount + 65, ?_⟩
  show execDescribe r s = _
  rw [execDescribe, h, enabled_true]
  rfl

theorem identify_serves {r : EbReq} {s : State} (h : s.asks r 0x04 = true) :
    ServesRead (.identify r) r s fun _ => s.identifyAnswer := by
  refine ⟨s.freeCount, ?_⟩
  show execIdentify r s = _
  rw [execIdentify, h, enabled_true]
  rfl

/-! ## READ (R365, R376) -/

section
variable {r : EbReq} {s : State}

theorem read_gives_lookupError (h : s.asks r 0x01 = true) {st : Byte} (hl : lookup r.index.toNat r.sub.toNat = .error st) :
    Gives (.read r) r s st fun v => v = [] := by
  obtain ⟨free, ver, hserves⟩ := read_serves h
  exact hserves.gives_status (ver := 0) (by simp [State.readAnswer, hl])

theorem read_gives_writeOnly (h : s.asks r 0x01 = true) {e : Entry} (hl : lookup r.index.toNat r.sub.toNat = .ok e) (ha : e.access = .wo) :
    Gives (.read r) r s ebWriteOnly fun v => v = [] := by
  obtain ⟨free, ver, hserves⟩ := read_serves h
  exact hserves.gives_status (ver := s.verOf e r.index.toNat r.sub.toNat ver) (by simp [State.readAnswer, hl, ha])

theorem read_gives_notReady (h : s.asks r 0x01 = true) {e : Entry} (hl : lookup r.index.toNat r.sub.toNat = .ok e) (ha : e.access ≠ .wo)
    (hn : s.notReady r.index.toNat = true) : Gives (.read r) r s ebNotReady fun v => v = [] := by
  obtain ⟨free, ver, hserves⟩ := read_serves h
  exact hserves.gives_status (ver := s.verOf e r.index.toNat r.sub.toNat ver) (by simp [State.readAnswer, hl, ha, hn])

/-- A readable entry gives the part of its bytes that OFFSET, LEN and the room of the response leave, for every free value. -/
theorem read_gives_part (h : s.asks r 0x01 = true) {e : Entry} (hl : lookup r.index.toNat r.sub.toNat = .ok e) (ha : e.access ≠ .wo)
    (hn : s.notReady r.index.toNat = false) {p : List Byte → Prop}
    (hp : ∀ free, p (((s.entryBytes e r.index.toNat r.sub.toNat free).drop r.offset.toNat).take (Nat.min r.len.toNat (s.hub.room r.src r.auth)))) :
    Gives (.read r) r s ebOk p := by
  obtain ⟨free, ver, hserves⟩ := read_serves h
  have hstatus : (s.readAnswer r r.auth free ver).status = ebOk := by simp [State.readAnswer, hl, ha, hn]
  have hvalue : (s.readAnswer r r.auth free ver).value
      = ((s.entryBytes e r.index.toNat r.sub.toNat free).drop r.offset.toNat).take (Nat.min r.len.toNat (s.hub.room r.src r.auth)) := by
    simp [State.readAnswer, hl, ha, hn]
  refine hserves.gives hstatus ?_ (by rw [hvalue]; exact hp free)
  calc (s.readAnswer r r.auth free ver).value.length
    _ ≤ Nat.min r.len.toNat (s.hub.room r.src r.auth) := by rw [hvalue]; exact List.length_take_le ..
    _ ≤ s.hub.room r.src r.auth := Nat.min_le_right ..
    _ < 2 ^ 32 := by have := (s.hub.room_bounds r.src r.auth).2; omega

/-- A whole read of an entry of at most 40 bytes, which any response has room for, whose value is no free one. -/
theorem read_gives_whole (h : s.asks r 0x01 = true) {e : Entry} (hl : lookup r.index.toNat r.sub.toNat = .ok e) (ha : e.access ≠ .wo)
    (hn : s.notReady r.index.toNat = false) (ho : r.offset = 0) (hlen : r.len.toNat = e.size) (hsize : e.size ≤ 40) {x : Nat}
    (hx : ∀ free, s.entryNat e r.index.toNat r.sub.toNat free = x) : Gives (.read r) r s ebOk fun v => v = bytesLe e.size x := by
  refine read_gives_part h hl ha hn fun free => ?_
  have hroom := (s.hub.room_bounds r.src r.auth).1
  have hmin : Nat.min e.size (s.hub.room r.src r.auth) = e.size := Nat.min_eq_left (by omega)
  rw [State.entryBytes, hx, ho, hlen, hmin]
  exact List.take_of_length_le (by simp)

/-- Object 0x1008, the device name (R381). -/
theorem read_gives_name (h : s.asks r 0x01 = true) (hi : r.index.toNat = 0x1008) (hsub : r.sub.toNat = 0) (ho : r.offset = 0) (hlen : r.len = 8) :
    Gives (.read r) r s ebOk fun v => v = [0x53, 0x4C, 0x57, 0x2D, 0x39, 0x31, 0x36, 0x30] := by
  have hl : lookup r.index.toNat r.sub.toNat = .ok (deviceEntry 0x1008 0) := by rw [hi, hsub]; rfl
  have hn : s.notReady r.index.toNat = false := by rw [hi]; rfl
  have hbytes : bytesLe 8 (leNat [0x53, 0x4C, 0x57, 0x2D, 0x39, 0x31, 0x36, 0x30]) = [0x53, 0x4C, 0x57, 0x2D, 0x39, 0x31, 0x36, 0x30] := by decide
  rw [← hbytes]
  exact read_gives_whole h hl (by decide) hn ho (by rw [hlen]; rfl) (by decide) fun _ => by rw [hi, hsub]; rfl

/-- Object 0x7010, the power limit (R404). -/
theorem read_gives_powerLimit (h : s.asks r 0x01 = true) (hi : r.index.toNat = 0x7010) (hsub : r.sub.toNat = 0) (ho : r.offset = 0) (hlen : r.len = 4) :
    Gives (.read r) r s ebOk fun v => v = bytesLe 4 s.hub.dict.powerLimit.toNat := by
  have hl : lookup r.index.toNat r.sub.toNat = .ok (deviceEntry 0x7010 0) := by rw [hi, hsub]; rfl
  have hn : s.notReady r.index.toNat = false := by rw [hi]; rfl
  exact read_gives_whole h hl (by decide) hn ho (by rw [hlen]; rfl) (by decide) fun _ => by rw [hi, hsub]; rfl

theorem chanIndex_ofChannel : ∀ ch : Fin 32, chanIndex (0x4000 + 0x40 * ch.val) = some (ch.val, 0x00) := by decide

theorem topSub_ofChannel : ∀ ch : Fin 32, topSub (0x4000 + 0x40 * ch.val) = some 3 := by decide

/-- The entry of k = 0, subindex 1 of a channel: its state, which is read while the channel resets too (R382). -/
theorem lookup_chanState (ch : Fin 32) : lookup (0x4000 + 0x40 * ch.val) 1 = .ok (chanEntry 0x00 1) := by
  rw [lookup, topSub_ofChannel, chanIndex_ofChannel]
  rfl

theorem read_gives_chanState (h : s.asks r 0x01 = true) (ch : Fin 32) (hi : r.index.toNat = 0x4000 + 0x40 * ch.val) (hsub : r.sub.toNat = 1)
    (ho : r.offset = 0) (hlen : r.len = 1) : Gives (.read r) r s ebOk fun v => v = [BitVec.ofNat 8 (s.chan ch.val).state.val] := by
  have hl : lookup r.index.toNat r.sub.toNat = .ok (chanEntry 0x00 1) := by rw [hi, hsub, lookup_chanState]
  have hn : s.notReady r.index.toNat = false := by simp [State.notReady, hi, chanIndex_ofChannel]
  rw [← bytesLe_one]
  refine read_gives_whole h hl (by decide) hn ho (by rw [hlen]; rfl) (by decide) fun free => ?_
  rw [hi, hsub, State.entryNat, chanIndex_ofChannel]
  rfl

/-! ## DESCRIBE (R365, R375) -/

theorem describe_gives_lookupError (h : s.asks r 0x03 = true) {st : Byte} (hl : lookup r.index.toNat r.sub.toNat = .error st) :
    Gives (.describe r) r s st fun v => v = [] := by
  obtain ⟨free, ver, hserves⟩ := describe_serves h
  exact hserves.gives_status (ver := 0) (by simp [State.describeAnswer, hl])

/-- The first eight bytes of a description: type, access, flags and size. -/
def Entry.head (e : Entry) : List Byte :=
  [BitVec.ofNat 8 e.type, BitVec.ofNat 8 e.access.code, BitVec.ofNat 8 ((if e.p then 1 else 0) + if e.c then 2 else 0), 0] ++ bytesLe 4 e.size

theorem Entry.head_length (e : Entry) : e.head.length = 8 := by simp [Entry.head]

theorem State.describeAnswer_value {e : Entry} (hl : lookup r.index.toNat r.sub.toNat = .ok e) (hn : s.notReady r.index.toNat = false)
    (auth : Bool) (free : Nat → DWord) (ver : Nat) :
    (s.describeAnswer r auth free ver).value = (e.head ++ e.defaultBytes free).take (s.hub.room r.src auth) := by
  simp only [State.describeAnswer, hl, hn, Entry.head, bit, Nat.add_comm] <;> rfl

theorem describe_gives_entry (h : s.asks r 0x03 = true) {e : Entry} (hl : lookup r.index.toNat r.sub.toNat = .ok e)
    (hn : s.notReady r.index.toNat = false) :
    Gives (.describe r) r s ebOk fun v => v.take 8 = e.head ∧ ∀ n, e.dflt = some n → v = (e.head ++ bytesLe e.size n).take (s.hub.room r.src r.auth) := by
  obtain ⟨free, ver, hserves⟩ := describe_serves h
  obtain ⟨hroom, hroom'⟩ := s.hub.room_bounds r.src r.auth
  have hvalue := State.describeAnswer_value hl hn r.auth free ver
  refine hserves.gives (by simp [State.describeAnswer, hl, hn]) ?_ ⟨?_, fun n hd => ?_⟩
  · have hle : (s.describeAnswer r r.auth free ver).value.length ≤ s.hub.room r.src r.auth := by
      rw [hvalue]
      exact List.length_take_le ..
    omega
  · rw [hvalue, List.take_take, Nat.min_eq_left (by omega), ← e.head_length, List.take_left]
  · rw [hvalue, Entry.defaultBytes, hd]

/-! ## IDENTIFY (R365) -/

theorem identify_gives (h : s.asks r 0x04 = true) :
    Gives (.identify r) r s ebOk fun v =>
      v = bytesLe 4 0x4B4D ++ bytesLe 4 0x9160 ++ bytesLe 4 Config.hardwareRevision.toNat ++ bytesLe 4 Config.serial.toNat
        ++ [BitVec.ofNat 8 s.hub.address.val] ++ bytesLe 2 s.hub.node.val ++ [s.hub.dict.frameMode] := by
  refine (identify_serves h).gives rfl ?_ ?_
  · simp [State.identifyAnswer]
  · rw [← bytesLe_one]
    rfl

end

/-- Settles O49: each command is served as a request that needs no session, and what it answers is read off its answer in each case. That
a wrong tag is answered without a tag is log entry 41; the free values read and the free default bytes are log entry 40. -/
theorem ebfoldReads : Obligations.EbfoldReads := by
  unfold Obligations.EbfoldReads
  intro r s
  refine ⟨fun h => ⟨?_, ?_, ?_, ?_, ?_, ?_, ?_, ?_, ?_⟩, fun h => ⟨?_, ?_⟩, fun h => identify_gives h⟩
  · exact fun st hl => read_gives_lookupError h hl
  · exact fun e hl ha => read_gives_writeOnly h hl ha
  · exact fun e hl ha hn => read_gives_notReady h hl ha hn
  · exact fun e he ha => read_gives_part h he.1 ha he.2 fun free => ⟨free, rfl⟩
  · exact fun hi hsub ho hlen => read_gives_name h hi hsub ho hlen
  · exact fun hi hsub ho hlen => read_gives_powerLimit h hi hsub ho hlen
  · exact fun ch hi hsub ho hlen => read_gives_chanState h ch hi hsub ho hlen
  · intro ha hs
    obtain ⟨free, ver, hserves⟩ := read_serves h
    exact hserves.noSession ha hs
  · intro ha hs ht
    obtain ⟨free, ver, hserves⟩ := read_serves h
    exact hserves.badTag ha hs ht
  · exact fun st hl => describe_gives_lookupError h hl
  · exact fun e he => describe_gives_entry h he.1 he.2

end Sys2Proof.Machine
end

section
/-! PROOFS. A group that goes on after an instruction (R45): it runs the next one with its lanes and stack, unless its path ends there. -/

namespace Sys2Proof.Machine

/-- The part of a stack from its nearest join on starts with that join. -/
theorem head?_drop_aboveJoin : ∀ st : List StackEntry,
    (st.drop (st.takeWhile fun e => !e.kind.isJoin).length).head? = st.find? fun e => e.kind.isJoin
  | [] => rfl
  | e :: t => by
    cases hjoin : e.kind.isJoin with
    | true => simp only [List.takeWhile_cons, List.find?_cons, hjoin, Bool.not_true, Bool.false_eq_true, if_false, List.length_nil, List.drop_zero,
        List.head?_cons]
    | false =>
      simp only [List.takeWhile_cons, List.find?_cons, hjoin, Bool.not_false, if_true, List.length_cons, List.drop_succ_cons]
      exact head?_drop_aboveJoin t

/-- A path with a lane left that has not come to its join goes on. -/
theorem Group.settle_of_noJoinAt {x : Group} (hmask : x.mask ≠ 0) (hjoin : noJoinAt x x.pc) : x.settle = { x with waiting := .no } := by
  have hhead := head?_drop_aboveJoin x.stack
  have hlane : decide (x.mask ≠ 0) = true := decide_eq_true hmask
  unfold Group.settle settleLoop
  dsimp only
  generalize x.stack.drop (x.stack.takeWhile fun e => !e.kind.isJoin).length = rest at hhead ⊢
  rw [hlane]
  cases rest with
  | nil => rfl
  | cons j t =>
    have haddr : decide (j.addr = x.pc) = false := decide_eq_false (hjoin j hhead.symm)
    simp [haddr]

theorem Group.runsAt_advance {x : Group} (hmask : x.mask ≠ 0) (hjoin : noJoinAt x (x.pc + 8)) :
    RunsAt x.advance (x.pc + 8) x.mask x.stack := by
  unfold Group.advance
  rw [Group.settle_of_noJoinAt (x := { x with pc := x.pc + 8 }) hmask hjoin]
  exact ⟨rfl, rfl, rfl, rfl⟩

@[simp] theorem noted_pc (i : Issued) (x : Group) : (noted i x).pc = x.pc := by unfold noted; split <;> rfl
@[simp] theorem noted_mask (i : Issued) (x : Group) : (noted i x).mask = x.mask := by unfold noted; split <;> rfl
@[simp] theorem noted_stack (i : Issued) (x : Group) : (noted i x).stack = x.stack := by unfold noted; split <;> rfl

/-- After an issue that only notes itself in the group, the group runs the next instruction. -/
theorem runsAt_advance_noted {i : Issued} {x : Group} (hmask : x.mask ≠ 0) (hjoin : noJoinAt x (x.pc + 8)) :
    RunsAt (noted i x).advance (x.pc + 8) x.mask x.stack := by
  have h := Group.runsAt_advance (x := noted i x) (by simpa using hmask) (by simpa [noJoinAt] using hjoin)
  simpa using h

theorem sameRegs_advance_noted (i : Issued) (x : Group) : SameRegs x (noted i x).advance :=
  ⟨by simp, by simp, by simp, by simp⟩

/-- A group whose instruction reaches its effect has a lane left. -/
theorem Form.mask_ne_zero_of_clear {f : Form} {g : GRef} {w : DWord} {s : State} (h : f.clear g w s = true) : (s.group g).mask ≠ 0 := by
  unfold Form.clear at h
  simp only [Bool.and_eq_true] at h
  obtain ⟨⟨⟨⟨⟨hissues, -⟩, -⟩, -⟩, -⟩, -⟩ := h
  unfold Form.issues at hissues
  simp only [Bool.and_eq_true] at hissues
  obtain ⟨⟨⟨⟨⟨-, hmay⟩, -⟩, -⟩, -⟩, -⟩ := hissues
  unfold State.mayIssue at hmay
  simp only [Bool.and_eq_true, decide_eq_true_eq] at hmay
  obtain ⟨⟨⟨⟨⟨⟨-, hmask⟩, -⟩, -⟩, -⟩, -⟩, -⟩ := hmay
  exact hmask

end Sys2Proof.Machine
end

section
/-! PROOFS. The Querns of a state (R94, R97, R106): what each update leaves of them, of their queues and of memory. -/

namespace Sys2Proof.Machine

/-! ## What leaves every Quern as it was -/

theorem SameCore.quern_eq {c d : Core} (h : SameCore c d) : d.quern = c.quern := by
  obtain ⟨_, _, _, _, _, _, _, rfl⟩ := h
  rfl

theorem OnlyGroup.quern_eq {s t : State} {c n : Nat} (h : OnlyGroup s t c n) (k : Nat) : (t.core k).quern = (s.core k).quern := by
  obtain ⟨-, -, -, hcores, -, -⟩ := h
  exact (hcores k).quern_eq

theorem OnlyGroup.mem_eq {s t : State} {c n : Nat} (h : OnlyGroup s t c n) : t.mem = s.mem := by
  obtain ⟨⟨hmem, -⟩, -⟩ := h
  exact hmem

theorem State.quern_modCore {s : State} {k : Nat} {f : Core → Core} (h : (f (s.core k)).quern = (s.core k).quern) (j : Nat) :
    ((s.modCore k f).core j).quern = (s.core j).quern := by
  by_cases hj : j = k
  · rw [hj, State.modCore_core, h]
  · rw [State.modCore_core_other _ _ hj]

@[simp] theorem State.quern_modGroupAt (s : State) (k n : Nat) (f : Group → Group) (j : Nat) :
    ((s.modGroupAt k n f).core j).quern = (s.core j).quern := State.quern_modCore rfl j

@[simp] theorem State.quern_modBlockAt (s : State) (k b : Nat) (f : Block → Block) (j : Nat) :
    ((s.modBlockAt k b f).core j).quern = (s.core j).quern := State.quern_modCore rfl j

theorem State.modGroupAt_congr {s : State} {k n : Nat} {f h : Group → Group} (hfh : f (s.groupAt k n) = h (s.groupAt k n)) :
    s.modGroupAt k n f = s.modGroupAt k n h :=
  congrArg (fun x => s.setCore k ((s.core k).setGroup n x)) hfh

/-- Looking at a group's readiness takes a stamp and may set the group's own (R41). -/
theorem State.noteReady_eq (s : State) (k n : Nat) :
    ∃ since, s.noteReady k n = s.stamp.2.modGroupAt k n fun g => { g with readySince := since } := by
  unfold State.noteReady State.noteReadies
  simp only [List.foldl_cons, List.foldl_nil]
  by_cases hnone : ((s.stamp.2.groupAt k n).active || !s.stamp.2.readyAt k n) = true
  · exact ⟨none, State.modGroupAt_congr (if_pos hnone)⟩
  · by_cases hsome : (s.stamp.2.groupAt k n).readySince.isSome = true
    · exact ⟨(s.stamp.2.groupAt k n).readySince, State.modGroupAt_congr ((if_neg hnone).trans (if_pos hsome))⟩
    · exact ⟨some s.stamp.1, State.modGroupAt_congr ((if_neg hnone).trans (if_neg hsome))⟩

@[simp] theorem State.quern_noteReady (s : State) (k n j : Nat) : ((s.noteReady k n).core j).quern = (s.core j).quern := by
  obtain ⟨since, h⟩ := s.noteReady_eq k n
  rw [h, State.quern_modGroupAt, State.stamp_core]

/-! ## Groups beside a Quern -/

@[simp] theorem Core.quern_modQuern (c : Core) (f : Quern → Quern) : (c.modQuern f).quern = f c.quern := rfl
@[simp] theorem Core.group_modQuern (c : Core) (f : Quern → Quern) (n : Nat) : (c.modQuern f).group n = c.group n := rfl
@[simp] theorem Core.group_setBlock (c : Core) (b : Nat) (x : Block) (n : Nat) : (c.setBlock b x).group n = c.group n := rfl

/-- Looking at a group's readiness changes no register. -/
@[simp] theorem State.vword_noteReady (s : State) (k n r l : Nat) :
    (((s.noteReady k n).core k).group n).vword r l = ((s.core k).group n).vword r l := by
  obtain ⟨since, h⟩ := s.noteReady_eq k n
  rw [h, State.modGroupAt, State.modCore_core, Core.group_setGroup_self]
  rfl

/-! ## The queues -/

/-- The queues of every core's Quern, and memory. -/
def State.queuesAndMem (s : State) : (Nat → List QuernEntry) × List Host.Cell := (fun k => (s.core k).quern.queue, s.mem)

theorem State.queue_of_queuesAndMem {s t : State} (h : t.queuesAndMem = s.queuesAndMem) (k : Nat) :
    (t.core k).quern.queue = (s.core k).quern.queue := congrFun (congrArg Prod.fst h) k

theorem State.mem_of_queuesAndMem {s t : State} (h : t.queuesAndMem = s.queuesAndMem) : t.mem = s.mem := congrArg Prod.snd h

theorem State.queuesAndMem_of_eq {s t : State} (hq : ∀ k, (t.core k).quern = (s.core k).quern) (hm : t.mem = s.mem) :
    t.queuesAndMem = s.queuesAndMem := by
  unfold State.queuesAndMem
  simp only [hq, hm]

/-- A change of a Quern that keeps its queue. -/
theorem State.queuesAndMem_modQuern {s : State} {k : Nat} {f : Quern → Quern} (h : (f (s.core k).quern).queue = (s.core k).quern.queue) :
    (s.modCore k fun c => c.modQuern f).queuesAndMem = s.queuesAndMem := by
  unfold State.queuesAndMem
  refine Prod.ext (funext fun j => ?_) rfl
  by_cases hj : j = k
  · subst hj
    simpa using h
  · simp only [State.modCore_core_other _ _ hj]

@[simp] theorem State.queuesAndMem_countCore (s : State) (k code amt ctx : Nat) :
    (s.countCore k code amt ctx).queuesAndMem = s.queuesAndMem :=
  have h := OnlyGroup.countCore s k code amt ctx 0 0
  State.queuesAndMem_of_eq h.quern_eq h.mem_eq

@[simp] theorem State.queuesAndMem_orSticky (s : State) (ctx : Nat) (f : BitVec 3) : (s.orSticky ctx f).queuesAndMem = s.queuesAndMem := by
  unfold State.orSticky
  split <;> rfl

@[simp] theorem State.queuesAndMem_flagGroup (s : State) (k n ctx : Nat) (f : BitVec 3) :
    (s.flagGroup k n ctx f).queuesAndMem = s.queuesAndMem := by
  unfold State.flagGroup
  split
  · rfl
  · split
    · exact State.queuesAndMem_of_eq (State.quern_modGroupAt s k n _) rfl
    · exact State.queuesAndMem_orSticky s ctx f

/-! ## The banks -/

theorem tget_filter_key {α : Type} (d : α) (p : Nat → Bool) (i : Nat) :
    ∀ t : Table α, tget d (t.filter fun e => p e.1) i = if p i = true then tget d t i else d
  | [] => by simp [tget]
  | (k, v) :: t => by
    have ih := tget_filter_key d p i t
    by_cases hk : i = k
    · subst hk
      by_cases hp : p i = true <;> simp [hp, tget, ih]
    · by_cases hp : p k = true <;> simp [hp, tget, ih, hk]

/-- The keys of bank B are those from 32 on. -/
theorem accKey_bank (b : Bool) {n : Nat} (hn : n < 32) : decide (32 ≤ accKey b n) = b := by
  unfold accKey
  cases b
  · simpa using hn
  · simp

theorem Quern.entry_clearBank (q : Quern) (b c : Bool) {n : Nat} (hn : n < 32) :
    (q.clearBank b).entry c n = if c = b then 0 else q.entry c n := by
  show tget 0 (q.acc.filter fun e => decide (32 ≤ e.1) != b) (accKey c n) = _
  rw [tget_filter_key 0 (fun j => decide (32 ≤ j) != b), accKey_bank c hn]
  cases b <;> cases c <;> rfl

end Sys2Proof.Machine
end

section
/-! PROOFS. The instructions of the Quern at issue (R93, R97): each takes one entry of its core's queue, and its group goes on. -/

namespace Sys2Proof.Machine

/-- The core's queue has taken an entry of the group for the operation `op`; the group has gone on and kept its registers, and memory is as the
fetch left it (R97). -/
def TookEntry (g : GRef) (w : DWord) (s : State) (op : QuernOp) (t : State) : Prop :=
  let x := s.group g
  let i := s.issued g w
  let q := (s.core i.core).quern
  ∃ e : QuernEntry, (t.core i.core).quern = { q with queue := q.queue ++ [e] } ∧ e.op = op ∧ e.slot = g.slot ∧ e.live = true
    ∧ e.started = false ∧ e.ctx = (s.blockOf g).ctx ∧ e.mask = i.mask ∧ e.pc = x.pc
    ∧ SameRegs x (t.group g) ∧ t.mem = (s.afterFetch i).mem
    ∧ (noJoinAt x (x.pc + 8) → RunsAt (t.group g) (x.pc + 8) x.mask x.stack)

/-- The entry that an instruction takes. -/
def Issued.quernEntry (i : Issued) (op : QuernOp) : QuernEntry :=
  let l := i.s.launchOf i.blk.launch
  { id := i.s.tickets, slot := i.g.slot, ident := i.grp.ident, seq := l.seq, tag := l.tagField, live := true, pc := i.grp.pc, mask := i.mask,
    ctx := i.blk.ctx, flush := i.blk.flush, satNaR := i.blk.satNaR, started := false, op := op }

/-- What `enqueue` does: the entry stands last in the queue, and the group goes to its next instruction. -/
theorem Issued.enqueue_next (i : Issued) (op : QuernOp) : ∃ t, i.enqueue op = .next t
    ∧ (t.core i.core).quern = { (i.s.core i.core).quern with queue := (i.s.core i.core).quern.queue ++ [i.quernEntry op] }
    ∧ t.group i.g = (i.s.group i.g).advance ∧ t.mem = i.s.mem := by
  obtain ⟨s1, hs1⟩ : ∃ s1, s1 = i.s.stamp.2.modCore i.core fun c => c.modQuern fun q => { q with queue := q.queue ++ [i.quernEntry op] } := ⟨_, rfl⟩
  have hkept : OnlyGroup s1 ((s1.modGroup i.g fun x => (id x).advance).tagDone i.core i.g.slot.val) (coreId i.g.core) i.g.slot.val :=
    (OnlyGroup.modGroup s1 i.g _).trans (OnlyGroup.tagDone _ _ _ _ _)
  have hgroup : s1.group i.g = i.s.group i.g := by
    rw [hs1]
    exact State.group_of_account _ _ _ _ fun c n => Core.group_modQuern c _ n
  refine ⟨(s1.modGroup i.g fun x => (id x).advance).tagDone i.core i.g.slot.val, by rw [hs1]; rfl, ?_, ?_, ?_⟩
  · rw [hkept.quern_eq, hs1, State.modCore_core]
    rfl
  · rw [State.group_tagDone, State.group_modGroup, hgroup]
    rfl
  · rw [hkept.mem_eq, hs1]
    rfl

/-! ## The state in which an instruction is executed -/

theorem State.quern_atIssue (s : State) (i : Issued) (k : Nat) : ((s.atIssue i).core k).quern = (s.core k).quern := by
  rw [State.atIssue, (OnlyGroup.noteIssue _ i).quern_eq, State.afterFetch_core]

theorem State.mem_atIssue (s : State) (i : Issued) : (s.atIssue i).mem = (s.afterFetch i).mem := (OnlyGroup.noteIssue _ i).mem_eq

theorem State.group_atIssue (s : State) (g : GRef) (w : DWord) :
    (s.atIssue (s.issued g w)).group g = noted (s.issued g w) (s.group g) :=
  State.group_noteIssue s _ g w (State.afterFetch_cores s _)

/-- An instruction that ends in `enqueue` takes an entry wherever it reaches its effect. -/
theorem tookEntry_of_clear {c : Instr} {f : Form} {run : Issued → QuernOp} {g : GRef} {w : DWord} {s : State} {op : QuernOp}
    (hexec : exec c s = f.issue g w s fun i => i.enqueue (run i))
    (hop : run { s.issued g w with s := s.atIssue (s.issued g w) } = op) (h : f.clear g w s = true) :
    Completes c s (TookEntry g w s op) := by
  have hmask := Form.mask_ne_zero_of_clear h
  obtain ⟨t, hnext, hquern, hgroup, hmem⟩ := Issued.enqueue_next { s.issued g w with s := s.atIssue (s.issued g w) } op
  rw [Form.issue_of_clear f g w s _ h, hop, hnext] at hexec
  rw [State.quern_atIssue] at hquern
  have hgroup : t.group g = (noted (s.issued g w) (s.group g)).advance := hgroup.trans (congrArg _ (State.group_atIssue s g w))
  refine ⟨t, hexec, _, hquern, rfl, rfl, rfl, rfl, rfl, rfl, rfl, ?_, hmem.trans (State.mem_atIssue s _), fun hjoin => ?_⟩
  · rw [hgroup]
    exact sameRegs_advance_noted _ _
  · rw [hgroup]
    exact runsAt_advance_noted hmask hjoin

end Sys2Proof.Machine
end

section
/-! PROOFS. A queued instruction of the Quern starts (R94, R95, R98, R106, R110): what it marks in the queue, and what QSWAP and QZERO change at once. -/

namespace Sys2Proof.Machine

/-! ## The marks of the queue -/

/-- The entry `id` of a queue has started, and every entry stands where it stood. -/
def StartedIn (id : Nat) (before after : List QuernEntry) : Prop :=
  (∃ e ∈ after, e.id = id ∧ e.started = true) ∧ (after.map fun e => e.id) = before.map fun e => e.id

theorem startedIn_map {id : Nat} {q : List QuernEntry} {x : QuernEntry} {f : QuernEntry → QuernEntry} (hx : x ∈ q) (hid : x.id = id)
    (hkeep : ∀ y, (f y).id = y.id) (hstart : (f x).started = true) : StartedIn id q (q.map f) :=
  ⟨⟨f x, List.mem_map_of_mem hx, (hkeep x).trans hid, hstart⟩, by simp [hkeep]⟩

/-- The entry that starts takes what it captured. -/
def QuernEntry.startAs (id : Nat) (op : QuernOp) (x : QuernEntry) : QuernEntry :=
  if x.id = id then { x with started := true, op := op } else x

@[simp] theorem QuernEntry.id_startAs (id : Nat) (op : QuernOp) (x : QuernEntry) : (x.startAs id op).id = x.id := by
  unfold QuernEntry.startAs
  split <;> rfl

/-- The mark in a Quern's queue, and in that of a core. -/
def Quern.startAs (q : Quern) (id : Nat) (op : QuernOp) : Quern := { q with queue := q.queue.map fun x => x.startAs id op }

def State.startAs (s : State) (k id : Nat) (op : QuernOp) : State := s.modCore k fun c => c.modQuern fun q => q.startAs id op

/-! ## What each operation does as it starts -/

section
variable {s : State} {k : Nat} {e : QuernEntry}

theorem State.quernStart_swap (h : e.op = .swap) (hg : (s.core k).gangQuern = false) :
    s.quernStart k e = ((s.modCore k fun c => c.modQuern fun q => { q with active := q.shadow, shadow := q.active }).modCore k
      fun c => c.modQuern fun q => { q with gangSwapped := true }).startAs k e.id .swap := by
  simp only [State.quernStart, h, hg]
  rfl

theorem State.quernStart_zero {b : Bool} (h : e.op = .zero b) :
    s.quernStart k e = (s.startAs k e.id (.zero b)).modCore k fun c => c.modQuern fun q => q.clearBank b := by
  simp only [State.quernStart, h]
  rfl

/-- Every start leaves of the queues and of memory what the mark of its entry leaves. -/
theorem State.quernStart_marks (s : State) (k : Nat) (e : QuernEntry) :
    ∃ (op : QuernOp) (s1 : State), s1.queuesAndMem = s.queuesAndMem ∧ (s.quernStart k e).queuesAndMem = (s1.startAs k e.id op).queuesAndMem := by
  unfold State.quernStart
  cases e.op with
  | load loc gang a ws fmt r m => exact ⟨_, s, rfl, rfl⟩
  | swap =>
    dsimp only
    refine ⟨_, _, ?_, rfl⟩
    rw [State.queuesAndMem_modQuern rfl]
    split
    · exact foldl_keeps State.queuesAndMem _ (fun _ _ => State.queuesAndMem_modQuern rfl) _ s
    · exact State.queuesAndMem_modQuern rfl
  | stream a n sc fmt b acc scaled gang sets ws scs =>
    dsimp only
    split
    · refine ⟨_, _, ?_, rfl⟩
      rw [foldl_keeps State.queuesAndMem _ (fun _ _ => State.queuesAndMem_countCore _ _ _ _ _), State.queuesAndMem_countCore]
    · refine ⟨_, _, ?_, rfl⟩
      rw [State.queuesAndMem_countCore, State.queuesAndMem_countCore]
  | drain d ot b sat clr es wr =>
    dsimp only
    refine ⟨.drain d ot b sat clr ((List.range 32).map fun n => (s.core k).quern.entry b n) ((s.core k).quern.bankWritten b), s, rfl, ?_⟩
    split
    · exact State.queuesAndMem_modQuern rfl
    · rfl
  | zero b => exact ⟨_, s, rfl, State.queuesAndMem_modQuern rfl⟩

theorem State.mem_quernStart (s : State) (k : Nat) (e : QuernEntry) : (s.quernStart k e).mem = s.mem := by
  obtain ⟨op, s1, h1, h2⟩ := s.quernStart_marks k e
  calc (s.quernStart k e).mem
    _ = (s1.startAs k e.id op).mem := State.mem_of_queuesAndMem h2
    _ = s1.mem := rfl
    _ = s.mem := State.mem_of_queuesAndMem h1

theorem State.startedIn_quernStart (hmem : e ∈ (s.core k).quern.queue) :
    StartedIn e.id (s.core k).quern.queue ((s.quernStart k e).core k).quern.queue := by
  obtain ⟨op, s1, h1, h2⟩ := s.quernStart_marks k e
  rw [State.queue_of_queuesAndMem h2, State.startAs, State.modCore_core, ← State.queue_of_queuesAndMem h1]
  rw [← State.queue_of_queuesAndMem h1] at hmem
  exact startedIn_map hmem rfl (QuernEntry.id_startAs e.id op) (by simp [QuernEntry.startAs])

/-- QSWAP outside a gang (R94, R95). -/
theorem State.quern_quernStart_swap (h : e.op = .swap) (hg : (s.core k).gangQuern = false) :
    let q := (s.core k).quern
    let r := ((s.quernStart k e).core k).quern
    r.active = q.shadow ∧ r.shadow = q.active ∧ r.acc = q.acc := by
  simp [State.quernStart_swap h hg, State.startAs, Quern.startAs]

/-- QZERO (R106). -/
theorem State.quern_quernStart_zero {b : Bool} (h : e.op = .zero b) :
    let q := (s.core k).quern
    let r := ((s.quernStart k e).core k).quern
    r.active = q.active ∧ r.shadow = q.shadow ∧ ∀ n, n < 32 → r.entry b n = 0 ∧ r.entry (!b) n = q.entry (!b) n := by
  have hquern : ((s.quernStart k e).core k).quern = ((s.core k).quern.startAs e.id (.zero b)).clearBank b := by
    simp [State.quernStart_zero h, State.startAs]
  intro q r
  unfold r
  rw [hquern]
  refine ⟨rfl, rfl, fun n hn => ⟨?_, ?_⟩⟩
  · rw [Quern.entry_clearBank _ _ _ hn, if_pos rfl]
  · rw [Quern.entry_clearBank _ _ _ hn, if_neg (by simp)]
    rfl

end

/-! ## The start -/

section
variable {c : CoreRef} {id : Nat} {s : State} {x : QuernEntry}

/-- A Quern whose block has ended only marks the entry (R110). -/
def Quern.markStarted (q : Quern) (id : Nat) : Quern :=
  { q with queue := q.queue.map fun y => if y.id = id then { y with started := true } else y }

theorem Quern.startedIn_markStarted {q : Quern} (hmem : x ∈ q.queue) (hid : x.id = id) : StartedIn id q.queue (q.markStarted id).queue := by
  refine startedIn_map hmem hid (fun y => ?_) (by simp [hid])
  split <;> rfl

/-- In what a ready instruction reads no error is found: it starts. -/
theorem exec_quernQueueStart (hfind : (s.core (coreId c)).quern.queue.find? (fun x => decide (x.id = id) && !x.started) = some x)
    (hready : s.quernReady (coreId c) x = true) :
    exec (.quernQueueStart c id []) s = .next (if (s.core (coreId c)).quern.block = none
      then s.modCore (coreId c) fun c => c.modQuern fun q => q.markStarted id else s.quernStart (coreId c) x) := by
  show execQuernQueueStart c id [] s = _
  unfold execQuernQueueStart
  simp only [hfind, hready, enabled_true, List.filterMap_nil, List.foldl_nil, List.find?_nil]
  split <;> rfl

theorem found_of_find? {q : List QuernEntry} {p : QuernEntry → Bool} (h : q.find? (fun x => decide (x.id = id) && p x) = some x) :
    x ∈ q ∧ x.id = id := by
  have hx := List.find?_some h
  simp only [Bool.and_eq_true, decide_eq_true_eq] at hx
  exact ⟨List.mem_of_find?_eq_some h, hx.1⟩

end

end Sys2Proof.Machine
end

section
/-! PROOFS. A started instruction of the Quern completes (R97, R104, R106): its entry leaves the queue, and its results are written. -/

namespace Sys2Proof.Machine

/-! ## The results keep the queues and memory -/

theorem Quern.queue_step (q : Quern) (flush gang : Bool) (wfmt : BitVec 4) (bank accum scaled : Bool) (j : Nat) (parts : List RowPart) :
    (q.step flush gang wfmt bank accum scaled j parts).1.queue = q.queue := by
  unfold Quern.step
  refine foldl_keeps (fun a : Quern × Bool => a.1.queue) _ (fun a m => ?_) _ (q, false)
  extract_lets on terms r
  split <;> rfl

theorem Quern.queue_runSteps (q : Quern) (flush gang : Bool) (fmt : BitVec 4) (bank accum scaled : Bool) (parts : Nat → List RowPart) :
    ∀ n, (q.runSteps flush gang fmt bank accum scaled parts n).1.queue = q.queue
  | 0 => rfl
  | n + 1 => by
    unfold Quern.runSteps
    exact (Quern.queue_step _ _ _ _ _ _ _ _ _).trans (Quern.queue_runSteps q flush gang fmt bank accum scaled parts n)

theorem State.queuesAndMem_streamResults (s : State) (k : Nat) (e : QuernEntry) (n : Nat) (fmt : BitVec 4) (bank accum scaled gang : Bool)
    (sets : List QuernSet) (ws : List (BitVec 16)) (scs : List Byte) :
    (s.streamResults k e n fmt bank accum scaled gang sets ws scs).queuesAndMem = s.queuesAndMem := by
  unfold State.streamResults
  extract_lets code depth parts x r fl
  have hr : r.1.queuesAndMem = s.queuesAndMem := by
    unfold r
    split
    · refine foldl_keeps (fun a : State × Bool => a.1.queuesAndMem) _ (fun a row => ?_) _ (s, false)
      exact State.queuesAndMem_modQuern (Quern.queue_runSteps _ _ _ _ _ _ _ _ _)
    · exact State.queuesAndMem_modQuern (Quern.queue_runSteps _ _ _ _ _ _ _ _ _)
  split
  · rw [State.queuesAndMem_flagGroup, hr]
  · rw [State.queuesAndMem_orSticky, hr]

section
variable {s : State} {k : Nat} {e : QuernEntry}

theorem State.quernResults_load {loc gang : Bool} {a : Nat} {ws : List Word} {f r : BitVec 4} {m : Byte} (h : e.op = .load loc gang a ws f r m) :
    s.quernResults k e = s.modCore k fun c => c.modQuern fun q => { q with shadow := setOfWords gang f r m ws } := by
  simp only [State.quernResults, h]

/-- A drain writes registers of its group, and counts what it wrote at its block. -/
theorem State.quernResults_drain {d : Nat} {ot : BitVec 4} {b : Bool} {sat : BitVec 2} {clr : Bool} {es : List Word} {wr : BitVec 32}
    (h : e.op = .drain d ot b sat clr es wr) (s : State) (k : Nat) :
    let s1 := s.modGroupAt k e.slot.val (drainGroup e d ot sat es)
    s.quernResults k e = s1 ∨ ∃ blk f, s.quernResults k e = s1.modBlockAt k blk f := by
  unfold State.quernResults
  rw [h]
  dsimp only
  split
  · refine .inr ⟨_, _, rfl⟩
  · exact .inl rfl

theorem State.queuesAndMem_quernResults (s : State) (k : Nat) (e : QuernEntry) : (s.quernResults k e).queuesAndMem = s.queuesAndMem := by
  cases h : e.op with
  | load loc gang a ws f r m => exact State.quernResults_load h ▸ State.queuesAndMem_modQuern rfl
  | swap => simp [State.quernResults, h]
  | stream a n sc fmt b acc scaled gang sets ws scs =>
    simp only [State.quernResults, h]
    exact State.queuesAndMem_streamResults s k e n fmt b acc scaled gang sets ws scs
  | drain d ot b sat clr es wr =>
    rcases State.quernResults_drain h s k with hr | ⟨blk, f, hr⟩ <;> rw [hr]
    · exact State.queuesAndMem_of_eq (State.quern_modGroupAt s k _ _) rfl
    · exact State.queuesAndMem_of_eq (fun j => by simp) rfl
  | zero b => simp [State.quernResults, h]

/-! ## The registers of a drain to binary32 (R106) -/

/-- An entry as a drain to binary32 writes it. -/
def drainedWord (v : Word) : Word := if isNaN32 v then 0x7FC00000 else if v = 0x80000000 then 0 else v

theorem dropNegZero_drained (v : Word) : dropNegZero (if isNaN32 v then canonNaN else v) = drainedWord v := by
  unfold drainedWord
  split
  · decide
  · rfl

theorem allLanes_getLsbD : ∀ l, l < 16 → (0xFFFF : Mask).getLsbD l = true := by decide

/-- Lane l of v(D) takes entry l, and lane l of v(D+1) entry 16 + l, whatever the execution mask. -/
theorem vword_drainGroup_f32 (e : QuernEntry) (d : Nat) (sat : BitVec 2) (es : List Word) (x : Group) {l : Nat} (hl : l < 16) :
    (drainGroup e d 4 sat es x).vword d l = ⟨drainedWord (es.getD l 0), false⟩
      ∧ (drainGroup e d 4 sat es x).vword (d + 1) l = ⟨drainedWord (es.getD (16 + l) 0), false⟩ := by
  have hlane := allLanes_getLsbD l hl
  unfold drainGroup
  rw [if_pos rfl]
  constructor
  · rw [Group.vword_setLanes _ _ _ _ _ _ hl, if_neg (by simp), Group.vword_setLanes _ _ _ _ _ _ hl, if_pos ⟨rfl, hlane⟩]
    exact congrArg clean (dropNegZero_drained _)
  · rw [Group.vword_setLanes _ _ _ _ _ _ hl, if_pos ⟨rfl, hlane⟩]
    exact congrArg clean (dropNegZero_drained _)

theorem State.group_quernResults_drain {d : Nat} {ot : BitVec 4} {b : Bool} {sat : BitVec 2} {clr : Bool} {es : List Word} {wr : BitVec 32}
    (h : e.op = .drain d ot b sat clr es wr) :
    ((s.quernResults k e).core k).group e.slot.val = drainGroup e d ot sat es ((s.core k).group e.slot.val) := by
  rcases State.quernResults_drain h s k with hr | ⟨blk, f, hr⟩
  · rw [hr, State.modGroupAt, State.modCore_core, Core.group_setGroup_self]
  · rw [hr, State.modBlockAt, State.modCore_core, Core.group_setBlock, State.modGroupAt, State.modCore_core, Core.group_setGroup_self]

end

/-! ## The end of an entry -/

/-- The Quern without the entry `id`; without its last one, a Quern whose block has ended is idle (R110). -/
def Quern.retire (q : Quern) (id : Nat) : Quern :=
  let rest := q.queue.filter fun x => !decide (x.id = id)
  if rest = [] && decide (q.block = none) then Quern.idle else { q with queue := rest }

theorem Quern.queue_retire (q : Quern) (id : Nat) : (q.retire id).queue = q.queue.filter fun x => !decide (x.id = id) := by
  unfold Quern.retire
  extract_lets rest
  split
  next h =>
    simp only [Bool.and_eq_true, decide_eq_true_eq] at h
    exact h.1.symm
  next => rfl

/-- While the block holds the Quern, its sets stay. -/
theorem Quern.sets_retire {q : Quern} (h : q.block ≠ none) (id : Nat) : (q.retire id).shadow = q.shadow ∧ (q.retire id).active = q.active := by
  simp [Quern.retire, h]

/-- The state in which an instruction's results are written, while the block holds the Quern. -/
def State.resultsWritten (s : State) (k : Nat) (e : QuernEntry) : State :=
  if (s.core k).quern.block = none then s else s.quernResults k e

theorem State.queuesAndMem_resultsWritten (s : State) (k : Nat) (e : QuernEntry) : (s.resultsWritten k e).queuesAndMem = s.queuesAndMem := by
  unfold State.resultsWritten
  split
  · rfl
  · exact State.queuesAndMem_quernResults s k e

/-- A started instruction whose earlier streams have completed completes. -/
theorem exec_quernInstructionComplete {c : CoreRef} {id : Nat} {s : State} {e : QuernEntry}
    (hfind : (s.core (coreId c)).quern.queue.find? (fun x => decide (x.id = id) && x.started) = some e)
    (horder : ∀ x ∈ (s.core (coreId c)).quern.queue, x.op.isStream = true → e.op.isStream = true → id ≤ x.id) :
    exec (.quernInstructionComplete c id) s = .next (((s.resultsWritten (coreId c) e).modCore (coreId c)
      fun c => c.modQuern fun q => q.retire id).noteReady (coreId c) e.slot.val) := by
  have hfirst : (e.op.isStream && (s.core (coreId c)).quern.queue.any fun x => x.op.isStream && decide (x.id < id)) = false := by
    rw [Bool.and_eq_false_imp]
    intro hstream
    rw [List.any_eq_false]
    intro x hx hlt
    simp only [Bool.and_eq_true, decide_eq_true_eq] at hlt
    exact absurd (horder x hx hlt.1 hstream) (by omega)
  show execQuernInstructionComplete c id s = _
  unfold execQuernInstructionComplete
  simp only [hfind, hfirst, Bool.not_false, enabled_true]
  rfl

/-! ## The queue as a whole -/

/-- Settles O20: at issue each instruction ends in `enqueue`; a start marks its entry, and of the sets and banks changes what QSWAP and QZERO change;
a completion writes the results of its entry and takes it out of the queue. -/
theorem quernQueue : Obligations.QuernQueue := by
  refine ⟨fun g w s => ?issue, fun c id s x => ?start, fun c id s e => ?complete⟩
  case issue =>
    exact ⟨tookEntry_of_clear rfl rfl, tookEntry_of_clear rfl rfl, tookEntry_of_clear rfl rfl, tookEntry_of_clear rfl rfl,
      tookEntry_of_clear rfl rfl⟩
  case start =>
    dsimp only
    intro hfind hready
    obtain ⟨hmem, hid⟩ := found_of_find? hfind
    have hexec := exec_quernQueueStart hfind hready
    by_cases hblock : (s.core (coreId c)).quern.block = none
    · rw [if_pos hblock] at hexec
      obtain ⟨hmark, hids⟩ := Quern.startedIn_markStarted hmem hid
      refine ⟨_, hexec, ?_⟩
      dsimp only
      rw [State.modCore_core, Core.quern_modQuern]
      exact ⟨hmark, hids, rfl, fun _ => ⟨rfl, rfl, rfl⟩, fun h => absurd hblock h, fun h => absurd hblock h⟩
    · rw [if_neg hblock] at hexec
      obtain ⟨hmark, hids⟩ := State.startedIn_quernStart hmem
      rw [hid] at hmark
      exact ⟨_, hexec, hmark, hids, State.mem_quernStart s _ x, fun h => absurd h hblock,
        fun _ hop hgang => State.quern_quernStart_swap hop hgang, fun _ b hop => State.quern_quernStart_zero hop⟩
  case complete =>
    dsimp only
    intro hfind horder
    have hkept := s.queuesAndMem_resultsWritten (coreId c) e
    have hmem : (s.resultsWritten (coreId c) e).mem = s.mem := State.mem_of_queuesAndMem hkept
    refine ⟨_, exec_quernInstructionComplete hfind horder, ?queue, ?load, ?drain⟩
    case queue =>
      rw [State.quern_noteReady, State.modCore_core, Core.quern_modQuern, Quern.queue_retire, State.queue_of_queuesAndMem hkept]
    case load =>
      intro hblock loc gang a ws f r m hop
      have hresult : ((s.resultsWritten (coreId c) e).core (coreId c)).quern
          = { (s.core (coreId c)).quern with shadow := setOfWords gang f r m ws } := by
        rw [State.resultsWritten, if_neg hblock, State.quernResults_load hop, State.modCore_core]
        rfl
      rw [State.quern_noteReady, State.modCore_core, Core.quern_modQuern, hresult]
      obtain ⟨hshadow, hactive⟩ := Quern.sets_retire (q := { (s.core (coreId c)).quern with shadow := setOfWords gang f r m ws }) hblock id
      exact ⟨hshadow, hactive, hmem⟩
    case drain =>
      intro hblock d b sat clr es wr hop
      refine ⟨fun l hl => ?_, hmem⟩
      rw [State.vword_noteReady, State.vword_noteReady, State.modCore_core, Core.group_modQuern, State.resultsWritten, if_neg hblock,
        State.group_quernResults_drain hop]
      exact vword_drainGroup_f32 e d sat es _ hl

end Sys2Proof.Machine
end
